-- ==== Sys2Proof/Word.lean ====
section
/-! DEFINITION. The word types of the Penjor 16 (spec/00 R5: a register holds 64 bits, bit 0 the least significant). -/

namespace Sys2Proof

/-- The contents of a scalar register, an address or a literal (64 bits, 06 R105). -/
abbrev Word := BitVec 64

/-- One byte of memory. -/
abbrev Byte := BitVec 8

/-- One 32-bit instruction word (04 R64). -/
abbrev IWord := BitVec 32

/-- The contents of a vector register (128 bits, 06 R112). -/
abbrev VWord := BitVec 128

end Sys2Proof
end

