-- ==== Sys2Proof/Machine/Table.lean ====
section
/-! DEFINITION. Finite tables by number, held as lists with rising keys: what the model keeps of structures of which
most entries stand at their reset value (cells, hubs, records, accumulator elements). -/

namespace Sys2Proof.Machine

/-- A table: a list of numbered entries. An entry that is not listed stands at its reset value. -/
abbrev Table (α : Type) := List (Nat × α)

/-- Entry k, or the value d that an unlisted entry has. -/
def Table.get {α : Type} (d : α) : Table α → Nat → α
  | [], _ => d
  | (i, v) :: t, k => if i = k then v else Table.get d t k

/-- The table with entry k written. -/
def Table.set {α : Type} : Table α → Nat → α → Table α
  | [], k, v => [(k, v)]
  | (i, w) :: t, k, v =>
    if i = k then (k, v) :: t
    else if k < i then (k, v) :: (i, w) :: t
    else (i, w) :: Table.set t k v

/-- The numbers of the listed entries. -/
def Table.keys {α : Type} (t : Table α) : List Nat := t.map Prod.fst

/-- Element i of a list, when there is one, replaced. -/
def listSet {α : Type} : List α → Nat → α → List α
  | [], _, _ => []
  | _ :: l, 0, v => v :: l
  | x :: l, i + 1, v => x :: listSet l i v

/-- The list without its element i. -/
def listErase {α : Type} : List α → Nat → List α
  | [], _ => []
  | _ :: l, 0 => l
  | x :: l, i + 1 => x :: listErase l i

/-- Element i of a list. -/
def listGet {α : Type} : List α → Nat → Option α
  | [], _ => none
  | x :: _, 0 => some x
  | _ :: l, i + 1 => listGet l i

/-- The position of the first element with a property. -/
def listFind {α : Type} (p : α → Bool) : List α → Option Nat
  | [] => none
  | x :: l => if p x then some 0 else (listFind p l).map (· + 1)

end Sys2Proof.Machine
end

