-- ==== Sys2Proof/Syntax.lean ====
section
/-! DEFINITION. The instructions and events of the Penjor 16: one constructor per row of spec/opcode_table.json.
An instruction carries its operands (spec/04 R67-R79) and ends with its switch marker SW (R65). An event of the part
carries the index of the engine, packet or queue entry it concerns, or the choice that the spec leaves to the
firmware. -/

namespace Sys2Proof

/-- A scalar register operand (04 R71): the codes 0-31 in the order a, l, n, zr, sp, ci, si, y. -/
inductive SReg where
  | a (i : Fin 8) | l (i : Fin 8) | n (i : Fin 8) | zr | sp | ci | si | y (i : Fin 4)
  deriving DecidableEq, Repr

/-- A B operand that is a scalar source: a register, or the 64-bit literal that replaces it (04 R69). -/
inductive Src where
  | reg (r : SReg)
  | lit (v : Word)
  deriving DecidableEq, Repr

/-- The immediate of the I and M formats: imm12, or the literal that replaces it (04 R68, R69). -/
inductive Imm where
  | imm (v : BitVec 12)
  | lit (v : Word)
  deriving DecidableEq, Repr

/-- v0-v15. -/
abbrev VReg := Fin 16
/-- k0-k3. -/
abbrev KReg := Fin 4
/-- A post register m0-m31. -/
abbrev PostIx := Fin 32
/-- A route class 0-7 (01 R26). -/
abbrev Cls := Fin 8

/-- The nine scopes, in the order of their codes (00 R8). -/
inductive Scope where
  | self | cell | twin | tile | group | sgrp | col | mod | sys
  deriving DecidableEq, Repr

/-- The element types, in the order of their codes (04 R72). -/
inductive ElemTy where
  | i8 | i16 | i32 | i64 | n8 | n16 | n32 | n64 | f32 | f16 | bf16 | e4m3 | e5m2
  deriving DecidableEq, Repr

/-- The three vector float types: VFP (04 R76), NEAR (R79) and VBLK (11 R210). -/
inductive FTy where
  | f32 | f16 | bf16
  deriving DecidableEq, Repr

/-- The eight integer types of VINT, codes 0-7 of 04 R72. -/
inductive ITy where
  | i8 | i16 | i32 | i64 | n8 | n16 | n32 | n64
  deriving DecidableEq, Repr

/-- The three forms of KMOV (11 R207). -/
inductive KmovForm where
  | kk (d a : KReg)
  | sk (d : SReg) (a : KReg)
  | ks (d : KReg) (a : SReg)
  deriving DecidableEq, Repr

/-- VZERO's destination (11 R205). -/
inductive VorK where
  | v (r : VReg)
  | k (r : KReg)
  deriving DecidableEq, Repr

/-- VSEL's lane width (11 R205). -/
inductive LaneW where
  | b8 | b16 | b32 | b64
  deriving DecidableEq, Repr

/-- VQBLK's kinds, codes 0-5 (11 R210). -/
inductive BlkKind where
  | qi | qf | qp | qh | e4m3 | e5m2
  deriving DecidableEq, Repr

/-- VDQBLK's kinds: 0 q4, 4 e4m3, 5 e5m2 (11 R210). -/
inductive DqKind where
  | q4 | e4m3 | e5m2
  deriving DecidableEq, Repr

/-- MMA's format pairs, in the order of their codes (04 R77). -/
inductive MmaPair where
  | f16 | bf16 | e4m3 | e5m2 | e4m3e5m2 | e5m2e4m3 | i8 | q4
  deriving DecidableEq, Repr

/-- ACCSTM's formats: codes 0, 1, 2 and 8 (12 R233). -/
inductive AccFmt where
  | f32 | f16 | bf16 | i32
  deriving DecidableEq, Repr

/-- Who reaches a memory at a BANK_ACCESS event (01 R20): a request in flight, a unit of a copy (10 R187), a D write
of a hire (12 R220), a near-bank read (10 R193), a block-scale element (11 R214), or a RANK or RVAL (13 R242, R246). -/
inductive Requester where
  | flight (f : Nat)
  | copyUnit (c : Nat) (i : Fin 8) (u : Nat)
  | hireWrite (t h k : Nat)
  | near (c : Nat) (k : Fin 5)
  | blockScale (c : Nat) (k : Fin 5)
  | ranking (c : Nat) (k : Fin 5)
  deriving DecidableEq, Repr

/-- One constructor per row of the opcode table: the instructions in the order of the table, then the events. -/
inductive Instr where
  /-- ADD (R169). Writes the sum of A and B (or a literal) to D, on 64 bits or, with .w, on 32 bits sign-extended. -/
  | add (w : Bool) (d a : SReg) (b : Src) (sw : Bool)
  /-- SUB (R169). Writes A minus B to D, with an optional 32-bit W form. -/
  | sub (w : Bool) (d a : SReg) (b : Src) (sw : Bool)
  /-- MUL (R169). Writes the low bits of A times B to D, with a 3-cycle latency. -/
  | mul (w : Bool) (d a : SReg) (b : Src) (sw : Bool)
  /-- MULH (R169). Writes the high 64 bits of the signed 128-bit product to D. -/
  | mulh (d a : SReg) (b : Src) (sw : Bool)
  /-- MULHN (R169). Writes the high 64 bits of the unsigned 128-bit product to D. -/
  | mulhn (d a : SReg) (b : Src) (sw : Bool)
  /-- DIV (R169). Writes the signed quotient, truncated, to D on the cell's shared divider; division by zero gives all ones. -/
  | div (w : Bool) (d a : SReg) (b : Src) (sw : Bool)
  /-- DIVU (R169). Writes the unsigned quotient to D on the shared divider. -/
  | divu (w : Bool) (d a : SReg) (b : Src) (sw : Bool)
  /-- REM (R169). Writes the signed remainder to D; a zero divisor returns the dividend. -/
  | rem (w : Bool) (d a : SReg) (b : Src) (sw : Bool)
  /-- REMU (R169). Writes the unsigned remainder to D. -/
  | remu (w : Bool) (d a : SReg) (b : Src) (sw : Bool)
  /-- AND (R169). Writes A and B to D. -/
  | and (d a : SReg) (b : Src) (sw : Bool)
  /-- OR (R169). Writes A or B to D. -/
  | or (d a : SReg) (b : Src) (sw : Bool)
  /-- XOR (R169). Writes A xor B to D. -/
  | xor (d a : SReg) (b : Src) (sw : Bool)
  /-- ANDN (R169). Writes A and not B to D. -/
  | andn (d a : SReg) (b : Src) (sw : Bool)
  /-- ORN (R169). Writes A or not B to D. -/
  | orn (d a : SReg) (b : Src) (sw : Bool)
  /-- SHL (R169). Shifts A left by the count in B and writes D. -/
  | shl (w : Bool) (d a : SReg) (b : Src) (sw : Bool)
  /-- SHR (R169). Shifts A right logically by the count in B and writes D. -/
  | shr (w : Bool) (d a : SReg) (b : Src) (sw : Bool)
  /-- SAR (R169). Shifts A right arithmetically by the count in B and writes D. -/
  | sar (w : Bool) (d a : SReg) (b : Src) (sw : Bool)
  /-- ROL (R169). Rotates A left by the count in B and writes D. -/
  | rol (w : Bool) (d a : SReg) (b : Src) (sw : Bool)
  /-- MIN (R169). Writes the signed minimum of A and B to D. -/
  | min (d a : SReg) (b : Src) (sw : Bool)
  /-- MAX (R169). Writes the signed maximum of A and B to D. -/
  | max (d a : SReg) (b : Src) (sw : Bool)
  /-- MINU (R169). Writes the unsigned minimum of A and B to D. -/
  | minu (d a : SReg) (b : Src) (sw : Bool)
  /-- MAXU (R169). Writes the unsigned maximum of A and B to D. -/
  | maxu (d a : SReg) (b : Src) (sw : Bool)
  /-- SEQ (R169). Writes 1 to D if A equals B, else 0. -/
  | seq (d a : SReg) (b : Src) (sw : Bool)
  /-- SNE (R169). Writes 1 to D if A differs from B, else 0. -/
  | sne (d a : SReg) (b : Src) (sw : Bool)
  /-- SLT (R169). Writes 1 to D if A is less than B as signed values. -/
  | slt (d a : SReg) (b : Src) (sw : Bool)
  /-- SLTU (R169). Writes 1 to D if A is less than B as unsigned values. -/
  | sltu (d a : SReg) (b : Src) (sw : Bool)
  /-- SLE (R169). Writes 1 to D if A is at most B as signed values. -/
  | sle (d a : SReg) (b : Src) (sw : Bool)
  /-- SLEU (R169). Writes 1 to D if A is at most B as unsigned values. -/
  | sleu (d a : SReg) (b : Src) (sw : Bool)
  /-- SEL (R169). Writes A to D if D is nonzero at issue, else B. -/
  | sel (d a : SReg) (b : Src) (sw : Bool)
  /-- CLZ (R169). Writes the count of leading zero bits of A to D. -/
  | clz (d a : SReg) (sw : Bool)
  /-- CTZ (R169). Writes the count of trailing zero bits of A to D. -/
  | ctz (d a : SReg) (sw : Bool)
  /-- POPC (R169). Writes the number of one bits of A to D. -/
  | popc (d a : SReg) (sw : Bool)
  /-- BREV (R169). Writes A with its bit order reversed to D. -/
  | brev (d a : SReg) (sw : Bool)
  /-- BSWAP (R169). Writes A with its byte order reversed to D. -/
  | bswap (d a : SReg) (sw : Bool)
  /-- SEXB (R169). Sign-extends the low byte of A into D. -/
  | sexb (d a : SReg) (sw : Bool)
  /-- SEXH (R169). Sign-extends the low halfword of A into D. -/
  | sexh (d a : SReg) (sw : Bool)
  /-- SEXW (R169). Sign-extends the low word of A into D. -/
  | sexw (d a : SReg) (sw : Bool)
  /-- ZEXB (R169). Zero-extends the low byte of A into D. -/
  | zexb (d a : SReg) (sw : Bool)
  /-- ZEXH (R169). Zero-extends the low halfword of A into D. -/
  | zexh (d a : SReg) (sw : Bool)
  /-- ZEXW (R169). Zero-extends the low word of A into D. -/
  | zexw (d a : SReg) (sw : Bool)
  /-- MOV (R169). Copies A into D. -/
  | mov (d a : SReg) (sw : Bool)
  /-- ADDI (R170). Writes A plus the sign-extended immediate to D. -/
  | addi (d a : SReg) (i : Imm) (sw : Bool)
  /-- ANDI (R170). Writes A and the sign-extended immediate to D. -/
  | andi (d a : SReg) (i : Imm) (sw : Bool)
  /-- ORI (R170). Writes A or the sign-extended immediate to D. -/
  | ori (d a : SReg) (i : Imm) (sw : Bool)
  /-- XORI (R170). Writes A xor the sign-extended immediate to D. -/
  | xori (d a : SReg) (i : Imm) (sw : Bool)
  /-- SHLI (R170). Shifts A left by an immediate count of 0 to 63. -/
  | shli (d a : SReg) (n : BitVec 6) (sw : Bool)
  /-- SHRI (R170). Shifts A right logically by an immediate count of 0 to 63. -/
  | shri (d a : SReg) (n : BitVec 6) (sw : Bool)
  /-- SARI (R170). Shifts A right arithmetically by an immediate count of 0 to 63. -/
  | sari (d a : SReg) (n : BitVec 6) (sw : Bool)
  /-- SLTI (R170). Writes 1 to D if A is below the sign-extended immediate as signed values. -/
  | slti (d a : SReg) (i : Imm) (sw : Bool)
  /-- SLTIU (R170). Writes 1 to D if A is below the sign-extended immediate as unsigned values. -/
  | sltiu (d a : SReg) (i : Imm) (sw : Bool)
  /-- MULI (R170). Writes the low 64 bits of A times the immediate to D. -/
  | muli (d a : SReg) (i : Imm) (sw : Bool)
  /-- LI (R170). Loads the sign-extended immediate, or a 64-bit literal, into D. -/
  | li (d : SReg) (i : Imm) (sw : Bool)
  /-- BFX (R171). Extracts a bit field of A into D, zero-extended. -/
  | bfx (d a : SReg) (p wm1 : BitVec 6) (sw : Bool)
  /-- BFI (R171). Inserts the low bits of A into a bit field of D. -/
  | bfi (d a : SReg) (p wm1 : BitVec 6) (sw : Bool)
  /-- LEA0 (R172). Writes A plus B to D without any address check. -/
  | lea0 (d a : SReg) (b : Src) (sw : Bool)
  /-- LEA1 (R172). Writes A plus B shifted left by 1 to D. -/
  | lea1 (d a : SReg) (b : Src) (sw : Bool)
  /-- LEA2 (R172). Writes A plus B shifted left by 2 to D. -/
  | lea2 (d a : SReg) (b : Src) (sw : Bool)
  /-- LEA3 (R172). Writes A plus B shifted left by 3 to D. -/
  | lea3 (d a : SReg) (b : Src) (sw : Bool)
  /-- MKCA (R172). Composes a class 1 address from a module cell id and an offset. -/
  | mkca (d a : SReg) (b : Src) (sw : Bool)
  /-- MKHA (R172). Composes a class 2 address from a handle and an offset. -/
  | mkha (d a : SReg) (b : Src) (sw : Bool)
  /-- ACLS (R172). Writes the class of address A to D. -/
  | acls (d a : SReg) (sw : Bool)
  /-- ACOL (R172). Writes the column owning address A, or all ones for classes 2 and 3. -/
  | acol (d a : SReg) (sw : Bool)
  /-- ACELL (R172). Writes the module cell id owning address A, or all ones for classes 2 and 3. -/
  | acell (d a : SReg) (sw : Bool)
  /-- TWINOF (R172). Inverts the die bit of a class 1 address or a cell number. -/
  | twinof (d a : SReg) (sw : Bool)
  /-- BZ (R174). Branches by the 17-bit displacement when A is zero. -/
  | bz (a : SReg) (disp : BitVec 17) (sw : Bool)
  /-- BNZ (R174). Branches when A is nonzero. -/
  | bnz (a : SReg) (disp : BitVec 17) (sw : Bool)
  /-- BLTZ (R174). Branches when A is negative. -/
  | bltz (a : SReg) (disp : BitVec 17) (sw : Bool)
  /-- BGEZ (R174). Branches when A is non-negative. -/
  | bgez (a : SReg) (disp : BitVec 17) (sw : Bool)
  /-- LOOP (R175). Decrements A and branches while the new value is nonzero. -/
  | loop (a : SReg) (disp : BitVec 17) (sw : Bool)
  /-- JMP (R176). Jumps by the 22-bit displacement. -/
  | jmp (disp : BitVec 22) (sw : Bool)
  /-- JMPR (R176). Jumps to the address in A, raising ALIGN if it is not a multiple of 4. -/
  | jmpr (a : SReg) (sw : Bool)
  /-- CALL (R178). Calls the displaced target, writing the return address to n7 and moving the window forward, or raising SPILL with four windows resident. -/
  | call (disp : BitVec 22) (sw : Bool)
  /-- CALLR (R178). Calls the address in A, with the window move of CALL. -/
  | callr (a : SReg) (sw : Bool)
  /-- RET (R179). Returns to a7 and moves the window back, raising FILL or ending the strand from the bottom window. -/
  | ret (sw : Bool)
  /-- LDB (R181). Loads a sign-extended byte into D as a variable-latency result. -/
  | ldb (d a : SReg) (off : Imm) (sw : Bool)
  /-- LDBN (R181). Loads a zero-extended byte into D. -/
  | ldbn (d a : SReg) (off : Imm) (sw : Bool)
  /-- LDH (R181). Loads a sign-extended halfword into D. -/
  | ldh (d a : SReg) (off : Imm) (sw : Bool)
  /-- LDHN (R181). Loads a zero-extended halfword into D. -/
  | ldhn (d a : SReg) (off : Imm) (sw : Bool)
  /-- LDW (R181). Loads a sign-extended word into D. -/
  | ldw (d a : SReg) (off : Imm) (sw : Bool)
  /-- LDWN (R181). Loads a zero-extended word into D. -/
  | ldwn (d a : SReg) (off : Imm) (sw : Bool)
  /-- LDD (R181). Loads a doubleword into D. -/
  | ldd (d a : SReg) (off : Imm) (sw : Bool)
  /-- STB (R181). Posts a store of the low byte of D. -/
  | stb (d a : SReg) (off : Imm) (sw : Bool)
  /-- STH (R181). Posts a store of the low halfword of D. -/
  | sth (d a : SReg) (off : Imm) (sw : Bool)
  /-- STW (R181). Posts a store of the low word of D. -/
  | stw (d a : SReg) (off : Imm) (sw : Bool)
  /-- STD (R181). Posts a store of the doubleword in D. -/
  | std (d a : SReg) (off : Imm) (sw : Bool)
  /-- LDV (R181). Loads 16 bytes into vector register D. -/
  | ldv (d : VReg) (a : SReg) (off : Imm) (sw : Bool)
  /-- STV (R181). Posts a 16-byte store of vector register D. -/
  | stv (d : VReg) (a : SReg) (off : Imm) (sw : Bool)
  /-- LDF (R183). Loads 16 elements decoded and block-scaled by the handle's format into two vector registers as f16. -/
  | ldf (d : VReg) (a : SReg) (off : Imm) (sw : Bool)
  /-- STF (R183). Encodes 16 f16 lanes into the handle's format against the scale bytes in place and stores them, resumable from PROG. -/
  | stf (d : VReg) (a : SReg) (off : Imm) (sw : Bool)
  /-- LDX (R184). Loads a doubleword from A plus B. -/
  | ldx (d a : SReg) (b : Src) (sw : Bool)
  /-- STX (R184). Stores D as a doubleword at A plus B. -/
  | stx (d a : SReg) (b : Src) (sw : Bool)
  /-- PREF (R184). Starts translation of A plus B and asks the pager to fill an absent page, without waiting or faulting. -/
  | pref (a : SReg) (b : Src) (sw : Bool)
  /-- HINT (R185). Asks the pager to make present in HBM every page of a handle byte range, raising no fault. -/
  | hint (a : SReg) (len : BitVec 36) (sw : Bool)
  /-- CPY (R187). Starts an asynchronous raw copy of n bytes on the cell's copy engine, setting the token pending. -/
  | cpy (d a : SReg) (b : Src) (n : BitVec 32) (sw : Bool)
  /-- CPYS (R187). Starts an asynchronous strided copy of rows. -/
  | cpys (d a : SReg) (b : Src) (len rows sstr dstr : BitVec 16) (sw : Bool)
  /-- GATH (R187). Starts an asynchronous gather from a list of source addresses. -/
  | gath (d a : SReg) (b : Src) (n : BitVec 16) (sz : Fin 6) (sw : Bool)
  /-- SCAT (R187). Starts an asynchronous scatter to a list of destination addresses. -/
  | scat (d a : SReg) (b : Src) (n : BitVec 16) (sz : Fin 6) (sw : Bool)
  /-- CPYC (R187). Starts an asynchronous converting copy that decodes and encodes elements by the handles' formats. -/
  | cpyc (d a : SReg) (b : Src) (n : BitVec 32) (sw : Bool)
  /-- AADD (R189). Atomically adds B to the word at A and returns the old value. -/
  | aadd (w : Bool) (d a : SReg) (b : Src) (sw : Bool)
  /-- AMIN (R189). Atomic signed minimum at A. -/
  | amin (w : Bool) (d a : SReg) (b : Src) (sw : Bool)
  /-- AMAX (R189). Atomic signed maximum at A. -/
  | amax (w : Bool) (d a : SReg) (b : Src) (sw : Bool)
  /-- AMINU (R189). Atomic unsigned minimum at A. -/
  | aminu (w : Bool) (d a : SReg) (b : Src) (sw : Bool)
  /-- AMAXU (R189). Atomic unsigned maximum at A. -/
  | amaxu (w : Bool) (d a : SReg) (b : Src) (sw : Bool)
  /-- AAND (R189). Atomic and at A. -/
  | aand (w : Bool) (d a : SReg) (b : Src) (sw : Bool)
  /-- AOR (R189). Atomic or at A. -/
  | aor (w : Bool) (d a : SReg) (b : Src) (sw : Bool)
  /-- AXOR (R189). Atomic xor at A. -/
  | axor (w : Bool) (d a : SReg) (b : Src) (sw : Bool)
  /-- AXCHG (R189). Atomic exchange at A. -/
  | axchg (w : Bool) (d a : SReg) (b : Src) (sw : Bool)
  /-- ACAS (R189). Atomic compare-and-swap at A with D as the expected value. -/
  | acas (w : Bool) (d a : SReg) (b : Src) (sw : Bool)
  /-- AFADD32 (R189). Atomic f32 add at A, rounded to nearest even. -/
  | afadd32 (d a : SReg) (b : Src) (sw : Bool)
  /-- AFADD16 (R189). Atomic f16 add on the halfword at A. -/
  | afadd16 (d a : SReg) (b : Src) (sw : Bool)
  /-- AFMAX32 (R189). Atomic f32 maximum at A. -/
  | afmax32 (d a : SReg) (b : Src) (sw : Bool)
  /-- FSHIP (R191). Ships a routine of the muslin table to the muslin core of the word's HBM stack. -/
  | fship (routine : BitVec 6) (nr : Bool) (d a : SReg) (b : Src) (sw : Bool)
  /-- NDOT (R193). Streams two vectors of one own bank through the near-bank unit and writes their f32 dot product. -/
  | ndot (t : FTy) (d a : SReg) (b : Src) (n : BitVec 32) (sw : Bool)
  /-- NSUM (R193). Streams one bank vector and writes its f32 sum. -/
  | nsum (t : FTy) (d a : SReg) (n : BitVec 32) (sw : Bool)
  /-- NMAX (R193). Streams one bank vector and writes its maximum. -/
  | nmax (t : FTy) (d a : SReg) (n : BitVec 32) (sw : Bool)
  /-- REL (R196). Release at a scope: parks until results, port writes and touched slices are acknowledged. -/
  | rel (sc : Scope) (sw : Bool)
  /-- ACQ (R196). Acquire at a scope: parks until every variable-latency result has returned. -/
  | acq (sc : Scope) (sw : Bool)
  /-- FENCE (R196). Release and then acquire at a scope. -/
  | fence (sc : Scope) (sw : Bool)
  /-- TSMR (R196). Releases only the TSM slices named in A and writes TSM after the clear to D. -/
  | tsmr (sc : Scope) (d a : SReg) (sw : Bool)
  /-- BARINIT (R198). Initialises a barrier word with a count and scope. -/
  | barinit (sc : Scope) (a : SReg) (b : Src) (sw : Bool)
  /-- BARARR (R198). Releases at the word's scope and sends an arrival, held while DEPART is nonzero. -/
  | bararr (a : SReg) (sw : Bool)
  /-- BARWAIT (R198). Parks until DEPART is nonzero, takes a departure and acquires. -/
  | barwait (a : SReg) (sw : Bool)
  /-- BARTEST (R198). Reads the barrier word into D without change. -/
  | bartest (d a : SReg) (sw : Bool)
  /-- WAITA (R199). Arms a monitor on a word with an expected value and parks unless it already differs. -/
  | waita (d a : SReg) (b : Src) (sw : Bool)
  /-- WAITT (R199). Parks until CYCLE reaches A. -/
  | waitt (d a : SReg) (sw : Bool)
  /-- YIELD (R199). Passes over the slot until each other Ready slot has issued once. -/
  | yield (sw : Bool)
  /-- SLEEP (R199). Parks until a cell event or a cycle limit. -/
  | sleep (a : SReg) (sw : Bool)
  /-- VFP_VADD (R202). Floating lane-wise add, rounded in RMODE. -/
  | vfpVadd (t : FTy) (d a b : VReg) (sw : Bool)
  /-- VFP_VSUB (R202). Floating lane-wise subtract. -/
  | vfpVsub (t : FTy) (d a b : VReg) (sw : Bool)
  /-- VFP_VMUL (R202). Floating lane-wise multiply. -/
  | vfpVmul (t : FTy) (d a b : VReg) (sw : Bool)
  /-- VFMA (R202). Floating fused multiply-add with D as addend and one rounding. -/
  | vfma (t : FTy) (d a b : VReg) (sw : Bool)
  /-- VFP_VMIN (R202). Floating lane-wise minimum. -/
  | vfpVmin (t : FTy) (d a b : VReg) (sw : Bool)
  /-- VFP_VMAX (R202). Floating lane-wise maximum. -/
  | vfpVmax (t : FTy) (d a b : VReg) (sw : Bool)
  /-- VABS (R202). Clears the sign of each floating lane. -/
  | vabs (t : FTy) (d a : VReg) (sw : Bool)
  /-- VNEG (R202). Inverts the sign of each floating lane. -/
  | vneg (t : FTy) (d a : VReg) (sw : Bool)
  /-- VDIV (R202). Floating lane-wise division on the cell's vector divider. -/
  | vdiv (t : FTy) (d a b : VReg) (sw : Bool)
  /-- VSQRT (R202). Floating lane-wise square root on the vector divider. -/
  | vsqrt (t : FTy) (d a : VReg) (sw : Bool)
  /-- VEXP2 (R202). Floating lane-wise power of two. -/
  | vexp2 (t : FTy) (d a : VReg) (sw : Bool)
  /-- VFP_VCMPEQ (R202). Writes a predicate of floating lane equality. -/
  | vfpVcmpeq (t : FTy) (d : KReg) (a b : VReg) (sw : Bool)
  /-- VFP_VCMPLT (R202). Writes a predicate of floating less-than. -/
  | vfpVcmplt (t : FTy) (d : KReg) (a b : VReg) (sw : Bool)
  /-- VCMPLE (R202). Writes a predicate of floating less-or-equal. -/
  | vcmple (t : FTy) (d : KReg) (a b : VReg) (sw : Bool)
  /-- VINT_VADD (R204). Integer lane-wise add modulo the lane width. -/
  | vintVadd (t : ITy) (d a b : VReg) (sw : Bool)
  /-- VINT_VSUB (R204). Integer lane-wise subtract. -/
  | vintVsub (t : ITy) (d a b : VReg) (sw : Bool)
  /-- VINT_VMUL (R204). Integer lane-wise multiply, low bits. -/
  | vintVmul (t : ITy) (d a b : VReg) (sw : Bool)
  /-- VINT_VMIN (R204). Integer lane-wise minimum in the type's signedness. -/
  | vintVmin (t : ITy) (d a b : VReg) (sw : Bool)
  /-- VINT_VMAX (R204). Integer lane-wise maximum in the type's signedness. -/
  | vintVmax (t : ITy) (d a b : VReg) (sw : Bool)
  /-- VMINN (R204). Unsigned lane-wise minimum. -/
  | vminn (t : ITy) (d a b : VReg) (sw : Bool)
  /-- VMAXN (R204). Unsigned lane-wise maximum. -/
  | vmaxn (t : ITy) (d a b : VReg) (sw : Bool)
  /-- VAND (R204). Lane-wise and. -/
  | vand (t : ITy) (d a b : VReg) (sw : Bool)
  /-- VOR (R204). Lane-wise or. -/
  | vor (t : ITy) (d a b : VReg) (sw : Bool)
  /-- VXOR (R204). Lane-wise xor. -/
  | vxor (t : ITy) (d a b : VReg) (sw : Bool)
  /-- VSHL (R204). Lane-wise shift left by per-lane counts. -/
  | vshl (t : ITy) (d a b : VReg) (sw : Bool)
  /-- VSHR (R204). Lane-wise logical shift right. -/
  | vshr (t : ITy) (d a b : VReg) (sw : Bool)
  /-- VSAR (R204). Lane-wise arithmetic shift right. -/
  | vsar (t : ITy) (d a b : VReg) (sw : Bool)
  /-- VINT_VCMPEQ (R204). Writes a predicate of integer lane equality. -/
  | vintVcmpeq (t : ITy) (d : KReg) (a b : VReg) (sw : Bool)
  /-- VINT_VCMPLT (R204). Writes a predicate of integer less-than in the type's signedness. -/
  | vintVcmplt (t : ITy) (d : KReg) (a b : VReg) (sw : Bool)
  /-- VCMPLTN (R204). Writes a predicate of unsigned less-than. -/
  | vcmpltn (t : ITy) (d : KReg) (a b : VReg) (sw : Bool)
  /-- VBCAST (R205). Broadcasts the low bits of a scalar into every lane. -/
  | vbcast (t : ElemTy) (d : VReg) (a : SReg) (sw : Bool)
  /-- VMOVS (R205). Moves a 64-bit lane of a vector into a scalar. -/
  | vmovs (d : SReg) (a : VReg) (lane : Fin 2) (sw : Bool)
  /-- VINS (R205). Inserts a scalar into a 64-bit lane of a vector. -/
  | vins (d : VReg) (a : SReg) (lane : Fin 2) (sw : Bool)
  /-- VSHUF (R205). Permutes the bytes of a vector by the nibbles of B. -/
  | vshuf (d a : VReg) (b : Src) (sw : Bool)
  /-- VSEL (R205). Merges lanes of A into D where the predicate bit is set. -/
  | vsel (d a : VReg) (k : KReg) (w : LaneW) (sw : Bool)
  /-- VREDADD (R206). Sums every lane into a scalar, with one rounding for floats. -/
  | vredadd (t : ElemTy) (d : SReg) (a : VReg) (sw : Bool)
  /-- VREDMAX (R206). Reduces the lanes to their maximum. -/
  | vredmax (t : ElemTy) (d : SReg) (a : VReg) (sw : Bool)
  /-- VREDMIN (R206). Reduces the lanes to their minimum. -/
  | vredmin (t : ElemTy) (d : SReg) (a : VReg) (sw : Bool)
  /-- KAND (R205). And of two predicates. -/
  | kand (d a b : KReg) (sw : Bool)
  /-- KOR (R205). Or of two predicates. -/
  | kor (d a b : KReg) (sw : Bool)
  /-- KXOR (R205). Xor of two predicates. -/
  | kxor (d a b : KReg) (sw : Bool)
  /-- KNOT (R205). Complement of a predicate. -/
  | knot (d a : KReg) (sw : Bool)
  /-- KMOV (R207). Moves a mask between predicates and scalars in one of three forms. -/
  | kmov (f : KmovForm) (sw : Bool)
  /-- VZERO (R205). Zeroes a vector or predicate register. -/
  | vzero (d : VorK) (sw : Bool)
  /-- VMOV (R205). Copies a vector register. -/
  | vmov (d a : VReg) (sw : Bool)
  /-- VCVT (R208). Converts lanes between element types, rounding and saturating by R209. -/
  | vcvt (dt st : ElemTy) (sat : Bool) (d a : VReg) (sw : Bool)
  /-- VQBLK (R211). Encodes n local elements into a block with a chosen scale and writes the scale byte to D. -/
  | vqblk (d a : SReg) (b : Src) (st : FTy) (kind : BlkKind) (n : BitVec 9) (sw : Bool)
  /-- VDQBLK (R212). Decodes n block codes under a scale byte into local memory. -/
  | vdqblk (d a : SReg) (b : Src) (dt : FTy) (kind : DqKind) (n : BitVec 9) (sw : Bool)
  /-- VSCL (R213). Multiplies each lane by the power of two of a scale byte. -/
  | vscl (d a : VReg) (b : Src) (t : FTy) (sw : Bool)
  /-- HIRE (R217). Reads and checks a hire block, takes a hire queue entry and returns a sequence number, queuing array work. -/
  | hire (batch : Fin 4) (z l o rk : Bool) (d a : SReg) (sw : Bool)
  /-- MMA (R221). Queues one masked array step on one slot. -/
  | mma (pair : MmaPair) (z : Bool) (batch : Fin 4) (d a : SReg) (b : Src) (rows cols depth : BitVec 16) (sw : Bool)
  /-- WAITB (R228). Parks until every earlier hire of a batch has completed or been cancelled, then writes the status word. -/
  | waitb (d : SReg) (n : Fin 4) (sw : Bool)
  /-- ACCGET (R229). Claims and zeroes the lowest run of n Free slots, or returns all ones. -/
  | accget (d : SReg) (n : BitVec 5) (sw : Bool)
  /-- ACCPUT (R229). Frees n owned, non-Busy slots. -/
  | accput (a : SReg) (n : BitVec 5) (sw : Bool)
  /-- ACCZ (R229). Zeroes n owned, non-Busy slots. -/
  | accz (a : SReg) (n : BitVec 5) (sw : Bool)
  /-- ACCLD (R230). Copies a 1 KiB image from memory into an owned slot. -/
  | accld (a : SReg) (b : Src) (sw : Bool)
  /-- ACCST (R230). Copies an owned slot to a 1 KiB image in memory. -/
  | accst (a : SReg) (b : Src) (sw : Bool)
  /-- HSTAT (R231). Reads a summary of the strand's hires or a hire record ring entry. -/
  | hstat (d a : SReg) (sw : Bool)
  /-- HCANCEL (R232). Cancels every uncompleted hire of the strand in a batch, without a trap. -/
  | hcancel (n : Fin 4) (sw : Bool)
  /-- ACCSTM (R233). Stores masked elements of a slot, converted, at a strided address. -/
  | accstm (a : SReg) (b : Src) (rows cols : BitVec 16) (fmt : AccFmt) (stride : BitVec 24) (sw : Bool)
  /-- LICREQ (R237). Sets the supervisor pin of the tile hub's licence request. -/
  | licreq (sw : Bool)
  /-- LICREL (R237). Clears the supervisor pin. -/
  | licrel (sw : Bool)
  /-- LICST (R237). Reads the LICST register into D. -/
  | licst (d : SReg) (sw : Bool)
  /-- TWSIG (R238). Releases at twin scope and adds 1 to a signal counter of the twin cell. -/
  | twsig (n : Fin 4) (sw : Bool)
  /-- TWWAIT (R238). Parks until an own signal counter is nonzero, decrements it and acquires at twin scope. -/
  | twwait (d : SReg) (n : Fin 4) (sw : Bool)
  /-- RANK (R242). Ranks n local values in the tile's ranking network and writes up to k indices, largest first. -/
  | rank (d a : SReg) (b : Src) (sw : Bool)
  /-- RSEND (R243). Sends a rank stream to a cell of the team, one packet per entry, after a release. -/
  | rsend (c : Cls) (a : SReg) (b : Src) (sw : Bool)
  /-- RWACC (R245). Pops p arrivals of a stream and adds table-weighted weight rows into an f32 accumulator. -/
  | rwacc (d a : SReg) (b : Src) (sw : Bool)
  /-- RVAL (R246). Rebuilds a dense vector from a rank stream through a rank table. -/
  | rval (d a : SReg) (b : Src) (sw : Bool)
  /-- RTLD (R247). Copies 256 f16 entries into a rank table. -/
  | rtld (a : SReg) (n : Fin 4) (sw : Bool)
  /-- RCNT (R247). Reads a stream's COUNT and unpopped entries. -/
  | rcnt (d : SReg) (n : Fin 4) (sw : Bool)
  /-- RCLR (R247). Resets a rank stream's count and discards its unpopped entries. -/
  | rclr (n : Fin 4) (sw : Bool)
  /-- TNEW (R253). Creates a tree descriptor and an empty root leaf through the group walker. -/
  | tnew (d a : SReg) (b : Src) (sw : Bool)
  /-- TAPP (R255). Appends a key to a tree under the write lock, splitting nodes as needed. -/
  | tapp (d a : SReg) (b : Src) (sw : Bool)
  /-- TWALK (R257). Walks a tree with the opening test and emits summaries and keys into a local buffer. -/
  | twalk (d a : SReg) (b : Src) (sw : Bool)
  /-- TOPEN (R253). Writes TAU, THETA, CMIN and TMODE. -/
  | topen (a : SReg) (b : Src) (sw : Bool)
  /-- TSUM (R254). Writes a node's summary to local memory. -/
  | tsum (d a : SReg) (b : Src) (sw : Bool)
  /-- TSTAT (R253). Reads a selected descriptor field into D. -/
  | tstat (d a : SReg) (sel : Fin 4) (sw : Bool)
  /-- TDROP (R253). Invalidates a tree. -/
  | tdrop (d a : SReg) (sw : Bool)
  /-- PUT (R262). Releases and sends a value to a post register of a team cell. -/
  | put (m : PostIx) (a : SReg) (b : Src) (sw : Bool)
  /-- TAKE (R263). Parks until a post register is present, takes it, clears presence and acquires. -/
  | take (d : SReg) (m : PostIx) (sw : Bool)
  /-- PEEK (R263). Parks until a post register is present and reads it without clearing. -/
  | peek (d : SReg) (m : PostIx) (sw : Bool)
  /-- TAKEF (R264). Takes a post value and forwards it to the cell named by CHAIN. -/
  | takef (d : SReg) (m : PostIx) (sw : Bool)
  /-- PRES (R265). Reads the cell's presence mask into D. -/
  | pres (d : SReg) (m : PostIx) (sw : Bool)
  /-- SEND (R267). Releases and sends a message of a route class with up to seven payload registers to a team cell. -/
  | send (c : Cls) (a : SReg) (n : Fin 8) (sw : Bool)
  /-- MASKC (R268). Holds a route class for the strand. -/
  | maskc (c : Cls) (sw : Bool)
  /-- UNMASKC (R268). Stops holding a route class. -/
  | unmaskc (c : Cls) (sw : Bool)
  /-- DONE (R269). Ends the handler once its results have returned. -/
  | done (sw : Bool)
  /-- CLSR (R268). Reads an entry of the cell's class table. -/
  | clsr (d : SReg) (c : Cls) (sw : Bool)
  /-- SPAWN (R271). Releases at the stealing domain and pushes a child record onto the cell's deque. -/
  | spawn (d a : SReg) (sw : Bool)
  /-- JOIN (R272). Parks until the join word reads zero, then acquires at sgrp. -/
  | join (a : SReg) (sw : Bool)
  /-- EXIT (R273). Ends the strand after its results, tokens and hires finish. -/
  | exit (sw : Bool)
  /-- GO (R41). Migrates the strand to the cell owning a class 0 or 1 address. -/
  | go (a : SReg) (sw : Bool)
  /-- STEALD (R275). Sets the stealing domain for records pushed later. -/
  | steald (sc : Scope) (sw : Bool)
  /-- LAUNCH (R278). Checks a launch descriptor, releases at mod, sets a token pending and passes a child grid to the management core. -/
  | launch (d a : SReg) (b : Src) (t : BitVec 32) (sw : Bool)
  /-- TRAP (R280). Raises TRAPI with the operand in EVAL. -/
  | trap (b : Src) (sw : Bool)
  /-- ERET (R280). Returns from the supervisor to EPC, restoring SUP and SSTEP. -/
  | eret (sw : Bool)
  /-- CSRR (R281). Reads a control register into D. -/
  | csrr (d : SReg) (n : Fin 30) (sw : Bool)
  /-- CSRW (R281). Writes a control register, subject to access and field rules. -/
  | csrw (n : Fin 30) (b : Src) (sw : Bool)
  /-- CSRS (R281). Sets bits of a control register. -/
  | csrs (n : Fin 30) (b : Src) (sw : Bool)
  /-- CSRC (R281). Clears bits of a control register. -/
  | csrc (n : Fin 30) (b : Src) (sw : Bool)
  /-- BKPT (R282). Raises the BKPT trap. -/
  | bkpt (sw : Bool)
  /-- CHKPT (R282). Takes a lockstep checkpoint, or does nothing outside a lockstep team. -/
  | chkpt (sw : Bool)
  /-- SPILL (R283). Writes the oldest resident window to the spill image. -/
  | spill (sw : Bool)
  /-- FILL (R283). Reads the newest spilled window back from the spill image. -/
  | fill (sw : Bool)
  /-- HTCINV (R284). Removes the partition's translation entries for a handle from the tile and group caches. -/
  | htcinv (a : SReg) (sw : Bool)
  /-- RDCYC (R281). Reads CYCLE into D. -/
  | rdcyc (d : SReg) (sw : Bool)
  /-- CTXSV (R285). Saves or loads the strand's user context to or from a 512-byte image. -/
  | ctxsv (a : SReg) (dir sw : Bool)
  /-- WINDOW_MOVE (R108). Once a call, return, SPILL, FILL or GO has waited out every outstanding result and pending bit, the window moves in that cycle. -/
  | windowMove (c : Nat) (k : Fin 5)
  /-- COPY_COMPLETION (R187). When every write of a copy has been performed, the engine writes the status word into the token and clears its pending bit. -/
  | copyCompletion (c : Nat) (i : Fin 8)
  /-- COPY_FAULT (R188). A copy that meets a fault stops, writes status 0x0D and leaves a late COPYF trap pending for its strand. -/
  | copyFault (c : Nat) (i : Fin 8)
  /-- ATOMIC_EXECUTE (R190). An atomic request reaches the bank unit, cap slice controller or muslin core of its location and is performed indivisibly. -/
  | atomicExecute (f : Nat)
  /-- FSHIP_EXECUTE (R192). A muslin core runs a shipped routine as one indivisible read-modify-write and replies. -/
  | fshipExecute (f : Nat)
  /-- NEAR_BANK_COMPLETION (R193). Four cycles after its last column read, a near-bank operation writes D and completes, with any late POISON then pending. -/
  | nearBankCompletion (c : Nat) (k : Fin 5)
  /-- RELEASE_COMPLETE (R196). A parked release, fence, PUT, SEND or other releasing instruction completes once its last awaited acknowledgement arrives. -/
  | releaseComplete (c : Nat) (k : Fin 5)
  /-- SLICE_ACK (R196). An acknowledgement of a performed write reaches the issuing cell and clears its port count or TSM bit. -/
  | sliceAck (f : Nat)
  /-- BARRIER_ARRIVAL_PERFORMED (R198). A held arrival is performed on its barrier word once DEPART reaches zero, possibly completing a generation. -/
  | barrierArrivalPerformed (f : Nat)
  /-- BARWAIT_POLL (R198). Every 512 cycles a BARWAIT on a word outside its banks rereads the word. -/
  | barwaitPoll (c : Nat) (k : Fin 5)
  /-- WAITT_EXPIRY (R199). CYCLE reaches the WAITT limit, and the strand wakes with CYCLE in D. -/
  | waittExpiry (c : Nat) (k : Fin 5)
  /-- SLEEP_EXPIRY (R199). The SLEEP cycle limit passes and the strand wakes. -/
  | sleepExpiry (c : Nat) (k : Fin 5)
  /-- MONITOR_POLL (R153). Every 512 cycles an armed monitor on a word outside the cell's banks reloads it and fires if it differs from EXP. -/
  | monitorPoll (c : Nat) (i : Fin 8)
  /-- JOIN_POLL (R272). Every 512 cycles a JOIN on a word outside the cell's banks rereads the word. -/
  | joinPoll (c : Nat) (k : Fin 5)
  /-- BLOCK_SCALE_COMPLETION (R214). A VQBLK or VDQBLK finishes its reads and writes and completes four cycles after its last write. -/
  | blockScaleCompletion (c : Nat) (k : Fin 5)
  /-- OPERAND_READ_RETURN (R218). A load pipe's 32-byte operand read returns to the hub, readying a step's operands. -/
  | operandReadReturn (t h col : Nat)
  /-- STEP_BOUNDARY (R223). At a step boundary the hub chooses the next runnable master's step, spends its heat tokens and starts it, or stops. -/
  | stepBoundary (t : Nat)
  /-- HIRE_COMPLETION (R220). After its last step and its D writes are performed, a hire completes, freeing its entry and lowering slot BUSY counts. -/
  | hireCompletion (t h : Nat)
  /-- WAITB_RETURN (R228). The last awaited hire of the batch finishes, and WAITB writes its status and clears the failed mark. -/
  | waitbReturn (c : Nat) (k : Fin 5)
  /-- HEAT_REFILL (R163). At every multiple of 4,096 cycles each heat-token bucket is refilled by RATE up to CEIL and DRY clears. -/
  | heatRefill
  /-- CAP_HOT (R234). The cap temperature monitor sets CAPHOT and stops both arrays under it at their next step boundary. -/
  | capHot (b : Nat)
  /-- CAPHOT_CLEAR (R357). After the cap has been 10 degrees below critical for 65,536 cycles, the module manager clears CAPHOT and reports it. -/
  | caphotClear (b : Nat)
  /-- LICENCE_HOLD_EXPIRY (R235). HOLD reaches 16,384 cycles, obliging a holder whose twin requests to yield at its next boundary. -/
  | licenceHoldExpiry (b : Nat)
  /-- LICENCE_GRANT (R235). The arbiter grants the licence to a requester, 64 cycles after a yield where one occurred. -/
  | licenceGrant (b : Nat)
  /-- RANK_NETWORK_GRANT (R242). The ranking network takes the next waiting RANK in round-robin order and runs its reads, network cycles and writes. -/
  | rankNetworkGrant (t : Nat)
  /-- RANK_ARRIVAL (R151). An RSEND packet enters the receiver's rank inbox, ranked by its stream's COUNT. -/
  | rankArrival (f : Nat)
  /-- RWACC_POP (R245). An RWACC parked for an arrival pops it, acquires and applies its w updates. -/
  | rwaccPop (c : Nat) (k : Fin 5)
  /-- WALKER_START (R250). The group's damask walker takes the next request in arrival order and runs it. -/
  | walkerStart (g : Nat)
  /-- WALKER_COMPLETION (R251). A walker operation takes effect, writes D and releases its parked strand. -/
  | walkerCompletion (g : Nat)
  /-- PUT_ARRIVAL (R111). A PUT or TAKEF forward arrives, setting an absent post register or waiting in the hold queue, and wakes waiters. -/
  | putArrival (f : Nat)
  /-- MESSAGE_ARRIVAL (R44). A message packet reaches a cell and is discarded, held by a mask or queued for the handler slot. -/
  | messageArrival (f : Nat)
  /-- HANDLER_ENTRY (R44). When the handler slot is Free, the lowest ready unmasked class's oldest message enters the handler with fresh registers and acquires. -/
  | handlerEntry (c : Nat)
  /-- HANDLONG (R45). A handler reaching its 2,049th instruction without DONE is ended and counted in HLONG. -/
  | handlong (c : Nat)
  /-- HANDLER_END (R269). After DONE's waits, the handler slot becomes Free for the next message. -/
  | handlerEnd (c : Nat)
  /-- STRAND_END (R273). After EXIT's waits, slots and monitors are freed, a child decrements its join word, and the slot becomes Free. -/
  | strandEnd (c : Nat) (k : Fin 5)
  /-- GO_DEPART (R41). Once GO's waits clear, lower windows are spilled and the strand's packet leaves with a release. -/
  | goDepart (c : Nat) (k : Fin 5)
  /-- GO_ARRIVAL (R42). A GO packet reaches its target, taking a Free slot, entering the arrival queue, or bouncing. -/
  | goArrival (f : Nat)
  /-- GO_ACCEPT_NOTICE (R41). The target's acceptance reaches the source, freeing the strand's old slot. -/
  | goAcceptNotice (f : Nat)
  /-- GO_BOUNCE_RETURN (R42). A bounced GO packet returns to its source, leaving the strand Parked in its old slot. -/
  | goBounceReturn (f : Nat)
  /-- GO_RESEND_TIMEOUT (R42). A bounced source that was not recorded resends after 256 cycles. -/
  | goResendTimeout (c : Nat) (k : Fin 5)
  /-- ARRIVAL_TAKES_SLOT (R42). When a slot becomes Free, the oldest queued GO arrival takes it and the oldest recorded bounced source is told to resend. -/
  | arrivalTakesSlot (c : Nat) (k : Fin 5)
  /-- DEQUE_POP (R43). A Free slot with no queued arrival pops the newest record of its own deque and creates the child. -/
  | dequePop (c : Nat) (k : Fin 5) (stk spl : Nat)
  /-- STEAL_REQUEST (R43). A Free slot asks other cells of the team, nearest first, for the oldest record whose domain holds it. -/
  | stealRequest (c : Nat) (k : Fin 5)
  /-- STEAL_RECORD_ARRIVAL (R43). A stolen record arrives and the child strand is created in the next cycle. -/
  | stealRecordArrival (f stk spl : Nat)
  /-- DEVICE_GRID_ENTRY (R304). The module manager gives a device-launched grid a free GRID and enters it in the pending list. -/
  | deviceGridEntry (n : Nat) (grid : BitVec 16)
  /-- LATE_TRAP_ENTRY (R315). A pending late trap is entered in place of the next issue while SUP is 0. -/
  | lateTrapEntry (c : Nat) (k : Fin 5)
  /-- LOAD_DATA_RETURN (R34). A variable-latency result returns to its register, unparking a strand waiting on its switch marker. -/
  | loadDataReturn (f : Nat)
  /-- BANK_ACCESS (R20). A request reaches a bank and is served in round-robin order, ECC-checked and performed. -/
  | bankAccess (r : Requester)
  /-- CORRECTED_REWRITE (R129). A corrected column is rewritten in the bank's next idle cycle. -/
  | correctedRewrite (n : Nat)
  /-- PACKET_HOP (R29). A router moves a packet one hop by its class's rule, holding closed classes and dropping packets of a partition under reset. -/
  | packetHop (f : Nat)
  /-- TRANSLATION_WALK_COMPLETE (R135). The handle walker finishes a miss walk and fills the caches, releasing the stalled accesses. -/
  | translationWalkComplete (n : Nat)
  /-- CODE_CACHE_FILL (R372). A missing code line is read into the tile hub's code cache, unstalling its fetchers. -/
  | codeCacheFill (n : Nat)
  /-- PAGER_RESOLUTION (R136). The firmware pager makes an absent page present in HBM, or fails, releasing every waiter with the access or a PAGE fault. -/
  | pagerResolution (n : Nat) (ok : Bool) (unit : BitVec 4) (frame : BitVec 36)
  /-- PAGE_MOVE (R137). The firmware sets TRANSIT, shoots down translations and copies a page to a new frame, holding writes. -/
  | pageMove (h p : Nat)
  /-- PAGE_MOVE_COMMIT (R137). After the copy, the new location is written, TRANSIT clears, held writes proceed and the old frame is cleared. -/
  | pageMoveCommit (h p : Nat) (layer : BitVec 2) (unit : BitVec 4) (frame : BitVec 36)
  /-- PAGE_EVICT (R137). The firmware shoots down a page's translations and clears P once issued accesses are performed. -/
  | pageEvict (h p fill : Nat)
  /-- PAGE_CLEAR_COMPLETE (R134). Clearing of a reassigned page ends, clearing CLEAR and releasing the new owner's waiting writes. -/
  | pageClearComplete (h p : Nat)
  /-- HANDLE_ENTRY_COMMIT (R132). A management core commits a handle table entry, which the walker checks and accepts or refuses. -/
  | handleEntryCommit (h : Nat) (d0 d1 d2 d3 : Word)
  /-- REPLICA_FORWARD (R138). A home copy forwards a write to a replica, which applies it and acknowledges. -/
  | replicaForward (n : Nat)
  /-- CLROUTE_WRITE (R30). Module manager firmware writes CLROUTE in every router to close, reconfigure or reopen a route class. -/
  | clrouteWrite (adapt closed : BitVec 8)
  /-- SLOT_BIND (R156). The column core sets V in a slot entry, and dispatch creates or restores the strand from the bind record next cycle. -/
  | slotBind (g i : Nat) (rec : BitVec 8)
  /-- BIND_TEAM (R306). The binder places the first eligible pending entry in the first free rectangle of its shape. -/
  | bindTeam (pt g : Nat) (die : Bool) (x0 y0 : BitVec 4) (rec : BitVec 8) (hbase : BitVec 24)
  /-- QUANTUM_BOUNDARY (R309). At a quantum boundary the binder saves the longest-resident qualifying victim for a head it cannot bind. -/
  | quantumBoundary (pt g : Nat) (rec : BitVec 8)
  /-- IDLE_TEAM_SWAP (R310). A team idle for more than a quantum is saved whenever an entry waits. -/
  | idleTeamSwap (g : Nat) (rec : BitVec 8)
  /-- BINDING_STALL_REPORT (R311). After 64 quanta with the head unbindable because of NOSWAP, a binding stall is reported to the host. -/
  | bindingStallReport (pt : Nat)
  /-- TEAM_SAVE_REQUEST (R320). The save engine stops a team's slots at instruction boundaries and waits for its traffic to drain. -/
  | teamSaveRequest (g : Nat) (rec : BitVec 8)
  /-- SAVE_DRAINED (R320). With the team drained, copies are recorded, hires stopped, records counted and the image written. -/
  | saveDrained (g : Nat) (rec : BitVec 8)
  /-- SAVE_COMMIT (R320). After the image is written, VALID is set and the team's slots, entries, licence and cells are freed. -/
  | saveCommit (g : Nat) (rec : BitVec 8)
  /-- TEAM_RESTORE (R330). A bind record with RST set restores a team from its image and resumes its strands. -/
  | teamRestore (g : Nat) (rec : BitVec 8)
  /-- TAIL_POLL (R300). Every 1,024 cycles a core reads TAIL of an idle command stream. -/
  | tailPoll (n : Nat)
  /-- NOP_COMMAND (R301). Stream command 0: does nothing. -/
  | nopCommand (n : Nat)
  /-- LAUNCH_COMMAND (R302). Stream command 1: launches a host grid into the pending list with its dependences. -/
  | launchCommand (n : Nat) (grid : BitVec 16)
  /-- COPY_COMMAND (R301). Stream command 2: copies bytes between class 2 and class 3 memory. -/
  | copyCommand (n : Nat)
  /-- HINT_COMMAND (R301). Stream command 3: asks the pager to make a range present. -/
  | hintCommand (n : Nat)
  /-- FENCE_COMMAND (R301). Stream command 4: completes when every earlier command of the stream has completed. -/
  | fenceCommand (n : Nat)
  /-- JUMP_COMMAND (R301). Stream command 5: continues the stream at TARGET. -/
  | jumpCommand (n : Nat)
  /-- COMMAND_COMPLETION (R301). A stream command completes and, with SIG set, releases at sys and writes its signal word. -/
  | commandCompletion (n i : Nat)
  /-- REGISTER_STREAM (R299). Request 1: registers a command stream with a column core. -/
  | registerStream (fn : Fin 17) (core : Fin 16)
  /-- UNREGISTER_STREAM (R335). Request 2: unregisters a command stream. -/
  | unregisterStream (fn : Fin 17)
  /-- SET_WINDOW (R341). Request 3: writes a class 3 window entry. -/
  | setWindow (fn : Fin 17)
  /-- SET_QUANTUM (R308). Request 4: sets the partition's QSHIFT. -/
  | setQuantum (fn : Fin 17)
  /-- ATTEST (R338). Request 5: writes a signed attestation response to a host buffer. -/
  | attest (fn : Fin 17)
  /-- LOAD_MUSLIN_ROUTINE (R162). Request 6: replaces a muslin routine in every HBM base die. -/
  | loadMuslinRoutine (fn : Fin 17)
  /-- END_GRID (R335). Request 7: ends a grid, giving its token or signal 0x16 or 0x14. -/
  | endGrid (fn : Fin 17)
  /-- RESET_PARTITION (R348). Request 8: resets a partition as a function-level reset does. -/
  | resetPartition (fn : Fin 17)
  /-- CREATE_HANDLE (R337). Request 9: commits a new handle entry with zero-filled pages. -/
  | createHandle (fn : Fin 17) (h : BitVec 24) (pmap : Word)
  /-- FREE_HANDLE (R337). Request 10: invalidates a handle, shoots down its translations and clears its frames. -/
  | freeHandle (fn : Fin 17)
  /-- SET_FILL_LIST (R337). Request 11: copies a fill list to firmware memory and points a page at it. -/
  | setFillList (fn : Fin 17) (dst : Nat)
  /-- REGISTER_GRID_IMAGE (R340). Request 12: checks and registers a grid image, clearing PW on it and its code. -/
  | registerGridImage (fn : Fin 17)
  /-- RETIRE_GRID_IMAGE (R340). Request 13: retires a grid image whose grids have ended. -/
  | retireGridImage (fn : Fin 17)
  /-- READ_COUNTER (R337). Request 14: reads, and optionally clears, an event or error counter. -/
  | readCounter (fn : Fin 17)
  /-- POWER_STATE (R355). Request 16: commands a power state from the physical function. -/
  | powerState (fn : Fin 17)
  /-- POWER_STATE_EFFECT (R356). At the next multiple of 65,536 cycles a commanded power state sets RATE, CEIL and VSP everywhere. -/
  | powerStateEffect
  /-- SET_PARTITION (R347). Request 17: creates a partition from free twin pairs and shares. -/
  | setPartition (fn : Fin 17)
  /-- RESTART (R354). Request 18: leaves minimal mode by a full start. -/
  | restart (fn : Fin 17)
  /-- FUNCTION_LEVEL_RESET (R348). A function-level reset ends a partition's teams, drops its packets and invalidates its handles, windows and keys. -/
  | functionLevelReset (fn : Fin 17)
  /-- PART_RESET (R144). A reset of the part zeroes every memory and empties the heat buckets. -/
  | partReset
  /-- START (R353). The part verifies firmware, trains HBM, zeroes memory, starts cores and trains PCIe, recording a reason, with its unit in a second byte, on failure. -/
  | start (ok : Bool) (reason : BitVec 16)
  /-- LINK_TRAINING (R343). A Jorlink port trains, agreeing a session key and authenticating the peer. -/
  | linkTraining (port : Fin 16) (ok : Bool)
  /-- JORLINK_FLIT (R343). A flit arrives on a Jorlink port, retried on CRC failure and delivered in order. -/
  | jorlinkFlit (port : Fin 16)
  /-- PEER_VERSION_REFUSAL (R346). A peer refuses a packet of an old map version and returns its version, and the sender retranslates and resends. -/
  | peerVersionRefusal (f : Nat)
  /-- PORT_RETIRE (R346). The module manager closes a Jorlink port, raises VER in its windows and reroutes them. -/
  | portRetire (port : Fin 16)
  /-- REDUCTION_COMPLETE (R344). The switch has combined all contributions, and every contributor's token completes with status 0. -/
  | reductionComplete (n : Nat)
  /-- REDUCTION_FAIL (R345). A reduction fails on fault, length mismatch or timeout, giving every token 0x15 and a late REDFAIL. -/
  | reductionFail (n : Nat)
  /-- GO_RESEND_REQUEST_ARRIVAL (R42). The target's telling to resend reaches a recorded bounced source, which sends the parked strand's GO packet again. -/
  | goResendRequestArrival (f : Nat)
  /-- UNKNOWN_REQUEST_CODE (R334). A BAR0 request with a code the module manager does not know is answered with result 2. -/
  | unknownRequestCode (fn : Fin 17)
  /-- UNKNOWN_COMMAND_OP (R303). A stream command with OP 6 to 255 stops its stream with ERR 1, leaving HEAD at it. -/
  | unknownCommandOp (n : Nat)
  deriving DecidableEq, Repr

end Sys2Proof
end

