-- ==== Sys2Proof/Machine/State.lean ====
section
/-! DEFINITION. The state of the module: every register, memory, queue, table and counter that spec/ gives it, as plain
data, and the state after a part reset. Structures of which the module has many (cells, hubs, records) stand in tables
whose unlisted entries are at their reset values. -/

namespace Sys2Proof.Machine

open Sys2Proof

/-! ## Why a step could stop -/

/-- No instruction and no event of the Penjor stops the model: every fault of the spec is a trap, which is a next
state. -/
inductive Fault where
  /-- Raised by nobody; an access to an address that the spec says does not exist takes ADDR or PROT. Safe. -/
  | none
  deriving DecidableEq, Repr

inductive Refusal where
  /-- Raised by the arm of an instruction that has no meaning yet. Safe. -/
  | notModelled (mnemonic : String)
  deriving DecidableEq, Repr

/-! ## Names of places -/

/-- A slot of the module: a module cell id (00 R7) and slot 0-3, or 4 for the handler slot H (02 R32). -/
structure SlotId where
  cell : Nat
  slot : Fin 5
  deriving DecidableEq, Repr

/-- The memories of the module and outside it (07 R144, 18 R334). -/
inductive Space where
  | local | cap | hbm | lpddr | host | peer | bar0
  deriving DecidableEq, Repr

/-- A byte's place: the memory, the unit of it (cell, column, function or port) and the byte address within the unit. -/
structure Loc where
  space : Space
  unit : Nat
  addr : Nat
  deriving DecidableEq, Repr

/-- A stop of the mesh and fabric: a column and one of its eight stops, x + 4y (01 R23). -/
structure Stop where
  col : Nat
  stop : Nat
  deriving DecidableEq, Repr

/-- The cause codes of 17 R314. -/
inductive Cause where
  | ill | priv | addr | prot | privmem | align | page | poison | spill | fill | accbusy | hiref | copyf | order | trapi
  | bkpt | sstep | lockstep | handlong | saveovf | redfail | ended
  deriving DecidableEq, Repr

/-- A late trap on its way to a slot: what its entry writes (17 R313, R316). -/
structure LateTrap where
  cause : Cause
  eval : Word
  ehseq : BitVec 18
  deriving DecidableEq, Repr

/-! ## Grids -/

/-- How a grid's end is told (14 R278, 16 R301). -/
inductive Notify where
  | none
  | token (i : SlotId) (uid : Nat) (d : SReg)
  | command (stream : Nat) (cmd : Nat)
  deriving DecidableEq, Repr

/-- A grid under way (16 R302, R304). -/
structure Grid where
  part : Nat
  image : Nat
  entry : Word
  wm1 : BitVec 4
  hm1 : BitVec 4
  sm1 : BitVec 2
  lock : Bool
  prio : Bool
  move : Bool
  dcls : BitVec 3
  teams : Nat
  args : Word
  deps : List Nat
  bound : Nat
  ended : Nat
  finished : Bool
  status : BitVec 8
  saveovf : Bool
  notify : Notify
  column : Nat
  deriving DecidableEq, Repr

/-! ## Strands -/

/-- A register as its storage names it, for the interlock on a fixed-latency result (02 R34): a scalar register of the
supervisor bank or of the window at a depth, whose n registers are the a registers of the window above (06 R106), a register
outside the windows, a vector register or a predicate. -/
inductive RegName where
  | a (sup : Bool) (depth : Nat) (i : Fin 8)
  | l (sup : Bool) (depth : Nat) (i : Fin 8)
  | s (r : SReg)
  | v (r : VReg)
  | k (r : KReg)
  deriving DecidableEq, Repr

/-- A window below the current one: its a and l registers (06 R106). -/
structure Window where
  a : Vector Word 8
  l : Vector Word 8
  deriving DecidableEq, Repr

/-- An operation that waits for outstanding results and pending bits before it moves the window (06 R108). -/
inductive WinOp where
  | call (target : Word)
  | ret
  | spill
  /-- SPILL, whose stores have left. -/
  | spilled
  | fill
  /-- GO: its address, and word 0 for ILL. -/
  | go (ea word0 : Word)
  deriving DecidableEq, Repr

/-- What a release does once its waits are over (10 R196, 14 R262-R278). -/
inductive RelOp where
  | rel
  | fence
  | tsmr (d : SReg) (mask : BitVec 51)
  | put (m : PostIx) (target : Nat) (v : Word)
  | takefPut (m : PostIx) (target : Nat) (v : Word)
  | send (c : Cls) (target : Nat) (payload : List Word)
  /-- The next stream byte, the address of it and the entries left to send (13 R243). -/
  | rsend (c : Cls) (target : Nat) (loc : Loc) (ea : Word) (left : Nat) (stream : Fin 4)
  | bararr (ea : Word) (loc : Loc)
  | twsig (n : Fin 4)
  | spawn (entry : BitVec 32) (join : Word)
  | launch (d : SReg) (g : Grid)
  | goLocal
  | goAway (target : Nat)
  | childEnd
  | teamEnd
  deriving DecidableEq, Repr

/-- The three takes of a post register (14 R263, R264). -/
inductive TakeKind where
  | take | peek | takef
  deriving DecidableEq, Repr

/-- What a parked strand waits for (02 R32). -/
inductive Wait where
  /-- Every outstanding variable-latency result, after a switch marker (02 R34). -/
  | results
  | window (op : WinOp)
  /-- The scope of the release and what it does at its end. -/
  | release (sc : Scope) (op : RelOp)
  | waitb (b : Fin 4) (d : SReg)
  /-- The count of steps when it parked: the oldest waiter takes first (06 R111). -/
  | take (kind : TakeKind) (m : PostIx) (d : SReg) (since : Nat)
  | join (ea : Word) (loc : Loc)
  | waita (ea : Word) (d : SReg)
  | waitt (limit : Word) (d : SReg)
  /-- The cycle of the limit, none for no limit. -/
  | sleep (limit : Option Nat)
  | barwait (ea : Word) (loc : Loc)
  | twwait (n : Fin 4) (d : SReg)
  /-- A page that the pager fetches (07 R136). -/
  | page (handle page : Nat)
  | near
  | blockScale
  | rank
  /-- RWACC: its control word, the addresses of A and of the accumulator, the arrivals applied, the count of steps when it parked
  (the oldest takes first, 13 R245), and the record of the first poisoned column that it has read. -/
  | rwacc (ctl a acc : Word) (done since : Nat) (poison : Option LateTrap)
  /-- The count of steps when its request was made. -/
  | walker (since : Nat)
  | checkpoint
  /-- EXIT before its waits are over, and DONE (14 R273, R269). -/
  | exit
  | done
  /-- GO: the packet is away, or has bounced (02 R41, R42). -/
  | goFlight
  | goBounced (target : Nat) (recorded : Bool) (since : Nat)
  /-- The acquire of a returning atomic's checkpoint, a CTXSV or HTCINV move: no wait that the model shows. -/
  | held
  deriving DecidableEq, Repr

inductive Status where
  | free
  | ready
  | parked (w : Wait)
  deriving DecidableEq, Repr

/-- The mark of a batch with a failed hire (12 R225, R228). -/
structure Mark where
  set : Bool
  cause : BitVec 8
  seq : BitVec 16
  nfail : BitVec 8
  deriving DecidableEq, Repr

/-- One slot's context: the registers of 06 R105 that a strand or handler owns, and what R32-R45 keep of it. Registers
are held in the bits that their maps implement. -/
structure Strand where
  status : Status
  /-- The model's name of the strand in the slot, fresh at each creation and carried by GO: it tells the requests of a
  strand from those of the slot's next strand. -/
  uid : Nat
  pc : Word
  /-- The length in words and the switch marker of the instruction a parked strand waits in. -/
  words : Nat
  marker : Bool
  ra : Vector Word 8
  rl : Vector Word 8
  rn : Vector Word 8
  /-- The resident windows below the current one, newest first: their number is STAT.WRES (06 R106). -/
  lower : List Window
  sa : Vector Word 8
  sl : Vector Word 8
  sn : Vector Word 8
  sp : Word
  v : Vector VWord 16
  k : Vector (BitVec 32) 4
  /-- The pending bits of a0-a7 [7:0], l0-l7 [15:8], n0-n7 [23:16] (06 R113). -/
  pend : BitVec 24
  sup : Bool
  psup : Bool
  sstep : Bool
  psstep : Bool
  dcls : BitVec 3
  lock : Bool
  wspill : BitVec 32
  epc : Word
  ecause : BitVec 9
  eval : Word
  ehseq : BitVec 18
  tvec : BitVec 62
  fmode : BitVec 8
  rmode : BitVec 3
  seed : BitVec 32
  tsm : BitVec 51
  progIndex : BitVec 48
  progValid : Bool
  clsmask : BitVec 8
  chainCell : BitVec 16
  chainEn : Bool
  stealdom : BitVec 4
  mstra : BitVec 32
  mstrb : BitVec 32
  tau : BitVec 32
  theta : BitVec 32
  cmin : BitVec 32
  tmode : Bool
  instret : Word
  splh : Word
  /-- The next-sequence counter (08 R148). -/
  seqCtr : BitVec 16
  marks : Vector Mark 4
  /-- si[13:0], si[31] and si[47:32] (02 R35). -/
  sidx : BitVec 14
  child : Bool
  team : BitVec 16
  /-- JOIN of a spawned strand and the home cell it was spawned in (14 R271, R273). -/
  join : Word
  spawnCell : Nat
  /-- Late traps in order: the first is the slot's pending one, the rest are held at their sources (17 R316). -/
  late : List LateTrap
  /-- SSTEP is due before the next issue (17 R315). -/
  stepDue : Bool
  /-- Restored from a WAITA whose monitor is gone: its reissue wakes spuriously (17 R324). -/
  woken : Bool
  /-- The cycle of the last issue (16 R310). -/
  lastIssue : Nat
  /-- Of a handler: the class of its message (17 R314). -/
  mcls : BitVec 3
  /-- The ACQs and FENCEs at `self` that the strand has issued: a later access is performed after every earlier load (15
  R292). -/
  acqs : Nat
  /-- The fixed-latency results under way, each with the first cycle in which an instruction that reads it can issue (09 R167,
  11 R201), and the first cycle in which the strand can issue after a transfer (09 R177). -/
  ready : List (RegName × Nat)
  hold : Nat
  deriving DecidableEq, Repr

/-! ## Cells -/

/-- A post register (06 R111). -/
structure Post where
  value : Word
  present : Bool
  /-- The scope that the value's PUT released at, for the acquire of its TAKE (14 R262). -/
  scope : Scope
  deriving DecidableEq, Repr

/-- A value in the post hold queue. -/
structure HeldPost where
  m : PostIx
  src : Nat
  value : Word
  scope : Scope
  deriving DecidableEq, Repr

/-- A message (02 R44): its class, the sender's home module cell id and its payload. -/
structure Msg where
  cls : Cls
  sender : Nat
  payload : List Word
  deriving DecidableEq, Repr

/-- An entry of the class table (08 R154). -/
structure ClassEntry where
  perm : Bool
  entry : BitVec 62
  deriving DecidableEq, Repr

/-- BERRb (06 R123). -/
structure Berr where
  col : BitVec 9
  synd : BitVec 10
  dbl : Bool
  valid : Bool
  count : BitVec 8
  deriving DecidableEq, Repr

/-- A monitor (08 R153); the table's order is the order of allocation, oldest first. -/
structure Monitor where
  slot : Fin 5
  fired : Bool
  wait : Bool
  addr : Word
  loc : Loc
  exp : Word
  deriving DecidableEq, Repr

/-- An arrival in the rank inbox (08 R151). -/
structure RankEntry where
  index : BitVec 8
  stream : Fin 4
  rank : BitVec 16
  /-- The cycle of the arrival. -/
  since : Nat
  deriving DecidableEq, Repr

/-- A child record (14 R271). -/
structure Child where
  entry : BitVec 32
  sidx : BitVec 14
  team : BitVec 16
  dom : BitVec 2
  join : Word
  args : List Word
  deriving DecidableEq, Repr

/-- An entry of the hire record ring (08 R149). -/
structure RingEntry where
  seq : BitVec 16
  slot : Fin 5
  batch : Fin 4
  status : BitVec 2
  cause : BitVec 8
  blk : Word
  deriving DecidableEq, Repr

/-- What a GO packet carries (02 R41). -/
structure GoPacket where
  src : SlotId
  uid : Nat
  a : Vector Word 8
  l : Vector Word 8
  sp : Word
  pc : Word
  sup : Bool
  psup : Bool
  sstep : Bool
  psstep : Bool
  dcls : BitVec 3
  lock : Bool
  wspill : BitVec 32
  fmode : BitVec 8
  rmode : BitVec 3
  seed : BitVec 32
  tsm : BitVec 51
  splh : Word
  sidx : BitVec 14
  child : Bool
  team : BitVec 16
  join : Word
  spawnCell : Nat
  late : List LateTrap
  deriving DecidableEq, Repr

/-- The shapes of the copy engine's members (10 R186), and an in-switch reduction (18 R344). -/
inductive CopyShape where
  | bytes (n : Nat)
  | strided (len rows sstr dstr : Nat)
  | gather (n sz : Nat)
  | scatter (n sz : Nat)
  | convert (n : Nat)
  deriving DecidableEq, Repr

/-- A copy in flight (10 R187, 17 R325). -/
structure Copy where
  slot : Fin 5
  uid : Nat
  token : SReg
  member : Nat
  shape : CopyShape
  dst : Word
  src : Word
  ext : Word
  fmode : BitVec 8
  rmode : BitVec 3
  /-- Issued in the supervisor, whose accesses private handles admit (07 R141). -/
  sup : Bool
  /-- The units not yet performed. -/
  todo : List Nat
  /-- A poisoned source column: its address, record and the late trap's SEQ (10 R188). -/
  poison : Option LateTrap
  /-- A fault that stopped it: its address. -/
  fault : Option Word
  deriving DecidableEq, Repr

/-- A near-bank operation under way (10 R193, R194). -/
structure NearRun where
  slot : Fin 5
  kind : Fin 3
  ty : FTy
  d : SReg
  a : Word
  b : Word
  n : Nat
  done : Nat
  acc : BitVec 32
  fmode : BitVec 8
  rmode : BitVec 3
  poison : Option LateTrap
  deriving DecidableEq, Repr

/-- A VQBLK or VDQBLK under way (11 R214). -/
structure BlkRun where
  slot : Fin 5
  quant : Bool
  ty : FTy
  kind : Fin 6
  d : SReg
  src : Word
  dst : Word
  scale : BitVec 8
  n : Nat
  /-- The source columns read so far, as bytes in order, and the bytes of them that were poisoned. -/
  read : List Byte
  bad : List Nat
  written : Nat
  out : List Byte
  result : BitVec 8
  computed : Bool
  fmode : BitVec 8
  rmode : BitVec 3
  poison : Option LateTrap
  deriving DecidableEq, Repr

/-- A RANK or an RVAL under way (13 R242, R246). -/
structure RankRun where
  slot : Fin 5
  /-- RVAL. -/
  val : Bool
  d : SReg
  src : Word
  dst : Word
  ctl : Word
  fmode : BitVec 8
  /-- The bytes that stood written when it resumed. -/
  start : Nat
  /-- The ranking network has taken the RANK. -/
  granted : Bool
  /-- The source bytes read so far. -/
  read : List Byte
  /-- All the bytes to write, once they are known, and how many stand written. -/
  out : Option (List Byte)
  written : Nat
  poison : Option LateTrap
  deriving DecidableEq, Repr

structure Cell where
  strands : Vector Strand 5
  /-- The bind record that holds the cell: the super-group hub and the record's number. -/
  bind : Option (Nat × Nat)
  posts : Vector Post 32
  held : List HeldPost
  /-- The twin store's y0-y3 of the cell, used while its twin is away (06 R110). -/
  y : Vector Word 4
  /-- The twin signal counters (12 R238). -/
  sig : Vector (BitVec 8) 4
  berr : Vector Berr 4
  /-- The port that each bank served last, and the cycle and step of its last access (01 R20). -/
  bankPort : Vector Nat 4
  bankAt : Vector (Option (Nat × Nat)) 4
  /-- ECCINJ (06 R123). -/
  eccinj : BitVec 31
  inbox : List Msg
  classes : Vector ClassEntry 8
  goQueue : List GoPacket
  /-- The bounced sources recorded (02 R42). -/
  bounced : List SlotId
  ranks : List RankEntry
  rankCount : Vector (BitVec 16) 4
  /-- Rank table element 256 t + r, f16 (08 R152). -/
  rankTab : Table (BitVec 16)
  /-- The 32-byte columns of the rank tables whose bits read wrong, 16 t + r / 16, and their positions (08 R152). -/
  rankBad : Table (List Nat)
  monitors : List Monitor
  /-- The hire record ring, newest first (08 R149). -/
  ring : List RingEntry
  /-- The hardware deque, oldest first, and the deque area's count and start (08 R155). -/
  deque : List Child
  acnt : Nat
  ahead : Nat
  copies : Vector (Option Copy) 8
  near : List NearRun
  blk : List BlkRun
  ranking : List RankRun
  msgdisc : BitVec 32
  hlong : BitVec 32
  gobounce : BitVec 32
  /-- The cycle of the last VFP issue (18 R355). -/
  lastVfp : Option Nat
  /-- The first cycles in which the divider and the vector divider are free (09 R167, 11 R201). -/
  sdiv : Nat
  vdiv : Nat
  /-- The slot that issued last, and the cycle of that issue (02 R33). -/
  lastSlot : Fin 5
  issuedAt : Option Nat
  /-- The slots that the yielding slot lets pass (10 R199). -/
  yields : List (Fin 5 × List (Fin 5))
  /-- Slots with a steal request under way (02 R43). -/
  stealing : List (Fin 5)
  deriving DecidableEq, Repr

/-! ## Tile, group and super-group hubs -/

/-- A translation held in a hub or group cache, with the checks of the handle entry (07 R132, R135). -/
structure TlbEntry where
  tenant : Nat
  handle : Nat
  page : Nat
  psz : Nat
  unit : Nat
  layer : Nat
  frame : Nat
  deriving DecidableEq, Repr

/-- The state of a hire (08 R147). -/
inductive HireState where
  | queued | running | onPage | stopped | cancelled | writing
  deriving DecidableEq, Repr

/-- A D unit of a hire that has not been performed (12 R220). -/
structure DWrite where
  ea : Word
  data : List Byte
  deriving DecidableEq, Repr

/-- An operand column that a load pipe has read for a step: the column's number in the address, its bytes, and whether it
was poisoned (12 R218). -/
structure OperandCol where
  step : Nat
  col : Nat
  bytes : List Byte
  bad : Bool
  deriving DecidableEq, Repr

/-- A hire record (08 R147) and what the hub keeps of the hire while it runs. -/
structure Hire where
  block : List Byte
  masks : BitVec 48
  seq : BitVec 16
  batch : Fin 4
  z : Bool
  l : Bool
  o : Bool
  rk : Bool
  mma : Bool
  cell : Nat
  slot : Fin 5
  uid : Nat
  prio : Bool
  state : HireState
  done : Nat
  total : Nat
  fmode : BitVec 8
  rmode : BitVec 3
  sup : Bool
  fetched : List OperandCol
  writes : List DWrite
  /-- An unresolvable fault: cause and address (12 R225). -/
  fault : Option (Cause × Word)
  /-- Late POISON traps to raise at the end (12 R225, 07 R131). -/
  poison : List LateTrap
  /-- Held until the next checkpoint of its lockstep pair (02 R47). -/
  held : Bool := false
  deriving DecidableEq, Repr

/-- The owner of an accumulator slot (08 R150). -/
structure AccOwner where
  state : BitVec 2
  cell : Nat
  slot : Fin 5
  busy : Nat
  /-- The last hire that wrote the slot (07 R131). -/
  lastSeq : BitVec 16
  deriving DecidableEq, Repr


/-- A line of the code cache (04 R372): 64 bytes of a handle. -/
structure CodeLine where
  part : Nat
  handle : Nat
  line : Nat
  bytes : List Byte
  deriving DecidableEq, Repr

/-- A line fill that failed, for one of the strands that wait for the line (04 R372). -/
structure FetchFail where
  who : SlotId
  uid : Nat
  handle : Nat
  line : Nat
  deriving DecidableEq, Repr

structure Hub where
  hires : List Hire
  /-- Element 256 s + 16 i + j of the accumulator slots (06 R114). -/
  acc : Table (BitVec 32)
  owners : Table AccOwner
  /-- The 32-byte units of the slots whose bits read wrong, 32 s + u, and their positions (07 R128, R131). -/
  accBad : Table (List Nat)
  /-- Round-robin pointers of priority classes 0 and 1 and class 1's run of steps (12 R223). -/
  rr0 : Nat
  rr1 : Nat
  run1 : Nat
  /-- The cycle of the last admission to the queue, and the cell admitted (08 R146). -/
  admitted : Option (Nat × Nat)
  /-- The tile-local cell that the ranking network serves next when it can (13 R242). -/
  rankNext : Nat
  tlb : List TlbEntry
  code : List CodeLine
  /-- The strands whose line fills failed, and the lines (04 R372). -/
  fetchFails : List FetchFail
  steps : Word
  hireCount : Word
  accerr : BitVec 32
  htcmiss : Word
  pagewait : Word
  drycyc : Word
  deriving DecidableEq, Repr

/-- A request of the damask walker (13 R250): the instruction, its operands as read at issue. -/
inductive WalkOp where
  | tnew | tapp | twalk | tsum | tdrop
  | tstat (sel : Fin 4)
  deriving DecidableEq, Repr

structure WalkReq where
  op : WalkOp
  cell : Nat
  slot : Fin 5
  uid : Nat
  d : SReg
  dval : Word
  a : Word
  b : Word
  tau : BitVec 32
  theta : BitVec 32
  cmin : BitVec 32
  tmode : Bool
  progIndex : BitVec 48
  progValid : Bool
  sup : Bool
  restarts : Nat
  /-- The VERSION a running walk started at, and whether it takes the read lock (13 R251). -/
  version : Word
  rlock : Bool
  /-- Word 0 of the instruction, for ILL. -/
  word0 : Word
  /-- The count of steps when it was made: the name of the wait that it ends. -/
  since : Nat
  deriving DecidableEq, Repr

structure Group where
  l2 : List TlbEntry
  walkq : List WalkReq
  running : Option WalkReq
  wrestart : BitVec 32
  wrlock : BitVec 32
  deriving DecidableEq, Repr

/-- A twin pair of arrays: the heat-token bucket (08 R163) and the licence (08 R164, 12 R235). -/
structure Bond where
  tokens : BitVec 16
  dry : Bool
  caphot : Bool
  /-- The cycle in which CAPHOT was set (18 R357). -/
  hotAt : Nat
  /-- HOLDER: 0 none, 1 lower, 2 upper. -/
  holder : BitVec 2
  /-- The cycle of the grant: HOLD counts from it and holds at 16,384. -/
  grantAt : Nat
  pinl : Bool
  pinu : Bool
  /-- Who held last, and the cycle of its yield. -/
  lastUpper : Bool
  yieldAt : Option Nat
  deriving DecidableEq, Repr

/-- A lockstep checkpoint of one strand slot (02 R48). -/
structure Saved where
  slot : Fin 5
  ctx : Strand
  deriving DecidableEq, Repr

/-- The last write to a y register in the bond: its cycle, whether a cell of the upper die made it, and the value before
that cycle (06 R110). -/
structure YWrite where
  cycle : Nat
  upper : Bool
  old : Word
  deriving DecidableEq, Repr

/-- A twin pair of cells (06 R110, 02 R47, 17 R331). -/
structure Pair where
  y : Vector Word 4
  yw : Vector (Option YWrite) 4
  /-- The registers of the last checkpoint of the pair's slots, y0-y3 with them, and its bank operations under way. -/
  saved : List Saved
  savedY : Vector Word 4
  savedNear : List NearRun
  savedBlk : List BlkRun
  savedRanking : List RankRun
  savedWalks : List WalkReq
  savedRing : List RingEntry
  /-- The undo log: address and old byte, newest first. -/
  log : List (Nat × Byte)
  /-- What a rollback undoes outside memory (02 R49): the values taken from post registers since the checkpoint, oldest
  first, the messages whose handlers were entered, the child records pushed, and those popped, newest last. -/
  taken : List HeldPost
  entered : List Msg
  pushed : Nat
  popped : List Child
  /-- The held effects of the twins differ: the comparison of the next checkpoint finds it (02 R48). -/
  diverged : Bool
  checkpoints : Nat
  /-- INSTRET of the lower twin at the checkpoint, summed over its slots, and that of the strands and handlers which have left
  it since. -/
  baseline : Nat
  gone : Nat
  /-- The recorded mismatch: checkpoints and count. -/
  mismatch : Option (Nat × Nat)
  rollbacks : Nat
  fenced : Bool
  lstrans : BitVec 32
  lslast : BitVec 32
  deriving DecidableEq, Repr

/-- A bind record (08 R157). -/
structure BindRec where
  v : Bool
  lock : Bool
  move : Bool
  prio : Bool
  noswap : Bool
  dcls : BitVec 3
  part : BitVec 5
  rst : Bool
  x0 : BitVec 4
  y0 : BitVec 4
  wm1 : BitVec 4
  hm1 : BitVec 4
  sm1 : BitVec 2
  die : Bool
  team : BitVec 16
  first : BitVec 14
  last : BitVec 14
  grid : BitVec 16
  tvec : Word
  entry : Word
  stkh : BitVec 24
  splh : BitVec 24
  args : Word
  save : Word
  dqh : BitVec 24
  /-- The bits of the record's must-be-zero fields (08 R157, R158). -/
  rsvd : BitVec 91
  /-- The home rectangle: the super-group, die and origin where the team was first bound (02 R38). -/
  homeSg : Nat
  homeX : BitVec 4
  homeY : BitVec 4
  /-- The cycle of the bind, the start of its residence (16 R309). -/
  since : Nat
  /-- The save engine's phase: 0 none, 1 asked for, 2 stopped and draining, 3 image written (17 R320). -/
  saving : Nat
  deriving DecidableEq, Repr

/-- An entry of the slot table (08 R156). -/
structure SlotEntry where
  record : BitVec 8
  v : Bool
  deriving DecidableEq, Repr

/-- A class 3 window (18 R341). -/
structure WindowEntry where
  d0 : Word
  d1 : Word
  d2 : Word
  d3 : Word
  deriving DecidableEq, Repr

/-- This module's contribution to an in-switch reduction (18 R344): the copy that carries it, the window's number and its entry
when the copy began, which reduction of the window it is, and the bytes sent, each with its place in the contribution. -/
structure Reduction where
  cell : Nat
  copy : Fin 8
  window : Nat
  entry : WindowEntry
  number : Nat
  data : List (Nat × Byte)
  deriving DecidableEq, Repr

/-- Of a saved team's strand, what its record has no place for (17 R323, log 22). -/
structure SavedStrand where
  uid : Nat
  sidx : BitVec 14
  child : Bool
  spawnCell : Nat
  marks : Vector Mark 4
  held : List LateTrap
  stepDue : Bool
  /-- The wait it re-enters, with the length and switch marker of its instruction. -/
  wait : Option Wait
  words : Nat
  marker : Bool
  deriving DecidableEq, Repr

/-- A saved team: its bind record, and what the image has no place for, in the order of the image's records (log 22). -/
structure SavedTeam where
  record : BindRec
  strands : List SavedStrand
  copies : List (Nat × Bool × Option LateTrap × Option Reduction)
  /-- Per tile. -/
  hires : List (List (Bool × List LateTrap × Option (Cause × Word)))
  lastSeqs : List (BitVec 16)
  /-- Per cell, the columns of the rank tables that read poisoned. -/
  badRanks : List (List Nat)
  /-- Held barrier arrivals without a strand record to name them: home cell, slot, strand and word. -/
  arrivals : List (Nat × Fin 5 × Nat × Word)
  deriving DecidableEq, Repr

structure SgHub where
  recs : Table BindRec
  slots : Table SlotEntry
  /-- Saved teams bound again and not yet restored, by record. -/
  restores : Table SavedTeam
  deriving DecidableEq, Repr

/-! ## Requests and packets under way -/

/-- How a load's bytes become a register (10 R181). -/
inductive Ext where
  | sext | zext
  deriving DecidableEq, Repr

/-- Where a result lands: the register and the bank it was issued for (02 R34, 17 R313). -/
inductive Dest where
  | none
  | reg (r : SReg) (sup : Bool) (e : Ext)
  | vec (r : VReg)
  /-- LDF: the format, whether 16 scale bytes follow the data, and the modes of issue (10 R183). Its lanes are rounded,
  and drawn for, when it writes back (05 R92). -/
  | ldf (r : VReg) (fmt : Nat) (scl : Bool) (fmode : BitVec 8) (rmode : BitVec 3)
  deriving DecidableEq, Repr

/-- What a request does at its memory. -/
inductive MemOp where
  /-- A load; of LDF, the places and addresses of its scale bytes too. -/
  | load (d : Dest) (scales : List (Loc × Word))
  | store (data : List Byte)
  /-- STF: the lanes to encode, with their draws, against the scale bytes in the plane (10 R183). -/
  | stf (fmt : Nat) (lanes : List (BitVec 16)) (fmode : BitVec 8) (rmode : BitVec 3) (draws : List Nat)
      (scales : List (Loc × Word))
  /-- An atomic or shipped built-in: member, width, operands, modes (10 R190). -/
  | atomic (member : Nat) (wide : Bool) (p q : Word) (d : Dest) (fmode : BitVec 8)
  /-- The register code is the one of D, for a late trap (17 R314). Placed: its page lay in HBM when it was translated, so it is
  performed there (07 R137). -/
  | fship (routine : Nat) (p q : Word) (d : Dest) (fmode : BitVec 8) (code : BitVec 5) (placed : Bool)
  /-- A barrier arrival (10 R198). -/
  | barrier
  | barinit (v : Word)
  deriving DecidableEq, Repr

/-- What travels (01 R20, R22, R26). -/
inductive Body where
  | mem (op : MemOp) (loc : Loc) (len : Nat) (ea : Word)
  /-- A result on its way back: the destination, its bytes, and a late trap to raise. -/
  | reply (d : Dest) (data : List Byte) (late : Option LateTrap)
  /-- The acknowledgement of a performed write: the TSM slice it touched. -/
  | ack
  /-- An arrival that its barrier word's memory has accepted and holds while DEPART > 0 (10 R198). -/
  | arrival (loc : Loc) (ea : Word)
  | put (m : PostIx) (v : Word) (sc : Scope)
  | msg (m : Msg)
  | rank (index : BitVec 8) (stream : Fin 4)
  | go (g : GoPacket)
  | goAccept (src : SlotId) (uid : Nat)
  | goReturn (g : GoPacket) (recorded : Bool)
  | goResend (src : SlotId)
  /-- The record, and the late trap of a poisoned read of it. -/
  | steal (slot : Fin 5) (victim : Nat) (child : Child) (late : Option LateTrap)
  | twsig (n : Fin 4)
  deriving DecidableEq, Repr

/-- A request or packet under way. -/
structure Flight where
  who : SlotId
  uid : Nat
  sup : Bool
  body : Body
  /-- The cells (or stops of memories) it goes between. -/
  srcCell : Nat
  dstCell : Option Nat
  cls : BitVec 3
  part : Nat
  /-- It travels on the mesh or fabric, and has reached this stop (01 R23-R29). -/
  packet : Bool
  pos : Stop
  dst : Stop
  /-- The TSM slice of a write that leaves the super-group (06 R119). -/
  slice : Option Nat
  /-- Held until the next checkpoint of its lockstep pair (02 R47). -/
  heldBy : Option Nat
  /-- Let go by a checkpoint while its class was closed: it is not yet in the mesh (01 R30). -/
  waits : Bool := false
  /-- The cycle in which it reached its memory, its cell's port or its muslin core; it is served in a later one (01 R20). -/
  reached : Option Nat := none
  /-- Of a lockstep strand: the checkpoints that its pair had taken at the issue (02 R49). -/
  epoch : Nat := 0
  /-- Its strand's ACQs and FENCEs at `self` before the issue (15 R292). -/
  acqs : Nat := 0
  /-- VER of the peer window that it was translated with (18 R343, R346). -/
  ver : BitVec 8 := 0#8
  deriving DecidableEq, Repr

/-- Who waits for a translation, a page or a code line. -/
inductive Agent where
  | slot (i : SlotId)
  | copy (c : Nat) (i : Fin 8)
  | hire (t : Nat) (seq : BitVec 16) (uid : Nat)
  /-- The D writes of a hire. -/
  | hireWrite (t : Nat) (seq : BitVec 16) (uid : Nat)
  | walker (g : Nat)
  /-- The save engine of a hub, for a bind record's team. -/
  | saver (g r : Nat)
  /-- The muslin core that runs an FSHIP of a strand (17 R318). -/
  | muslin (uid : Nat)
  /-- A command stream, for a COPY or HINT. -/
  | stream (n : Nat)
  | host
  deriving DecidableEq, Repr

/-- A walk of a column's handle walker (07 R135). -/
structure Walk where
  col : Nat
  tenant : Nat
  handle : Nat
  page : Nat
  /-- The misses merged into it, 64 at most: the tile of each and its agent. -/
  who : List (Nat × Agent)
  deriving DecidableEq, Repr

/-- A write held at the walker while its page moves or is cleared (07 R137): who makes it, and the instruction that waits. -/
structure HeldWrite where
  who : Agent
  uid : Nat
  pc : Word
  deriving DecidableEq, Repr

/-- A page that the pager works on, or failed to make present, for one waiter (07 R136). -/
structure PageWait where
  handle : Nat
  page : Nat
  who : Agent
  failed : Bool
  deriving DecidableEq, Repr

/-- A line fill of a code cache (04 R372). -/
structure Fill where
  tile : Nat
  part : Nat
  handle : Nat
  line : Nat
  /-- The strands that wait for it. -/
  who : List (SlotId × Nat)
  deriving DecidableEq, Repr

/-- A write on its way from a home copy to a replica (07 R138). -/
structure Forward where
  /-- The write's own name: the forwards of one write to several replicas share it. -/
  wid : Nat
  /-- The strands that have written or read the value (15 R287, R291). -/
  seen : List Nat
  /-- A column core made it, for a command stream (16 R301). -/
  core : Bool
  /-- The page, by the firmware address of its map entry, the replica's column and the place in the page. -/
  key : Nat
  col : Nat
  off : Nat
  data : List Byte
  deriving DecidableEq, Repr

/-! ## Memory management, partitions, grids and the host -/

/-- A handle table entry (07 R132). -/
structure Handle where
  v : Bool
  pr : Bool
  pw : Bool
  px : Bool
  priv : Bool
  psz : BitVec 3
  repl : Bool
  scl : Bool
  geo : BitVec 2
  fmt : BitVec 4
  tenant : BitVec 5
  wid : BitVec 24
  limit : BitVec 36
  pmap : Word
  ext : Word
  deriving DecidableEq, Repr

/-- A page map entry (07 R134). -/
structure Page where
  p : Bool
  layer : BitVec 2
  transit : Bool
  clear : Bool
  unit : BitVec 4
  frame : BitVec 36
  /-- The fill list's firmware address when P = 0; zero fills with zeros. -/
  fill : Nat
  /-- Replicas held in cap slices: column and place (07 R138). -/
  replicas : List (Nat × Nat)
  /-- The writes held while the page moves or is cleared, in the order they were held (07 R137). -/
  held : List HeldWrite := []
  deriving DecidableEq, Repr

/-- Frames whose clearing is under way or due (07 R134, 18 R348): layer, unit, byte address and bytes. -/
structure Clearing where
  layer : Nat
  unit : Nat
  base : Nat
  size : Nat
  deriving DecidableEq, Repr

/-- A muslin routine (08 R162). -/
structure Routine where
  len : BitVec 5
  v : Bool
  ret : Bool
  w64 : Bool
  tenant : BitVec 5
  uops : List (BitVec 32)
  deriving DecidableEq, Repr

/-- What waits in a pending list (16 R304, R305): a team of a grid to bind, or a saved team to bind again. -/
inductive PendEntry where
  | grid (id : Nat)
  | saved (id : Nat) (t : SavedTeam)
  deriving DecidableEq, Repr

/-- A partition (18 R347). -/
structure Part where
  live : Bool
  pairs : BitVec 128
  hbm : Nat
  cap : Nat
  lpddr : Nat
  report : Word
  reportIx : Nat
  test : Bool
  qshift : BitVec 6
  /-- The cycle of the last quantum boundary that the binder has come to (16 R308). -/
  quantaAt : Nat
  /-- Victims are chosen: the boundary has come, and the head cannot be bound or a save that it asked for runs (16 R309). -/
  rotating : Bool
  windows : Table WindowEntry
  stall : Nat
  /-- The head entry that the count of stuck quanta is of (16 R311). -/
  stallHead : Option PendEntry
  /-- A reset is under way: STATUS reads 2 (18 R334, R348). -/
  resetting : Bool
  /-- The handle that a request frees, whose translated accesses are not all performed yet (18 R337). -/
  freeing : Option Nat
  pending : List PendEntry
  /-- The cycle of the last entry of a grid, and the column that asked for it (16 R305). -/
  entered : Option (Nat × Nat)
  heatuse : Word
  /-- The key slot is assigned (07 R142). -/
  key : Bool
  /-- The POISON errors that the supervisor runtime has counted for the partition's strands: transient, lasting, unclassified and
  of accumulators (17 R317). -/
  errors : Vector Nat 4
  deriving DecidableEq, Repr

/-- A registered grid image (18 R340). -/
structure Image where
  part : Nat
  /-- The 256 bytes of the header (18 R339), as read at registration. -/
  header : List Byte
  /-- The PW bits that the code handle and the image held before. -/
  codeW : Bool
  imageW : Bool
  deriving DecidableEq, Repr

/-- A command taken from a stream and under way (16 R301). -/
structure Cmd where
  index : Nat
  op : Nat
  sig : Bool
  sigAddr : Word
  sigVal : Word
  /-- Of a COPY: DST, SRC and LEN. -/
  dst : Word
  src : Word
  len : Nat
  grid : Option Nat
  status : BitVec 8
  done : Bool
  deriving DecidableEq, Repr

/-- A command stream (16 R299, R300). -/
structure Stream where
  live : Bool
  part : Nat
  /-- Its number in the partition, and the column core that follows it. -/
  num : Nat
  core : Nat
  /-- The control block, the next command, and the number of commands taken. -/
  ctl : Word
  ring : Word
  next : Nat
  head : Nat
  tail : Nat
  err : BitVec 8
  cmds : List Cmd
  deriving DecidableEq, Repr

/-- A device launch on its way to the module manager (14 R278). -/
structure DevLaunch where
  grid : Grid
  deriving DecidableEq, Repr

/-- A Jorlink port (18 R343, R346). -/
structure Port where
  trained : Bool
  retired : Bool
  /-- The sequence number of the next flit. -/
  seq : Nat
  deriving DecidableEq, Repr

/-! ## Who acts -/

/-- What a report to a function carries (18 R335). -/
inductive Report where
  /-- SAVEOVF of a team: its grid, its number and the bytes that the image needed (17 R328). -/
  | saveovf (grid team size : Nat)
  /-- A page of a team's save area that the pager could not make present (17 R327). -/
  | savePage (grid team page : Nat)
  /-- The head entry of a partition's list cannot be bound (16 R311). -/
  | bindingStall (grid : Nat)
  /-- A lasting POISON error, or one that the runtime could not classify: the address, and the fault of the retry (17 R317). -/
  | poison (ea : Word) (fault : Option Cause)
  /-- A pair is fenced (17 R331). -/
  | lockstep (pair : Nat)
  /-- A reduction of a window has failed (18 R345). -/
  | redfail (window : Nat)
  /-- The arrays of a twin pair stop for heat, or go on (18 R357). -/
  | heat (bond : Nat) (stopped : Bool)
  /-- Operand b of a TRAP (17 R314). -/
  | trap (b : Word)
  /-- A start failed: reason and unit (18 R353, R354). -/
  | start (reason unit : BitVec 8)
  deriving DecidableEq, Repr

/-- What the outside world does to the module: the host and peers write their memory and BAR0, a peer's packet arrives and a
peer retires a port of its own, stored bits change, a twin of a lockstep pair goes wrong, the supervisor runtime acts on a trap
or ends a grid, and drav extends a measurement. -/
inductive World where
  | hostWrite (fn addr : Nat) (b : Byte)
  | peerWrite (id addr : Nat) (b : Byte)
  | inboundWrite (id : Nat) (ver : BitVec 8) (l : Loc) (bs : List Byte)
  | adoptVersion (id : Nat)
  | barWrite (fn addr : Nat) (b : Byte)
  | upset (l : Loc) (bits : List Nat)
  | accUpset (tile unit : Nat) (bits : List Nat)
  | rankUpset (cell col : Nat) (bits : List Nat)
  | diverge (pair : Nat) (held : Bool)
  | endGrid (grid : Nat) (cause : Cause)
  /-- The supervisor runtime acts on the trap that a slot has entered (17 R314, R317, 23 R367). -/
  | runtime (i : SlotId)
  /-- drav extends MR6 or MR7 with the digest of a component (18 R351). -/
  | measure (upper : Bool) (digest : BitVec 256)
  deriving DecidableEq, Repr

/-- Which agent moves at a step. -/
inductive Turn where
  | clock
  | issue (i : SlotId)
  | event (e : Instr)
  | world (w : World)
  deriving DecidableEq, Repr, Inhabited

/-! ## The module -/

structure State where
  /-- The model's own: the count of steps, and the agent that moves next. -/
  tick : Nat
  turn : Turn
  /-- The slot whose instruction exec runs. -/
  cur : SlotId
  /-- The last name given to a strand. -/
  uids : Nat
  cycle : Word
  mem : List Host.Cell
  /-- Columns whose stored bits differ from what was written: column key and positions (07 R128). -/
  flips : Table (List Nat)
  /-- Corrected columns that wait to be rewritten (07 R129). -/
  rewrites : List Nat
  cells : Table Cell
  hubs : Table Hub
  groups : Table Group
  bonds : Table Bond
  /-- The level of the heat buckets of the twin pairs that the table of bonds does not list (08 R163). -/
  level : BitVec 16
  pairs : Table Pair
  sgs : Table SgHub
  net : List Flight
  walks : List Walk
  pageWaits : List PageWait
  fills : List Fill
  forwards : List Forward
  /-- CLROUTE.ADAPT and CLROUTE.CLOSED (01 R28). -/
  adapt : BitVec 8
  closed : BitVec 8
  muslin : Table Routine
  handles : Table Handle
  /-- The page map entries, by firmware address: page p of a handle at PMAP + 8 p (07 R133). -/
  pages : Table Page
  clearing : List Clearing
  parts : Table Part
  grids : Table Grid
  images : Table Image
  streams : List Stream
  launches : List DevLaunch
  ports : Table Port
  /-- The current version of the address map of each module that sends to this one (18 R346). -/
  senders : Table (BitVec 8)
  reductions : List Reduction
  /-- The contributions that each window has had, by partition and window, 32 p + n (18 R344). -/
  redCounts : Table Nat
  /-- The stream that each column core serves next (16 R300). -/
  coreTurns : Table Nat
  /-- What hardware has reported to the firmware: rejected bind records, by super-group hub, and refused handle entries (08
  R158, 07 R132). -/
  badBinds : List (Nat × Nat)
  badHandles : List Nat
  /-- The power state in effect, and the one commanded with the cycle of its acceptance (18 R355, R356). -/
  power : BitVec 3
  powerReq : Option (BitVec 3 × Nat)
  ceil : BitVec 16
  rate : BitVec 16
  vsp : Nat
  /-- The cycle of the last refill. -/
  refillAt : Option Nat
  started : Bool
  minimal : Bool
  failedStarts : Nat
  /-- The reasons of the starts that failed in a row, each with its unit (18 R353, R354). -/
  startReasons : List (BitVec 8 × BitVec 8)
  /-- A restart was asked for: the next start is a full one (18 R354). -/
  full : Bool
  /-- Attestation signatures made over the part's life: the one-time-programmable counter of 18 R352. -/
  signatures : Nat
  /-- MR0 to MR7 (18 R351). -/
  measures : Vector (BitVec 256) 8
  deriving DecidableEq, Repr

/-! ## Reset -/

/-- A slot at part reset: Free, its registers zero (06 R106, R112, R113, R117-R121). sp, pc, DCLS, LOCK, TVEC and SPLH
come from a bind record; before one they are zero (DESIGN CHOICE, log 4). -/
def Strand.zero : Strand where
  status := .free
  uid := 0
  pc := 0#64
  words := 0
  marker := false
  ra := Vector.replicate 8 0#64
  rl := Vector.replicate 8 0#64
  rn := Vector.replicate 8 0#64
  lower := []
  sa := Vector.replicate 8 0#64
  sl := Vector.replicate 8 0#64
  sn := Vector.replicate 8 0#64
  sp := 0#64
  v := Vector.replicate 16 0#128
  k := Vector.replicate 4 0#32
  pend := 0#24
  sup := false
  psup := false
  sstep := false
  psstep := false
  dcls := 0#3
  lock := false
  wspill := 0#32
  epc := 0#64
  ecause := 0#9
  eval := 0#64
  ehseq := 0#18
  tvec := 0#62
  fmode := 0#8
  rmode := 0#3
  seed := 0#32
  tsm := 0#51
  progIndex := 0#48
  progValid := false
  clsmask := 0#8
  chainCell := 0#16
  chainEn := false
  stealdom := 1#4
  mstra := 0#32
  mstrb := 0#32
  tau := 0#32
  theta := 0#32
  cmin := 0#32
  tmode := false
  instret := 0#64
  splh := 0#64
  seqCtr := 0#16
  marks := Vector.replicate 4 ⟨false, 0#8, 0#16, 0#8⟩
  sidx := 0#14
  child := false
  team := 0#16
  join := 0#64
  spawnCell := 0
  late := []
  stepDue := false
  woken := false
  lastIssue := 0
  mcls := 0#3
  acqs := 0
  ready := []
  hold := 0

/-- The port number of a request that comes from the column mesh or the module fabric (01 R20). -/
def meshPort : Nat := 0x10000

/-- A cell at part reset (06 R111, R123; 08 R149-R155). A bank's first turn starts at port 0 (DESIGN CHOICE, log 7). -/
def Cell.zero : Cell where
  strands := Vector.replicate 5 Strand.zero
  bind := none
  posts := Vector.replicate 32 ⟨0#64, false, .self⟩
  held := []
  y := Vector.replicate 4 0#64
  sig := Vector.replicate 4 0#8
  berr := Vector.replicate 4 ⟨0#9, 0#10, false, false, 0#8⟩
  bankPort := Vector.replicate 4 meshPort
  bankAt := Vector.replicate 4 none
  eccinj := 0#31
  inbox := []
  classes := Vector.replicate 8 ⟨false, 0#62⟩
  goQueue := []
  bounced := []
  ranks := []
  rankCount := Vector.replicate 4 0#16
  rankTab := []
  rankBad := []
  monitors := []
  ring := []
  deque := []
  acnt := 0
  ahead := 0
  copies := Vector.replicate 8 none
  near := []
  blk := []
  ranking := []
  msgdisc := 0#32
  hlong := 0#32
  gobounce := 0#32
  lastVfp := none
  sdiv := 0
  vdiv := 0
  lastSlot := 4
  issuedAt := none
  yields := []
  stealing := []

def AccOwner.zero : AccOwner := ⟨0#2, 0, 0, 0, 0#16⟩

/-- A tile hub at part reset (08 R147, R150, R165). -/
def Hub.zero : Hub where
  hires := []
  acc := []
  owners := []
  accBad := []
  rr0 := 0
  rr1 := 0
  run1 := 0
  admitted := none
  rankNext := 0
  tlb := []
  code := []
  fetchFails := []
  steps := 0#64
  hireCount := 0#64
  accerr := 0#32
  htcmiss := 0#64
  pagewait := 0#64
  drycyc := 0#64

def Group.zero : Group where
  l2 := []
  walkq := []
  running := none
  wrestart := 0#32
  wrlock := 0#32

/-- A twin pair of arrays at part reset (08 R163, R164): no tokens, no holder. -/
def Bond.zero : Bond where
  tokens := 0#16
  dry := false
  caphot := false
  hotAt := 0
  holder := 0#2
  grantAt := 0
  pinl := false
  pinu := false
  lastUpper := true
  yieldAt := none

def Pair.zero : Pair where
  y := Vector.replicate 4 0#64
  yw := Vector.replicate 4 none
  saved := []
  savedY := Vector.replicate 4 0#64
  savedNear := []
  savedBlk := []
  savedRanking := []
  savedWalks := []
  savedRing := []
  log := []
  taken := []
  entered := []
  pushed := 0
  popped := []
  diverged := false
  checkpoints := 0
  baseline := 0
  gone := 0
  mismatch := none
  rollbacks := 0
  fenced := false
  lstrans := 0#32
  lslast := 0#32

def SgHub.zero : SgHub := ⟨[], [], []⟩

def BindRec.zero : BindRec where
  v := false
  lock := false
  move := false
  prio := false
  noswap := false
  dcls := 0#3
  part := 0#5
  rst := false
  x0 := 0#4
  y0 := 0#4
  wm1 := 0#4
  hm1 := 0#4
  sm1 := 0#2
  die := false
  team := 0#16
  first := 0#14
  last := 0#14
  grid := 0#16
  tvec := 0#64
  entry := 0#64
  stkh := 0#24
  splh := 0#24
  args := 0#64
  save := 0#64
  dqh := 0#24
  rsvd := 0#91
  homeSg := 0
  homeX := 0#4
  homeY := 0#4
  since := 0
  saving := 0

def SlotEntry.zero : SlotEntry := ⟨0#8, false⟩

def Handle.zero : Handle where
  v := false
  pr := false
  pw := false
  px := false
  priv := false
  psz := 0#3
  repl := false
  scl := false
  geo := 0#2
  fmt := 0#4
  tenant := 0#5
  wid := 0#24
  limit := 0#36
  pmap := 0#64
  ext := 0#64

def Page.zero : Page where
  p := false
  layer := 0#2
  transit := false
  clear := false
  unit := 0#4
  frame := 0#36
  fill := 0
  replicas := []

def Routine.zero : Routine := ⟨0#5, false, false, false, 0#5, []⟩

def WindowEntry.zero : WindowEntry := ⟨0#64, 0#64, 0#64, 0#64⟩

/-- A partition that the host has not created (18 R347); QSHIFT resets to 22 (16 R308). -/
def Part.zero : Part where
  live := false
  pairs := 0#128
  hbm := 0
  cap := 0
  lpddr := 0
  report := 0#64
  reportIx := 0
  test := false
  qshift := 22#6
  quantaAt := 0
  rotating := false
  windows := []
  stall := 0
  stallHead := none
  resetting := false
  freeing := none
  pending := []
  entered := none
  heatuse := 0#64
  key := false
  errors := Vector.replicate 4 0

def Grid.zero : Grid where
  part := 0
  image := 0
  entry := 0#64
  wm1 := 0#4
  hm1 := 0#4
  sm1 := 0#2
  lock := false
  prio := false
  move := false
  dcls := 0#3
  teams := 0
  args := 0#64
  deps := []
  bound := 0
  ended := 0
  finished := false
  status := 0#8
  saveovf := false
  notify := .none
  column := 0

def Image.zero : Image := ⟨0, [], false, false⟩

def Port.zero : Port := ⟨false, false, 0⟩

/-- The module right after a part reset (07 R144): every memory zero, nothing bound, not started. The first turn is
the clock's (DESIGN CHOICE, log 1). -/
def State.reset : State where
  tick := 0
  turn := .clock
  cur := ⟨0, 0⟩
  uids := 0
  cycle := 0#64
  mem := []
  flips := []
  rewrites := []
  cells := []
  hubs := []
  groups := []
  bonds := []
  level := 0#16
  pairs := []
  sgs := []
  net := []
  walks := []
  pageWaits := []
  fills := []
  forwards := []
  adapt := 0#8
  closed := 0#8
  muslin := []
  handles := []
  pages := []
  clearing := []
  parts := []
  grids := []
  images := []
  streams := []
  launches := []
  ports := []
  senders := []
  reductions := []
  redCounts := []
  coreTurns := []
  badBinds := []
  badHandles := []
  power := 0#3
  powerReq := none
  ceil := 0#16
  rate := 0#16
  vsp := 0
  refillAt := none
  started := false
  minimal := false
  failedStarts := 0
  startReasons := []
  full := false
  signatures := 0
  measures := Vector.replicate 8 0#256

end Sys2Proof.Machine
end

