-- ==== Sys2Proof/Machine/Mem.lean ====
section
/-! DEFINITION. Memory as bytes: one list of (key, byte) in canonical form over every memory of the module and outside it,
the columns with their SECDED code (07 R128-R130), and the little-endian values read and written through them (00 R5). -/

namespace Sys2Proof.Machine

open Sys2Proof

/-- What an unlisted address reads as: every memory of the module is written with zeros at part reset (07 R144). Host,
peer and BAR0 bytes that nobody has written read zero too (DESIGN CHOICE, log 3). -/
def Memory.unlisted : Byte := 0#8

def Memory.get : List Host.Cell → Nat → Byte
  | [], _ => Memory.unlisted
  | (i, v) :: m, a => if i = a then v else Memory.get m a

/-- Writes one byte and keeps the list canonical: keys rising, no entry equal to what an unlisted key reads as. -/
def Memory.set : List Host.Cell → Nat → Byte → List Host.Cell
  | [], a, b => if b = Memory.unlisted then [] else [(a, b)]
  | (i, v) :: m, a, b =>
    if a < i then (if b = Memory.unlisted then (i, v) :: m else (a, b) :: (i, v) :: m)
    else if i = a then (if b = Memory.unlisted then m else (a, b) :: m)
    else (i, v) :: Memory.set m a b

/-- Every key of the list is above k, keys rise, and no byte is the unlisted one. -/
def Memory.wfFrom : Nat → List Host.Cell → Bool
  | _, [] => true
  | k, (i, v) :: m => decide (k ≤ i) && decide (v ≠ Memory.unlisted) && Memory.wfFrom (i + 1) m

/-- The canonical form. -/
def Memory.wf (m : List Host.Cell) : Bool := Memory.wfFrom 0 m

def Memory.getBytes (m : List Host.Cell) : Nat → Nat → List Byte
  | _, 0 => []
  | a, n + 1 => Memory.get m a :: Memory.getBytes m (a + 1) n

def Memory.setBytes (m : List Host.Cell) : Nat → List Byte → List Host.Cell
  | _, [] => m
  | a, b :: bs => Memory.setBytes (Memory.set m a b) (a + 1) bs

/-! ### Places and values -/

def Space.code : Space → Nat
  | .local => 0 | .cap => 1 | .hbm => 2 | .lpddr => 3 | .host => 4 | .peer => 5 | .bar0 => 6

/-- The key of a place in the one list. -/
def Loc.key (l : Loc) : Nat := l.space.code * 2 ^ 96 + l.unit * 2 ^ 64 + l.addr

def Loc.add (l : Loc) (n : Nat) : Loc := { l with addr := l.addr + n }

/-- The key of the 32-byte column that holds a place (07 R128). -/
def Loc.column (l : Loc) : Nat := { l with addr := l.addr / 32 * 32 : Loc }.key

/-- Little-endian value of bytes (00 R5). -/
def leNat : List Byte → Nat
  | [] => 0
  | b :: bs => b.toNat + 256 * leNat bs

/-- The n bytes of a value, little-endian (00 R5). -/
def leBytes : Nat → Nat → List Byte
  | 0, _ => []
  | n + 1, v => BitVec.ofNat 8 v :: leBytes n (v / 256)

def leWord (bs : List Byte) : Word := BitVec.ofNat 64 (leNat bs)

/-- Bytes that no ECC check guards: what stands at a place. -/
def State.peek (s : State) (l : Loc) (n : Nat) : List Byte := Memory.getBytes s.mem l.key n

def State.poke (s : State) (l : Loc) (bs : List Byte) : State := { s with mem := Memory.setBytes s.mem l.key bs }

/-! ### The SECDED code (07 R128, R129) -/

/-- SYND[8:0] of the positions that read differently. -/
def syndLow : List Nat → Nat
  | [] => 0
  | p :: ps => p ^^^ syndLow ps

/-- SYND: bit 9 when an odd number of the 266 bits differ. -/
def syndrome (ps : List Nat) : Nat := syndLow ps + (if ps.length % 2 = 1 then 512 else 0)

inductive Judged where
  | clean
  | corrected (synd : Nat)
  | bad (synd : Nat)
  deriving DecidableEq, Repr

/-- How a syndrome is judged. -/
def judge (ps : List Nat) : Judged :=
  let y := syndrome ps
  if y = 0 then .clean
  else if 512 ≤ y ∧ y - 512 ≤ 265 then .corrected y
  else .bad y

/-- The position of data bit d: the (d + 1)-th number from 3 upwards that is no power of two. -/
def dataPosition (d : Nat) : Nat :=
  let step (acc p : Nat) : Nat := if p ≤ acc then acc + 1 else acc
  [4, 8, 16, 32, 64, 128, 256].foldl step (d + 3)

/-- The position of the bit an ECCINJ field names: 0-255 data, 256-265 check bits, above them none (06 R123). -/
def injectPosition (b : Nat) : List Nat :=
  if b < 256 then [dataPosition b]
  else if b < 265 then [2 ^ (b - 256)]
  else if b = 265 then [0]
  else []

/-- The exclusive-or of two sets of positions. -/
def flipAll (ps qs : List Nat) : List Nat :=
  ps.filter (fun p => !qs.contains p) ++ qs.filter (fun q => !ps.contains q)

/-! ### Cells and strands -/

def State.cell (s : State) (c : Nat) : Cell := s.cells.get Cell.zero c
def State.setCell (s : State) (c : Nat) (x : Cell) : State := { s with cells := s.cells.set c x }
def State.updCell (s : State) (c : Nat) (f : Cell → Cell) : State := s.setCell c (f (s.cell c))
def State.strand (s : State) (i : SlotId) : Strand := (s.cell i.cell).strands[i.slot]
def Cell.setStrand (x : Cell) (k : Fin 5) (t : Strand) : Cell := { x with strands := x.strands.set k t }
def State.setStrand (s : State) (i : SlotId) (t : Strand) : State := s.updCell i.cell (·.setStrand i.slot t)
def State.upd (s : State) (i : SlotId) (f : Strand → Strand) : State := s.setStrand i (f (s.strand i))
def State.hub (s : State) (t : Nat) : Hub := s.hubs.get Hub.zero t
def State.setHub (s : State) (t : Nat) (h : Hub) : State := { s with hubs := s.hubs.set t h }
def State.updHub (s : State) (t : Nat) (f : Hub → Hub) : State := s.setHub t (f (s.hub t))
def State.group (s : State) (g : Nat) : Group := s.groups.get Group.zero g
def State.updGroup (s : State) (g : Nat) (f : Group → Group) : State :=
  { s with groups := s.groups.set g (f (s.group g)) }
def State.bond (s : State) (b : Nat) : Bond := s.bonds.get { Bond.zero with tokens := s.level } b
def State.updBond (s : State) (b : Nat) (f : Bond → Bond) : State := { s with bonds := s.bonds.set b (f (s.bond b)) }
def State.pair (s : State) (p : Nat) : Pair := s.pairs.get Pair.zero p
def State.updPair (s : State) (p : Nat) (f : Pair → Pair) : State := { s with pairs := s.pairs.set p (f (s.pair p)) }
def State.sg (s : State) (g : Nat) : SgHub := s.sgs.get SgHub.zero g
def State.updSg (s : State) (g : Nat) (f : SgHub → SgHub) : State := { s with sgs := s.sgs.set g (f (s.sg g)) }
def State.bindRec (s : State) (g r : Nat) : BindRec := (s.sg g).recs.get BindRec.zero r
def State.updRec (s : State) (g r : Nat) (f : BindRec → BindRec) : State :=
  s.updSg g (fun h => { h with recs := h.recs.set r (f (h.recs.get BindRec.zero r)) })
def State.handle (s : State) (h : Nat) : Handle := s.handles.get Handle.zero h
/-- The firmware address of the page map entry of page p of a handle (07 R133). -/
def State.pageKey (s : State) (h p : Nat) : Nat := (s.handle h).pmap.toNat + 8 * p
def State.page (s : State) (h p : Nat) : Page := s.pages.get Page.zero (s.pageKey h p)
def State.setPage (s : State) (h p : Nat) (x : Page) : State := { s with pages := s.pages.set (s.pageKey h p) x }
def State.partOf (s : State) (p : Nat) : Part := s.parts.get Part.zero p
def State.updPart (s : State) (p : Nat) (f : Part → Part) : State := { s with parts := s.parts.set p (f (s.partOf p)) }
def State.grid (s : State) (g : Nat) : Grid := s.grids.get Grid.zero g
def State.updGrid (s : State) (g : Nat) (f : Grid → Grid) : State := { s with grids := s.grids.set g (f (s.grid g)) }

/-! ### Names of cells (00 R7) -/

/-- The tile of a cell. -/
def tileOf (c : Nat) : Nat := c / 16
def groupOf (c : Nat) : Nat := c / 256
/-- The super-group hub: column, die and super-group. -/
def sgOf (c : Nat) : Nat := c / 4096
def columnOf (c : Nat) : Nat := c / 65536
def dieOf (c : Nat) : Nat := c / 32768 % 2
def sgField (c : Nat) : Nat := c / 4096 % 8
/-- The twin differs in bit 15 only. -/
def twinOfCell (c : Nat) : Nat := if dieOf c = 0 then c + 32768 else c - 32768
/-- A twin pair, named by its lower cell. -/
def pairOf (c : Nat) : Nat := if dieOf c = 0 then c else c - 32768
/-- A twin pair of arrays, named by its lower tile. -/
def bondOf (t : Nat) : Nat := if t / 2048 % 2 = 0 then t else t - 2048
/-- A cell number names a cell unless its super-group is 5 to 7. -/
def cellExists (c : Nat) : Bool := decide (c < 16 * 65536) && decide (sgField c < 5)
/-- The stop of a super-group (01 R23): x + 4y. -/
def stopOfSg (g : Nat) : Nat := match g with
  | 0 => 0 | 1 => 1 | 2 => 2 | 3 => 4 | _ => 5
def stopOfCell (c : Nat) : Stop := ⟨columnOf c, stopOfSg (sgField c)⟩
/-- The memory stop of a column. -/
def memStop (col : Nat) : Stop := ⟨col, 3⟩
/-- The system stop of a column. -/
def sysStop (col : Nat) : Stop := ⟨col, 7⟩

/-- The smallest common scope of two cells (00 R8). -/
def commonScope (a b : Nat) : Scope :=
  if a = b then .cell
  else if twinOfCell a = b then .twin
  else if tileOf a = tileOf b then .tile
  else if groupOf a = groupOf b then .group
  else if sgOf a = sgOf b then .sgrp
  else if columnOf a = columnOf b then .col
  else .mod

/-! ### Reading and writing columns -/

/-- The bank of a local offset (07 R128). -/
def bankOf (off : Nat) : Nat := off / 0x3000

/-- SEQ of a poison record: source in [15:12], bank in [1:0] (07 R129). -/
def poisonSeq (reader : Nat) (l : Loc) : BitVec 16 :=
  match l.space with
  | .local => BitVec.ofNat 16 ((if l.unit = reader then 0 else 4096) + bankOf l.addr)
  | .cap => 0x2000#16
  | .hbm => 0x3000#16
  | _ => 0x4000#16

/-- The late POISON of a read of a column (07 R129): KIND 3. -/
def poisonTrap (reader : Nat) (l : Loc) (ea : Word) : LateTrap := ⟨.poison, ea, 3#2 ++ poisonSeq reader l⟩

/-- Records a detected error in the owning cell's BERR (07 R129). -/
def State.berrRecord (s : State) (l : Loc) (synd : Nat) (dbl : Bool) : State :=
  match l.space with
  | .local =>
    let b := Fin.ofNat 4 (bankOf l.addr)
    s.updCell l.unit (fun c =>
      let r := c.berr[b]
      let n := if r.count = 255#8 then r.count else r.count + 1#8
      { c with berr := c.berr.set b ⟨BitVec.ofNat 9 (l.addr % 0x3000 / 32), BitVec.ofNat 10 synd, dbl, true, n⟩ })
  | _ => s

/-- The positions an armed injection inverts at this read, and the state with it disarmed (06 R123). -/
def State.injected (s : State) (l : Loc) : List Nat × State :=
  match l.space with
  | .local =>
    let e := (s.cell l.unit).eccinj
    if e.getLsbD 30 && decide ((e.extractLsb' 0 2).toNat = bankOf l.addr)
        && decide ((e.extractLsb' 2 9).toNat = l.addr % 0x3000 / 32) then
      let p := injectPosition (e.extractLsb' 11 9).toNat
      let q := if e.getLsbD 29 then injectPosition (e.extractLsb' 20 9).toNat else []
      (flipAll p q, s.updCell l.unit (fun c => { c with eccinj := e &&& 0x3FFFFFFF#31 }))
    else ([], s)
  | _ => ([], s)

/-- The set of positions without the ones that its judgement corrects: the bits of the data that a reader then finds changed, and
the positions that still read wrong. More than two wrong bits can look like one or none (07 R128). -/
def correction (ps : List Nat) : List Nat × List Nat :=
  match judge ps with
  | .clean => (ps, [])
  | .corrected y => (flipAll ps [y - 512], [y - 512])
  | .bad _ => ([], ps)

/-- The data bits of a column at some positions inverted. -/
def State.flipData (s : State) (key : Nat) (ps : List Nat) : State :=
  { s with mem := (List.range 256).foldl (fun m d =>
      if ps.contains (dataPosition d) then
        Memory.set m (key + d / 8) (Memory.get m (key + d / 8) ^^^ BitVec.ofNat 8 (2 ^ (d % 8)))
      else m) s.mem }

/-- The positions of a column whose stored bits read wrong. -/
def State.setFlips (s : State) (key : Nat) (ps : List Nat) : State :=
  { s with flips := if ps.isEmpty then s.flips.filter (fun e => e.1 != key) else s.flips.set key ps }

/-- The data of a column as its reader corrects it; what was stored differs from that in an injection and in the bits corrected. -/
def State.misread (s : State) (key : Nat) (all inj : List Nat) : State :=
  let (data, rest) := correction all
  if data.isEmpty then s else (s.flipData key data).setFlips key (flipAll inj rest)

/-- The check of one column before its data is used (07 R129, R142, R143): true when it is poisoned. The tag of an HBM stack
covers a line of two columns: a write of one whole column leaves the line poisoned while the other column's bits read wrong
(DESIGN CHOICE, log 61). -/
def State.checkColumn (s : State) (l : Loc) : Bool × State :=
  let stored := s.flips.get [] l.column
  let (inj, s) := s.injected l
  match l.space with
  | .hbm =>
    let other := if l.column % 64 = 0 then l.column + 32 else l.column - 32
    (!(stored.isEmpty && (s.flips.get [] other).isEmpty), s)
  | .host | .peer | .bar0 => (false, s)
  | _ =>
    let all := flipAll stored inj
    match judge all with
    | .clean => (false, s.misread l.column all inj)
    | .corrected y =>
      let s := (s.berrRecord l y false).misread l.column all inj
      (false, if stored.isEmpty then s else { s with rewrites := s.rewrites ++ [l.column] })
    | .bad y => (true, s.berrRecord l y true)

/-- The columns that n bytes at a place touch, as places. -/
def columnsOf (l : Loc) (n : Nat) : List Loc :=
  if n = 0 then [] else
    (List.range ((l.addr % 32 + n - 1) / 32 + 1)).map (fun j => { l with addr := l.addr / 32 * 32 + 32 * j })

/-- Checks every column that n bytes touch: the poisoned ones. -/
def State.checkColumns (s : State) : List Loc → List Loc × State
  | [] => ([], s)
  | l :: ls =>
    let (bad, s) := s.checkColumn l
    let (bs, s) := s.checkColumns ls
    (if bad then l :: bs else bs, s)

/-- The word that an untyped consumer takes for poisoned data (07 R130), 0x7FE0_0000, little-endian. -/
def poisonBytes : Nat → Byte
  | a => match a % 4 with
    | 2 => 0xE0#8
    | 3 => 0x7F#8
    | _ => 0#8

/-- Reads n bytes as a consumer without a type: poisoned columns read as the pattern. -/
def State.readRaw (s : State) (l : Loc) (n : Nat) : List Byte × List Loc × State :=
  let (bad, s) := s.checkColumns (columnsOf l n)
  let byte (j : Nat) : Byte :=
    let a := l.addr + j
    if bad.any (fun b => b.addr / 32 == a / 32) then poisonBytes a else Memory.get s.mem (l.add j).key
  ((List.range n).map byte, bad, s)

/-! ### Ranges of memory -/

/-- The list without the entries of a range: every byte of it reads as unlisted. -/
def Memory.clear (m : List Host.Cell) (a n : Nat) : List Host.Cell := m.filter (fun e => !(decide (a ≤ e.1) && decide (e.1 < a + n)))

/-- The n bytes from a copied to b. -/
def Memory.copy (m : List Host.Cell) (a b n : Nat) : List Host.Cell :=
  (m.filter (fun e => decide (a ≤ e.1) && decide (e.1 < a + n))).foldl (fun m e => Memory.set m (b + (e.1 - a)) e.2)
    (Memory.clear m b n)

/-- Stored bits that differ, cleared with their columns. -/
def clearFlips (m : Table (List Nat)) (a n : Nat) : Table (List Nat) :=
  m.filter (fun e => !(decide (a ≤ e.1) && decide (e.1 < a + n)))

/-- A range written with zeros and fresh check bits. -/
def State.wipe (s : State) (l : Loc) (n : Nat) : State :=
  { s with mem := Memory.clear s.mem l.key n, flips := clearFlips s.flips l.key n
           rewrites := s.rewrites.filter (fun k => !(decide (l.key ≤ k) && decide (k < l.key + n))) }

/-- The poison code: check bits 0 and 1 read inverted (17 R329). -/
def poisonCode : List Nat := [1, 2]

/-- The offsets of the columns of n bytes, a whole number of lines, whose reader finds poison. -/
def State.poisonedIn (s : State) (l : Loc) (n : Nat) : List Nat :=
  (s.flips.filter (fun e => decide (l.key ≤ e.1) && decide (e.1 < l.key + n))).flatMap (fun e =>
    let o := e.1 - l.key
    match l.space with
    | .hbm => [o / 64 * 64, o / 64 * 64 + 32]
    | _ => match judge e.2 with | .bad _ => [o] | _ => [])

/-- A page's bytes written at another frame or at a replica: each column is read with its check, and a poisoned one is written
with the poison code, so that it stays unreadable there (DESIGN CHOICE, log 61). -/
def State.carry (s : State) (a b : Loc) (n : Nat) : State :=
  { s with mem := Memory.copy s.mem a.key b.key n
           flips := (s.poisonedIn a n).foldl (fun t o => t.set (b.key + o) poisonCode) (clearFlips s.flips b.key n)
           rewrites := s.rewrites.filter (fun k => !(decide (b.key ≤ k) && decide (k < b.key + n))) }

/-- A column written with fresh check bits. -/
def State.freshColumn (s : State) (key : Nat) : State :=
  { s with flips := s.flips.filter (fun e => e.1 != key), rewrites := s.rewrites.filter (fun k => k != key) }

/-- Whole columns written with fresh check bits. -/
def State.writeFresh (s : State) (l : Loc) (bs : List Byte) : State :=
  { (s.poke l bs) with flips := clearFlips s.flips l.key bs.length
                       rewrites := s.rewrites.filter (fun k => !(decide (l.key ≤ k) && decide (k < l.key + bs.length))) }

/-- Monitors of the owning cell that watch a changed word fire, and wake their owners with 0 in D (08 R153). -/
def Monitor.hit (m : Monitor) (l : Loc) (n : Nat) : Bool :=
  decide (m.loc.space = l.space) && decide (m.loc.unit = l.unit) && decide (m.loc.addr < l.addr + n)
    && decide (l.addr < m.loc.addr + 8)

end Sys2Proof.Machine
end

