-- ==== Sys2Proof/Machine/Shake.lean ====
section
/-! DEFINITION. SHAKE256 (18 R351) with an output of 256 bits, as FIPS 202 defines it (PRESUMED: the spec names the function only, log
48). -/

namespace Sys2Proof.Machine

open Sys2Proof

/-- The 25 lanes of Keccak-f[1600]: lane (x, y) is number x + 5 y. -/
abbrev Lanes := List Word

def keccakLane (a : Lanes) (x y : Nat) : Word := a.getD (x % 5 + 5 * (y % 5)) 0#64

/-- Lanes by their coordinates. -/
def keccakLanes (f : Nat → Nat → Word) : Lanes := (List.range 25).map (fun n => f (n % 5) (n / 5))

/-- The column parities of θ. -/
def parity (a : Lanes) (x : Nat) : Word := (List.range 5).foldl (fun w y => w ^^^ keccakLane a x y) 0#64

def thetaStep (a : Lanes) : Lanes :=
  let p := (List.range 5).map (parity a)
  let d := (List.range 5).map (fun x => p.getD ((x + 4) % 5) 0#64 ^^^ (p.getD ((x + 1) % 5) 0#64).rotateLeft 1)
  keccakLanes (fun x y => keccakLane a x y ^^^ d.getD x 0#64)

/-- The offsets of ρ, by lane number. -/
def rhoOffsets : List Nat := [0, 1, 62, 28, 27, 36, 44, 6, 55, 20, 3, 10, 43, 25, 39, 41, 45, 15, 21, 8, 18, 2, 61, 56, 14]

/-- ρ and π: lane (x, y) comes from (x + 3 y, x), turned by the offset of that. -/
def rhoPiStep (a : Lanes) : Lanes :=
  keccakLanes (fun x y => (keccakLane a (x + 3 * y) x).rotateLeft (rhoOffsets.getD ((x + 3 * y) % 5 + 5 * x) 0))

def chiStep (a : Lanes) : Lanes := keccakLanes (fun x y => keccakLane a x y ^^^ (~~~keccakLane a (x + 1) y &&& keccakLane a (x + 2) y))

/-- The register of ι after t steps: eight bits, shifted up and reduced by x⁸ + x⁶ + x⁵ + x⁴ + 1. -/
def iotaRegister (t : Nat) : Nat := Nat.repeat (fun r => if 128 ≤ r then (2 * r) ^^^ 0x171 else 2 * r) t 1

/-- The constant of round k: bit 2^j − 1 is the low bit of the register after j + 7 k steps. -/
def iotaConstant (k : Nat) : Word :=
  (List.range 7).foldl (fun w j => w ||| (BitVec.ofNat 64 (iotaRegister (j + 7 * k) % 2) <<< (2 ^ j - 1))) 0#64

def keccakRound (a : Lanes) (k : Nat) : Lanes :=
  let b := chiStep (rhoPiStep (thetaStep a))
  b.set 0 (b.getD 0 0#64 ^^^ iotaConstant k)

def keccakF (a : Lanes) : Lanes := (List.range 24).foldl keccakRound a

/-- A block of 136 bytes goes into the first 17 lanes. -/
def absorb (a : Lanes) (block : List Byte) : Lanes :=
  keccakF (a.zipIdx.map (fun (e : Word × Nat) => e.1 ^^^ leWord ((block.drop (8 * e.2)).take 8)))

/-- The message and its padding: 0x1F, zeros, and the top bit of the last byte of a block. -/
def shakePad (m : List Byte) : List Byte :=
  let k := 135 - m.length % 136
  if k = 0 then m ++ [0x9F#8] else m ++ [0x1F#8] ++ List.replicate (k - 1) 0#8 ++ [0x80#8]

/-- The first 256 bits of SHAKE256. -/
def shake256 (m : List Byte) : List Byte :=
  let p := shakePad m
  let a := (List.range (p.length / 136)).foldl (fun a k => absorb a ((p.drop (136 * k)).take 136)) (List.replicate 25 0#64)
  (((a.take 4).map (fun w => leBytes 8 w.toNat)).flatten)

/-- A measurement register extended with the digest of a component (18 R351). -/
def extendDigest (mr : BitVec 256) (digest : List Byte) : BitVec 256 :=
  BitVec.ofNat 256 (leNat (shake256 (leBytes 32 mr.toNat ++ digest)))

/-- A measurement register extended by a component (18 R351). -/
def extendMeasure (mr : BitVec 256) (component : List Byte) : BitVec 256 :=
  extendDigest mr (shake256 component)

end Sys2Proof.Machine
end

