-- ==== Sys2Proof/Machine/Float.lean ====
section
/-! DEFINITION. The number formats, rounding and flushing of the part (05 R82-R104): exact values, the five float formats,
the 4-bit codes, and arithmetic that is exact until it is rounded once. -/

namespace Sys2Proof.Machine

open Sys2Proof

/-! ### Exact values -/

/-- A value: NaN (poison or not), an infinity, or (-1)^neg m 2^e. With st the true magnitude lies strictly between m 2^e and
(m + 1) 2^e: quotients and roots carry it. -/
inductive FVal where
  | nan (poison : Bool)
  | inf (neg : Bool)
  | fin (neg : Bool) (m : Nat) (e : Int) (st : Bool)
  deriving DecidableEq, Repr

def FVal.zero (neg : Bool) : FVal := .fin neg 0 0 false
def FVal.isNan : FVal → Bool
  | .nan _ => true
  | _ => false
def FVal.isPoison : FVal → Bool
  | .nan p => p
  | _ => false
def FVal.ofNat (n : Nat) : FVal := .fin false n 0 false
def FVal.ofInt (n : Int) : FVal := .fin (decide (n < 0)) n.natAbs 0 false
def FVal.neg : FVal → FVal
  | .nan p => .nan p
  | .inf s => .inf (!s)
  | .fin s m e t => .fin (!s) m e t
def FVal.abs : FVal → FVal
  | .nan p => .nan p
  | .inf _ => .inf false
  | .fin _ m e t => .fin false m e t
def FVal.sign : FVal → Bool
  | .nan _ => false
  | .inf s => s
  | .fin s _ _ _ => s
def FVal.isZero : FVal → Bool
  | .fin _ m _ t => m == 0 && !t
  | _ => false
/-- The value times 2^k. -/
def FVal.scale (k : Int) : FVal → FVal
  | .fin s m e t => .fin s m (e + k) t
  | x => x

/-- The bits of a number: the least n with v < 2^n. -/
def bitLen (v : Nat) : Nat := if v = 0 then 0 else Nat.log2 v + 1

/-- The signed numerator of a finite value over 2^k, for k at most its exponent. -/
def signedAt (neg : Bool) (m : Nat) (e k : Int) : Int :=
  let v : Int := m * 2 ^ (e - k).toNat
  if neg then -v else v

/-- The exact sum. A zero sum of opposite signs is -0 in RDN and +0 otherwise (05 R91); NaN results keep poison (R84). -/
def FVal.add (rdn : Bool) (x y : FVal) : FVal :=
  match x, y with
  | .nan p, .nan q => .nan (p || q)
  | .nan p, _ => .nan p
  | _, .nan q => .nan q
  | .inf s, .inf t => if s = t then .inf s else .nan false
  | .inf s, _ => .inf s
  | _, .inf t => .inf t
  | .fin s m e _, .fin t n f _ =>
    if m = 0 ∧ n = 0 then .zero (if s = t then s else rdn)
    else
      let k := min e f
      let v := signedAt s m e k + signedAt t n f k
      if v = 0 then .zero rdn else .fin (decide (v < 0)) v.natAbs k false

/-- The exact product. -/
def FVal.mul (x y : FVal) : FVal :=
  match x, y with
  | .nan p, .nan q => .nan (p || q)
  | .nan p, _ => .nan p
  | _, .nan q => .nan q
  | .inf s, .inf t => .inf (s != t)
  | .inf s, .fin t n _ _ => if n = 0 then .nan false else .inf (s != t)
  | .fin s m _ _, .inf t => if m = 0 then .nan false else .inf (s != t)
  | .fin s m e _, .fin t n f _ => .fin (s != t) (m * n) (e + f) false

/-- The quotient, to 96 bits and a sticky bit. -/
def FVal.div (x y : FVal) : FVal :=
  match x, y with
  | .nan p, .nan q => .nan (p || q)
  | .nan p, _ => .nan p
  | _, .nan q => .nan q
  | .inf _, .inf _ => .nan false
  | .inf s, .fin t _ _ _ => .inf (s != t)
  | .fin s _ _ _, .inf t => .zero (s != t)
  | .fin s m e _, .fin t n f _ =>
    if n = 0 then (if m = 0 then .nan false else .inf (s != t))
    else
      let k := 96 + bitLen n
      .fin (s != t) (m * 2 ^ k / n) (e - f - k) (decide (m * 2 ^ k % n ≠ 0))

/-- The square root, to at least 96 bits and a sticky bit. -/
def FVal.sqrt (x : FVal) : FVal :=
  match x with
  | .nan p => .nan p
  | .inf s => if s then .nan false else .inf false
  | .fin s m e _ =>
    if m = 0 then .zero s
    else if s then .nan false
    else
      let e0 := if e % 2 = 0 then e else e - 1
      let m0 := if e % 2 = 0 then m else 2 * m
      let v := m0 * 2 ^ 192
      let r := Nat.sqrt v
      .fin false r (e0 / 2 - 96) (decide (r * r ≠ v))

/-- x < y, x = y for values that are no NaN; -0 and +0 compare equal. -/
def FVal.lt (x y : FVal) : Bool :=
  match x, y with
  | .nan _, _ => false
  | _, .nan _ => false
  | .inf s, .inf t => s && !t
  | .inf s, _ => s
  | _, .inf t => !t
  | .fin s m e _, .fin t n f _ => decide (signedAt s m e (min e f) < signedAt t n f (min e f))
def FVal.eq (x y : FVal) : Bool :=
  match x, y with
  | .nan _, _ => false
  | _, .nan _ => false
  | .inf s, .inf t => s == t
  | .inf _, _ => false
  | _, .inf _ => false
  | .fin s m e _, .fin t n f _ => decide (signedAt s m e (min e f) = signedAt t n f (min e f))

/-- The larger, +0 above -0; any NaN gives NaN under R84. -/
def FVal.max (x y : FVal) : FVal :=
  if x.isNan || y.isNan then .nan (x.isPoison || y.isPoison)
  else if x.lt y then y
  else if y.lt x then x
  else if x.sign then y else x
/-- The smaller, -0 below +0. -/
def FVal.min (x y : FVal) : FVal :=
  if x.isNan || y.isNan then .nan (x.isPoison || y.isPoison)
  else if x.lt y then x
  else if y.lt x then y
  else if x.sign then x else y

/-! ### Rounding (05 R91-R94) -/

/-- The chosen multiple of 2^q for the magnitude m 2^e (with st), in a mode and with the draw r. Mode 6, the model's own,
takes hi, as the scale search of R211 does in mode 5. -/
def roundMag (mode : Nat) (neg : Bool) (r : Nat) (m : Nat) (e : Int) (st : Bool) (q : Int) : Nat :=
  if q ≤ e then m * 2 ^ (e - q).toNat
  else
    let k := (q - e).toNat
    let lo := m / 2 ^ k
    let rem := m % 2 ^ k
    let half := 2 ^ (k - 1)
    if rem = 0 ∧ st = false then lo
    else match mode with
      | 1 => lo
      | 2 => if neg then lo + 1 else lo
      | 3 => if neg then lo else lo + 1
      | 4 => if half ≤ rem then lo + 1 else lo
      | 5 => if 65536 ≤ rem * 65536 / 2 ^ k + r then lo + 1 else lo
      | 6 => lo + 1
      | _ => if half < rem ∨ (rem = half ∧ (st = true ∨ lo % 2 = 1)) then lo + 1 else lo

/-- A float format: bits of fraction, bias, width, the largest finite value as m 2^e (05 R82). -/
structure FFmt where
  width : Nat
  frac : Nat
  bias : Nat
  maxM : Nat
  maxE : Int
  deriving DecidableEq, Repr

def fmtF32 : FFmt := ⟨32, 23, 127, 2 ^ 24 - 1, 104⟩
def fmtF16 : FFmt := ⟨16, 10, 15, 2 ^ 11 - 1, 5⟩
def fmtBf16 : FFmt := ⟨16, 7, 127, 2 ^ 8 - 1, 120⟩
def fmtE4m3 : FFmt := ⟨8, 3, 7, 14, 5⟩
def fmtE5m2 : FFmt := ⟨8, 2, 15, 7, 13⟩

/-- The exponent of a subnormal's unit, and of the smallest normal. -/
def FFmt.qMin (f : FFmt) : Int := 1 - (f.bias : Int) - f.frac
def FFmt.eMin (f : FFmt) : Int := 1 - (f.bias : Int)
def FFmt.expOnes (f : FFmt) : Nat := 2 ^ (f.width - 1 - f.frac) - 1
def FFmt.signBit (f : FFmt) (neg : Bool) : Nat := if neg then 2 ^ (f.width - 1) else 0
def FFmt.isE4m3 (f : FFmt) : Bool := f.width == 8 && f.frac == 3
/-- The format has a poison NaN (05 R83). -/
def FFmt.hasPoison (f : FFmt) : Bool := f.width != 8

/-- The canonical NaN, or the poison NaN (05 R83, R84). -/
def FFmt.nanBits (f : FFmt) (poison : Bool) : Nat :=
  if f.isE4m3 then 0x7F
  else
    let top := f.expOnes * 2 ^ f.frac + 2 ^ (f.frac - 1)
    if poison && f.hasPoison then top + 2 ^ (f.frac - 2) else top
def FFmt.infBits (f : FFmt) (neg : Bool) : Nat := f.signBit neg + f.expOnes * 2 ^ f.frac
/-- The bits of k 2^q, a value of the format. -/
def FFmt.pack (f : FFmt) (neg : Bool) (k : Nat) (q : Int) : Nat :=
  if k = 0 then f.signBit neg
  else
    let top := (bitLen k : Int) - 1 + q
    if top < f.eMin then f.signBit neg + k * 2 ^ (q - f.qMin).toNat
    else
      let d := (bitLen k : Int) - 1 - f.frac
      let sig := if 0 ≤ d then k / 2 ^ d.toNat else k * 2 ^ (-d).toNat
      f.signBit neg + (top + f.bias).toNat * 2 ^ f.frac + (sig - 2 ^ f.frac)
def FFmt.largest (f : FFmt) (neg : Bool) : Nat := f.pack neg f.maxM f.maxE

/-- A subnormal input is read as zero when its class's input flush is set (05 R98). -/
def FFmt.decode (f : FFmt) (flush : Bool) (bits : Nat) : FVal :=
  let neg := decide (bits / 2 ^ (f.width - 1) % 2 = 1)
  let ex := bits / 2 ^ f.frac % (f.expOnes + 1)
  let fr := bits % 2 ^ f.frac
  if f.isE4m3 && ex == 15 && fr == 7 then .nan false
  else if !f.isE4m3 && ex == f.expOnes then
    (if fr = 0 then .inf neg else .nan (f.hasPoison && bits % 2 ^ f.width == f.nanBits true))
  else if ex = 0 then (if flush then .zero neg else .fin neg fr f.qMin false)
  else .fin neg (2 ^ f.frac + fr) ((ex : Int) - f.bias - f.frac) false

/-- A magnitude above the largest finite value (05 R94). -/
def FFmt.overflows (f : FFmt) (k : Nat) (q : Int) : Bool :=
  let lowest := Min.min q f.maxE
  decide (f.maxM * 2 ^ (f.maxE - lowest).toNat < k * 2 ^ (q - lowest).toNat)

/-- What an overflowing result becomes (05 R94). -/
def FFmt.overflow (f : FFmt) (mode : Nat) (sat neg : Bool) : Nat :=
  if sat then f.largest neg
  else if f.isE4m3 then f.nanBits false
  else if f.width = 8 then f.infBits neg
  else match mode with
    | 1 => f.largest neg
    | 2 => if neg then f.infBits neg else f.largest neg
    | 3 => if neg then f.largest neg else f.infBits neg
    | _ => f.infBits neg

/-- Rounds a value into the format and flushes the result (05 R91, R94, R98). -/
def FFmt.encode (f : FFmt) (mode : Nat) (flush sat : Bool) (r : Nat) (x : FVal) : Nat :=
  match x with
  | .nan p => f.nanBits p
  | .inf neg => if sat && f.width == 8 then f.largest neg else if f.isE4m3 then f.nanBits false else f.infBits neg
  | .fin neg m e st =>
    if m = 0 ∧ st = false then f.signBit neg
    else
      let free : Int := (bitLen m : Int) + e - (f.frac + 1)
      let kf := roundMag mode neg r m e st free
      if flush && decide (kf ≠ 0) && decide ((bitLen kf : Int) - 1 + free < f.eMin) then f.signBit neg
      else
        let q := Max.max free f.qMin
        let k := roundMag mode neg r m e st q
        if f.overflows k q then f.overflow mode sat neg else f.pack neg k q

/-! ### The mode registers (05 R92, R97-R100) -/

/-- One step of xorshift32, and the draw (05 R92). -/
def xorshift (x : BitVec 32) : BitVec 32 :=
  let x := if x = 0#32 then 1#32 else x
  let x := x ^^^ (x <<< 13)
  let x := x ^^^ (x >>> 17)
  x ^^^ (x <<< 5)
def drawOf (seed : BitVec 32) : Nat := (seed.extractLsb' 16 16).toNat

/-- n draws in mode 5: the values and the SEED after them; other modes draw nothing. -/
def draws (mode : Nat) : Nat → BitVec 32 → List Nat × BitVec 32
  | 0, x => ([], x)
  | n + 1, x =>
    if mode = 5 then
      let y := xorshift x
      let (l, z) := draws mode n y
      (drawOf y :: l, z)
    else
      let (l, z) := draws mode n x
      (0 :: l, z)

/-- The class bits of FMODE: the 32-, 16- and 8-bit classes by the width of the format (05 R97). -/
def inFlush (fm : BitVec 8) (f : FFmt) : Bool :=
  if f.width = 32 then fm.getLsbD 0 else if f.width = 16 then fm.getLsbD 2 else fm.getLsbD 4
def outFlush (fm : BitVec 8) (f : FFmt) : Bool :=
  if f.width = 32 then fm.getLsbD 1 else if f.width = 16 then fm.getLsbD 3 else fm.getLsbD 5

def FFmt.rd (f : FFmt) (fm : BitVec 8) (bits : Nat) : FVal := f.decode (inFlush fm f) bits
def FFmt.wr (f : FFmt) (mode : Nat) (fm : BitVec 8) (r : Nat) (x : FVal) : Nat := f.encode mode (outFlush fm f) false r x

/-- f32 arithmetic that rounds to nearest even, as bank units, walkers and arrays do (05 R93). -/
def f32Of (fm : BitVec 8) (b : BitVec 32) : FVal := fmtF32.rd fm b.toNat
def f32Rne (fm : BitVec 8) (x : FVal) : BitVec 32 := BitVec.ofNat 32 (fmtF32.wr 0 fm 0 x)

/-! ### Integers (05 R95) -/

/-- A float value rounded to an integer and clamped to [lo, hi]; NaN gives 0. -/
def toInteger (mode : Nat) (r : Nat) (lo hi : Int) (x : FVal) : Int :=
  match x with
  | .nan _ => 0
  | .inf neg => if neg then lo else hi
  | .fin neg m e st =>
    let k : Int := roundMag mode neg r m e st 0
    let v := if neg then -k else k
    Max.max lo (Min.min hi v)

/-! ### 4-bit codes (05 R86-R88, R96) -/

/-- Magnitude i of a type (0 qi, 1 qf, 2 qp, 3 qh) in eighths, continued above the largest code as rounding takes it. -/
def mag4 (ty i : Nat) : Nat :=
  let qf := if i < 2 then 4 * i else (2 + i % 2) * 2 ^ (i / 2 - 1) * 4
  match ty with
  | 0 => 8 * i
  | 1 => qf
  | 2 => if i = 0 then 0 else 2 ^ (i - 1)
  | _ => 2 * qf

/-- The magnitude index of the largest code of a sign. -/
def top4 (ty : Nat) (neg : Bool) : Nat := if ty = 0 ∧ neg then 8 else 7

/-- The largest index, up to n, whose magnitude is at most |x| times 8. -/
def floor4 (ty m : Nat) (e : Int) : Nat → Nat
  | 0 => 0
  | n + 1 =>
    let le := if 0 ≤ e + 3 then mag4 ty (n + 1) ≤ m * 2 ^ (e + 3).toNat else mag4 ty (n + 1) * 2 ^ (-(e + 3)).toNat ≤ m
    if le then n + 1 else floor4 ty m e n

/-- A value v strictly between two magnitudes rounds to the larger one: odd says that the smaller one's last bit is 1 (05 R91). -/
def roundsUp (mode : Nat) (neg : Bool) (r lo hi v : Nat) (st odd : Bool) : Bool :=
  match mode with
  | 1 => false
  | 2 => neg
  | 3 => !neg
  | 4 => decide (hi + lo ≤ 2 * v)
  | 5 => decide (65536 ≤ (v - lo) * 65536 / (hi - lo) + r)
  | 6 => true
  | _ => decide (hi + lo < 2 * v) || (decide (2 * v = hi + lo) && (st || odd))

/-- The rounded magnitude index of |x| for a type, not yet saturated (05 R96 step 1). -/
def round4 (mode : Nat) (neg : Bool) (r ty m : Nat) (e : Int) (st : Bool) : Nat :=
  let i := floor4 ty m e 9
  if 9 ≤ i then 9
  else
    let d := Min.min e (-3)
    let lo := mag4 ty i * 2 ^ (-3 - d).toNat
    let hi := mag4 ty (i + 1) * 2 ^ (-3 - d).toNat
    let v := m * 2 ^ (e - d).toNat
    if v = lo ∧ st = false then i
    else if roundsUp mode neg r lo hi v st (i % 2 == 1) then i + 1 else i

/-- A qf value whose result RF4 flushes: rounded with no lower limit of the exponent, where 0.75 stands below 1, it is below 1
(05 R98; DEDUCED, log 58). -/
def flushes4 (mode : Nat) (neg : Bool) (r m : Nat) (e : Int) (st : Bool) : Bool :=
  let d := Min.min e (-3)
  let lo := 6 * 2 ^ (-3 - d).toNat
  let hi := 8 * 2 ^ (-3 - d).toNat
  let v := m * 2 ^ (e - d).toNat
  decide (v < hi) && (decide (v < lo) || (decide (v = lo) && !st) || !roundsUp mode neg r lo hi v st true)

def code4 (ty : Nat) (neg : Bool) (i : Nat) : Nat :=
  if i = 0 then 0 else if ty = 0 then (if neg then 16 - i else i) else (if neg then 8 + i else i)

/-- Encodes at the scale of byte sb: rounds, saturates, writes zero as 0b0000; NaN and a NaN block give 0 (05 R96). -/
def encode4 (mode : Nat) (fm : BitVec 8) (r : Nat) (sb : Nat) (x : FVal) : Nat :=
  let ty := sb / 64
  if sb % 64 = 63 then 0
  else match x.scale (32 - (sb % 64 : Nat)) with
    | .nan _ => 0
    | .inf neg => code4 ty neg (top4 ty neg)
    | .fin neg m e st =>
      let i := Min.min (round4 mode neg r ty m e st) (top4 ty neg)
      if ty = 1 ∧ fm.getLsbD 7 ∧ flushes4 mode neg r m e st then 0 else code4 ty neg i

/-- The value of a 4-bit code under a scale byte (05 R87). -/
def decode4 (fm : BitVec 8) (sb c : Nat) : FVal :=
  let ty := sb / 64
  if sb % 64 = 63 then .nan false
  else
    let k : Int := (sb % 64 : Nat) - 32
    if ty = 0 then
      let v : Int := if c < 8 then c else (c : Int) - 16
      (FVal.ofInt v).scale k
    else
      let i := c % 8
      let neg := decide (8 ≤ c)
      if ty = 1 ∧ i = 1 ∧ fm.getLsbD 6 then .zero neg
      else (FVal.fin neg (mag4 ty i) (-3) false).scale k

/-! ### Elements by format code (12 R216; 07 R132): 0 f32, 1 f16, 2 bf16, 3 e4m3, 4 e5m2, 5 i8, 6 n8, 7 q4, 8 i32 -/

def elemBits (fmt : Nat) : Nat :=
  match fmt with
  | 0 => 32 | 1 => 16 | 2 => 16 | 3 => 8 | 4 => 8 | 5 => 8 | 6 => 8 | 7 => 4 | _ => 32

def toSigned (w v : Nat) : Int := if v % 2 ^ w < 2 ^ (w - 1) then (v % 2 ^ w : Nat) else (v % 2 ^ w : Nat) - 2 ^ w

/-- Decodes an element; sb is its scale byte when the handle has a scale plane (05 R87, R89). -/
def decodeElem (fm : BitVec 8) (fmt : Nat) (sb : Option Nat) (bits : Nat) : FVal :=
  let scaled (x : FVal) : FVal :=
    match sb with
    | none => x
    | some b => if b / 64 ≠ 0 ∨ b % 64 = 63 then .nan false else x.scale ((b % 64 : Nat) - 32)
  match fmt with
  | 0 => fmtF32.rd fm bits
  | 1 => fmtF16.rd fm bits
  | 2 => fmtBf16.rd fm bits
  | 3 => scaled (fmtE4m3.rd fm bits)
  | 4 => scaled (fmtE5m2.rd fm bits)
  | 5 => FVal.ofInt (toSigned 8 bits)
  | 6 => FVal.ofNat (bits % 256)
  | 7 => decode4 fm (sb.getD 32) bits
  | _ => FVal.ofInt (toSigned 32 bits)

/-- Encodes an element into a format, saturating as STF and CPYC do (10 R183); a NaN-marked block takes zero codes. -/
def encodeElem (mode : Nat) (fm : BitVec 8) (r : Nat) (fmt : Nat) (sb : Option Nat) (x : FVal) : Nat :=
  let scaled (f : FFmt) : Nat :=
    match sb with
    | none => f.encode mode (outFlush fm f) true r x
    | some b =>
      if b / 64 ≠ 0 ∨ b % 64 = 63 then 0 else f.encode mode (outFlush fm f) true r (x.scale (32 - (b % 64 : Nat)))
  let wrap (w : Nat) (v : Int) : Nat := (v % 2 ^ w).toNat
  match fmt with
  | 0 => fmtF32.wr mode fm r x
  | 1 => fmtF16.wr mode fm r x
  | 2 => fmtBf16.wr mode fm r x
  | 3 => scaled fmtE4m3
  | 4 => scaled fmtE5m2
  | 5 => wrap 8 (toInteger mode r (-128) 127 x)
  | 6 => wrap 8 (toInteger mode r 0 255 x)
  | 7 => encode4 mode fm r (sb.getD 32) x
  | _ => wrap 32 (toInteger mode r (-2147483648) 2147483647 x)

/-! ### Powers of two (11 R203) -/

/-- ln 2 in units of 2^-320. -/
def ln2Fixed : Nat :=
  ((List.range 330).foldl (fun (acc : Nat × Nat) k => (acc.1 + acc.2 / (k + 1), acc.2 / 2)) (0, 2 ^ 351)).1 / 2 ^ 32

/-- The exponential series of y / 2^320, n terms, in units of 2^-320. -/
def expSeries (y : Nat) : Nat → Nat → Nat → Nat
  | 0, _, acc => acc
  | n + 1, term, acc => expSeries y n (term * y / 2 ^ 320 / (60 - n)) (acc + term)

/-- 2^x. Outside the integers it is irrational, so the sticky bit is set; the fraction is known to within 2^-300 (log 16).
Exponents beyond 2,000 act alike in every format. -/
def FVal.exp2 (x : FVal) : FVal :=
  match x with
  | .nan p => .nan p
  | .inf s => if s then .zero false else .inf false
  | .fin s m e _ =>
    let k := (-e).toNat
    let mag : Nat := if 0 ≤ e then m * 2 ^ (Min.min e.toNat 40) else m
    let v : Int := if s then -(mag : Int) else mag
    let n : Int := if 0 ≤ e then v else v / 2 ^ k
    let f : Nat := if 0 ≤ e then 0 else (v % 2 ^ k).toNat
    let n := Max.max (-2000) (Min.min 2000 n)
    if f = 0 then .fin false 1 n false
    else .fin false (expSeries (f * ln2Fixed / 2 ^ k) 60 (2 ^ 320) 0) (n - 320) true

end Sys2Proof.Machine
end

