-- ==== Sys2Proof/Machine/Flags.lean ====
section
/-! DEFINITION. What compares write: the 0 or 1 of the scalar compares, and the predicate masks of the vector compares
(06 R112). The part has no flags register (05 R101). -/

namespace Sys2Proof.Machine

open Sys2Proof

/-- The mask with bit j for each lane j whose test holds; bits above the lanes are zero (06 R112). -/
def maskOf : List Bool → Nat
  | [] => 0
  | b :: bs => (if b then 1 else 0) + 2 * maskOf bs

def predicate (tests : List Bool) : BitVec 32 := BitVec.ofNat 32 (maskOf tests)

/-- x ≤ y of values that are no NaN (05 R91: zeros of both signs are equal). -/
def FVal.le (x y : FVal) : Bool := x.lt y || x.eq y

end Sys2Proof.Machine
end

