-- ==== Sys2Proof/Config.lean ====
section
/-! DEFINITION. The free values of the model (logs 1, 6, 9, 21, 22): which agent moves next, what firmware that the spec does
not give chooses, and the values of ciphers and measurements. Nothing constrains them. -/

namespace Sys2Proof.Config

open Sys2Proof.Machine

/-- The agent that moves at step t: a free value (log 1). The spec fixes only what each agent may do and when. -/
opaque schedule : Nat → Turn

/-- The entries that fill a lockstep pair's undo log (02 R48, log 9). -/
opaque undoLog : Nat

/-- The trap entry of the supervisor runtime, or of its test build (08 R157, 23 R367). -/
opaque runtimeEntry : Bool → Word

/-- The bytes that the column core allocates to the save image of a team of a grid (17 R322). -/
opaque saveBytes : Nat → Nat → Nat

/-- A launch argument that dispatch cannot read: of the address of it. The spec names no fault (log 23). -/
opaque unreadArg : Word → Word

/-- Byte j of a report: the spec gives what a report carries and not its layout (18 R335). -/
opaque reportByte : Report → Nat → Byte

/-- Where the reports of the physical function stand in host memory: the spec names no area for them (18 R335). -/
opaque physicalReports : Nat

/-- The part's identity key and Velwiso's signature over it, written at manufacture: public key and signature bytes (18 R338,
R352). -/
opaque identityByte : Nat → Byte
opaque velwisoByte : Nat → Byte

/-- The public key of the attestation key of a serial (18 R338, R352). -/
opaque attestKeyByte : Nat → Nat → Byte

/-- A signature by the identity key, and by the attestation key of a serial: of the index used and the bytes signed (18 R352). -/
opaque identitySign : Nat → List Byte → Nat → Byte
opaque attestSign : Nat → Nat → List Byte → Nat → Byte

/-- A measurement register at a start: what the boot has measured into it (18 R351). -/
opaque measured : Nat → BitVec 256

/-- An element of another module's contribution to a reduction: the group, the contributor, the reduction's number and the
element's (18 R344). -/
opaque contributed : Nat → Nat → Nat → Nat → BitVec 32

/-- The RSEND packets that wait on the path between two cells, beyond the one at the sender's port (13 R243). -/
opaque pathBuffers : Nat → Nat → Nat

/-- How far the damask walker is at a step when a save stops it: 0 for the descend or check phase of an append, and the entries
that a walk still writes (13 R255, R259). -/
opaque walkPhase : Nat → Nat

/-- EVAL of the POISON of a rank table column, for which the spec states no address: cell and column (08 R152). -/
opaque rankEval : Nat → Nat → Word

/-- The output of a router that has no free buffer for an adaptive packet at a step: column, stop and output (01 R29). -/
opaque outputFull : Nat → Nat → Nat → Nat → Bool

end Sys2Proof.Config
end

