-- ==== Sys2Proof/WellFormed.lean ====
section
/-! DEFINITION. Which operands an instruction may carry: what R68-R80 and the instruction chapters refuse of them. An
event has no operand that a word could carry, so every event is well formed. -/

namespace Sys2Proof

/-- ci and si are read-only: naming one as a destination raises ILL (04 R71). -/
def SReg.writable : SReg → Bool
  | .ci | .si => false
  | _ => true

/-- a0-a7, l0-l7 or n0-n7: the registers that may be a token (06 R113). -/
def SReg.isWindow : SReg → Bool
  | .a _ | .l _ | .n _ => true
  | _ => false

/-- The domains STEALD takes (04 R78). -/
def Scope.isStealDomain : Scope → Bool
  | .cell | .tile | .group | .sgrp => true
  | _ => false

/-- The types of VBCAST and the reductions: codes 0 to 10 (04 R76). -/
def ElemTy.inVmisc : ElemTy → Bool
  | .e4m3 | .e5m2 => false
  | _ => true

/-- e4m3 or e5m2: the destinations that take SAT (04 R76). -/
def ElemTy.isF8 : ElemTy → Bool
  | .e4m3 | .e5m2 => true
  | _ => false

/-- CLSMASK, CYCLE, INSTRET, HEATST and LICST are read-only (06 R115). -/
def csrReadOnly (n : Fin 30) : Bool :=
  n == 11 || n == 20 || n == 21 || n == 22 || n == 23

/-- An element count of VBLK, 1 to 256 (11 R210). -/
def blkCountOk (n : BitVec 9) : Bool := decide (1 ≤ n.toNat ∧ n.toNat ≤ 256)

/-- The operands are ones that a legal word can carry. -/
def Instr.wf : Instr → Bool
  | .add _ d _ _ _ => d.writable
  | .sub _ d _ _ _ => d.writable
  | .mul _ d _ _ _ => d.writable
  | .mulh d _ _ _ => d.writable
  | .mulhn d _ _ _ => d.writable
  | .div _ d _ _ _ => d.writable
  | .divu _ d _ _ _ => d.writable
  | .rem _ d _ _ _ => d.writable
  | .remu _ d _ _ _ => d.writable
  | .and d _ _ _ => d.writable
  | .or d _ _ _ => d.writable
  | .xor d _ _ _ => d.writable
  | .andn d _ _ _ => d.writable
  | .orn d _ _ _ => d.writable
  | .shl _ d _ _ _ => d.writable
  | .shr _ d _ _ _ => d.writable
  | .sar _ d _ _ _ => d.writable
  | .rol _ d _ _ _ => d.writable
  | .min d _ _ _ => d.writable
  | .max d _ _ _ => d.writable
  | .minu d _ _ _ => d.writable
  | .maxu d _ _ _ => d.writable
  | .seq d _ _ _ => d.writable
  | .sne d _ _ _ => d.writable
  | .slt d _ _ _ => d.writable
  | .sltu d _ _ _ => d.writable
  | .sle d _ _ _ => d.writable
  | .sleu d _ _ _ => d.writable
  | .sel d _ _ _ => d.writable
  | .clz d _ _ => d.writable
  | .ctz d _ _ => d.writable
  | .popc d _ _ => d.writable
  | .brev d _ _ => d.writable
  | .bswap d _ _ => d.writable
  | .sexb d _ _ => d.writable
  | .sexh d _ _ => d.writable
  | .sexw d _ _ => d.writable
  | .zexb d _ _ => d.writable
  | .zexh d _ _ => d.writable
  | .zexw d _ _ => d.writable
  | .mov d _ _ => d.writable
  | .addi d _ _ _ => d.writable
  | .andi d _ _ _ => d.writable
  | .ori d _ _ _ => d.writable
  | .xori d _ _ _ => d.writable
  | .shli d _ _ _ => d.writable
  | .shri d _ _ _ => d.writable
  | .sari d _ _ _ => d.writable
  | .slti d _ _ _ => d.writable
  | .sltiu d _ _ _ => d.writable
  | .muli d _ _ _ => d.writable
  | .li d _ _ => d.writable
  | .bfx d _ p wm1 _ => d.writable && decide (p.toNat + wm1.toNat + 1 ≤ 64)
  | .bfi d _ p wm1 _ => d.writable && decide (p.toNat + wm1.toNat + 1 ≤ 64)
  | .lea0 d _ _ _ => d.writable
  | .lea1 d _ _ _ => d.writable
  | .lea2 d _ _ _ => d.writable
  | .lea3 d _ _ _ => d.writable
  | .mkca d _ _ _ => d.writable
  | .mkha d _ _ _ => d.writable
  | .acls d _ _ => d.writable
  | .acol d _ _ => d.writable
  | .acell d _ _ => d.writable
  | .twinof d _ _ => d.writable
  | .bz _ _ _ => true
  | .bnz _ _ _ => true
  | .bltz _ _ _ => true
  | .bgez _ _ _ => true
  | .loop a _ _ => a.writable
  | .jmp _ _ => true
  | .jmpr _ _ => true
  | .call _ _ => true
  | .callr _ _ => true
  | .ret _ => true
  | .ldb d _ _ _ => d.writable
  | .ldbn d _ _ _ => d.writable
  | .ldh d _ _ _ => d.writable
  | .ldhn d _ _ _ => d.writable
  | .ldw d _ _ _ => d.writable
  | .ldwn d _ _ _ => d.writable
  | .ldd d _ _ _ => d.writable
  | .stb _ _ _ _ => true
  | .sth _ _ _ _ => true
  | .stw _ _ _ _ => true
  | .std _ _ _ _ => true
  | .ldv _ _ _ _ => true
  | .stv _ _ _ _ => true
  | .ldf d _ _ _ => decide (d.val < 8)
  | .stf d _ _ _ => decide (d.val < 8)
  | .ldx d _ _ _ => d.writable
  | .stx _ _ _ _ => true
  | .pref _ _ _ => true
  | .hint _ _ _ => true
  | .cpy d _ _ _ _ => d.isWindow
  | .cpys d _ _ _ _ _ _ _ => d.isWindow
  | .gath d _ _ _ _ _ => d.isWindow
  | .scat d _ _ _ _ _ => d.isWindow
  | .cpyc d _ _ _ _ => d.isWindow
  | .aadd _ d _ _ _ => d.writable
  | .amin _ d _ _ _ => d.writable
  | .amax _ d _ _ _ => d.writable
  | .aminu _ d _ _ _ => d.writable
  | .amaxu _ d _ _ _ => d.writable
  | .aand _ d _ _ _ => d.writable
  | .aor _ d _ _ _ => d.writable
  | .axor _ d _ _ _ => d.writable
  | .axchg _ d _ _ _ => d.writable
  | .acas _ d _ _ _ => d.writable
  | .afadd32 d _ _ _ => d.writable
  | .afadd16 d _ _ _ => d.writable
  | .afmax32 d _ _ _ => d.writable
  | .fship _ nr d _ _ _ => nr || d.writable
  | .ndot _ d _ _ _ _ => d.writable
  | .nsum _ d _ _ _ => d.writable
  | .nmax _ d _ _ _ => d.writable
  | .rel _ _ => true
  | .acq _ _ => true
  | .fence _ _ => true
  | .tsmr _ d _ _ => d.writable
  | .barinit _ _ _ _ => true
  | .bararr _ _ => true
  | .barwait _ _ => true
  | .bartest d _ _ => d.writable
  | .waita d _ _ _ => d.writable
  | .waitt d _ _ => d.writable
  | .yield _ => true
  | .sleep _ _ => true
  | .vfpVadd _ _ _ _ _ => true
  | .vfpVsub _ _ _ _ _ => true
  | .vfpVmul _ _ _ _ _ => true
  | .vfma _ _ _ _ _ => true
  | .vfpVmin _ _ _ _ _ => true
  | .vfpVmax _ _ _ _ _ => true
  | .vabs _ _ _ _ => true
  | .vneg _ _ _ _ => true
  | .vdiv _ _ _ _ _ => true
  | .vsqrt _ _ _ _ => true
  | .vexp2 _ _ _ _ => true
  | .vfpVcmpeq _ _ _ _ _ => true
  | .vfpVcmplt _ _ _ _ _ => true
  | .vcmple _ _ _ _ _ => true
  | .vintVadd _ _ _ _ _ => true
  | .vintVsub _ _ _ _ _ => true
  | .vintVmul _ _ _ _ _ => true
  | .vintVmin _ _ _ _ _ => true
  | .vintVmax _ _ _ _ _ => true
  | .vminn _ _ _ _ _ => true
  | .vmaxn _ _ _ _ _ => true
  | .vand _ _ _ _ _ => true
  | .vor _ _ _ _ _ => true
  | .vxor _ _ _ _ _ => true
  | .vshl _ _ _ _ _ => true
  | .vshr _ _ _ _ _ => true
  | .vsar _ _ _ _ _ => true
  | .vintVcmpeq _ _ _ _ _ => true
  | .vintVcmplt _ _ _ _ _ => true
  | .vcmpltn _ _ _ _ _ => true
  | .vbcast t _ _ _ => t.inVmisc
  | .vmovs d _ _ _ => d.writable
  | .vins _ _ _ _ => true
  | .vshuf _ _ _ _ => true
  | .vsel _ _ _ _ _ => true
  | .vredadd t d _ _ => t.inVmisc && d.writable
  | .vredmax t d _ _ => t.inVmisc && d.writable
  | .vredmin t d _ _ => t.inVmisc && d.writable
  | .kand _ _ _ _ => true
  | .kor _ _ _ _ => true
  | .kxor _ _ _ _ => true
  | .knot _ _ _ => true
  | .kmov (.sk d _) _ => d.writable
  | .kmov (.kk _ _) _ => true
  | .kmov (.ks _ _) _ => true
  | .vzero _ _ => true
  | .vmov _ _ _ => true
  | .vcvt dt st sat _ _ _ => dt != st && (!sat || dt.isF8)
  | .vqblk d _ _ _ _ n _ => d.writable && blkCountOk n
  | .vdqblk _ _ _ _ _ n _ => blkCountOk n
  | .vscl _ _ _ _ _ => true
  | .hire _ z l _ _ d _ _ => !(z && l) && d.writable
  | .mma _ _ _ _ _ _ _ _ _ _ => true
  | .waitb d _ _ => d.writable
  | .accget d _ _ => d.writable
  | .accput _ _ _ => true
  | .accz _ _ _ => true
  | .accld _ _ _ => true
  | .accst _ _ _ => true
  | .hstat d _ _ => d.writable
  | .hcancel _ _ => true
  | .accstm _ _ _ _ _ _ _ => true
  | .licreq _ => true
  | .licrel _ => true
  | .licst d _ => d.writable
  | .twsig _ _ => true
  | .twwait d _ _ => d.writable
  | .rank d _ _ _ => d.writable
  | .rsend _ _ _ _ => true
  | .rwacc _ _ _ _ => true
  | .rval _ _ _ _ => true
  | .rtld _ _ _ => true
  | .rcnt d _ _ => d.writable
  | .rclr _ _ => true
  | .tnew d _ _ _ => d.writable
  | .tapp d _ _ _ => d.writable
  | .twalk d _ _ _ => d.writable
  | .topen _ _ _ => true
  | .tsum _ _ _ _ => true
  | .tstat d _ _ _ => d.writable
  | .tdrop d _ _ => d.writable
  | .put _ _ _ _ => true
  | .take d _ _ => d.writable
  | .peek d _ _ => d.writable
  | .takef d _ _ => d.writable
  | .pres d _ _ => d.writable
  | .send _ _ _ _ => true
  | .maskc _ _ => true
  | .unmaskc _ _ => true
  | .done _ => true
  | .clsr d _ _ => d.writable
  | .spawn _ _ _ => true
  | .join _ _ => true
  | .exit _ => true
  | .go _ _ => true
  | .steald sc _ => sc.isStealDomain
  | .launch d _ _ t _ => d.isWindow && t != 0#32
  | .trap _ _ => true
  | .eret _ => true
  | .csrr d _ _ => d.writable
  | .csrw n _ _ => !csrReadOnly n
  | .csrs n _ _ => !csrReadOnly n
  | .csrc n _ _ => !csrReadOnly n
  | .bkpt _ => true
  | .chkpt _ => true
  | .spill _ => true
  | .fill _ => true
  | .htcinv _ _ => true
  | .rdcyc d _ => d.writable
  | .ctxsv _ _ _ => true
  | .windowMove _ _ => true
  | .copyCompletion _ _ => true
  | .copyFault _ _ => true
  | .atomicExecute _ => true
  | .fshipExecute _ => true
  | .nearBankCompletion _ _ => true
  | .releaseComplete _ _ => true
  | .sliceAck _ => true
  | .barrierArrivalPerformed _ => true
  | .barwaitPoll _ _ => true
  | .waittExpiry _ _ => true
  | .sleepExpiry _ _ => true
  | .monitorPoll _ _ => true
  | .joinPoll _ _ => true
  | .blockScaleCompletion _ _ => true
  | .operandReadReturn _ _ _ => true
  | .stepBoundary _ => true
  | .hireCompletion _ _ => true
  | .waitbReturn _ _ => true
  | .heatRefill => true
  | .capHot _ => true
  | .caphotClear _ => true
  | .licenceHoldExpiry _ => true
  | .licenceGrant _ => true
  | .rankNetworkGrant _ => true
  | .rankArrival _ => true
  | .rwaccPop _ _ => true
  | .walkerStart _ => true
  | .walkerCompletion _ => true
  | .putArrival _ => true
  | .messageArrival _ => true
  | .handlerEntry _ => true
  | .handlong _ => true
  | .handlerEnd _ => true
  | .strandEnd _ _ => true
  | .goDepart _ _ => true
  | .goArrival _ => true
  | .goAcceptNotice _ => true
  | .goBounceReturn _ => true
  | .goResendTimeout _ _ => true
  | .arrivalTakesSlot _ _ => true
  | .dequePop _ _ _ _ => true
  | .stealRequest _ _ => true
  | .stealRecordArrival _ _ _ => true
  | .deviceGridEntry _ _ => true
  | .lateTrapEntry _ _ => true
  | .loadDataReturn _ => true
  | .bankAccess _ => true
  | .correctedRewrite _ => true
  | .packetHop _ => true
  | .translationWalkComplete _ => true
  | .codeCacheFill _ => true
  | .pagerResolution _ _ _ _ => true
  | .pageMove _ _ => true
  | .pageMoveCommit _ _ _ _ _ => true
  | .pageEvict _ _ _ => true
  | .pageClearComplete _ _ => true
  | .handleEntryCommit _ _ _ _ _ => true
  | .replicaForward _ => true
  | .clrouteWrite _ _ => true
  | .slotBind _ _ _ => true
  | .bindTeam _ _ _ _ _ _ _ => true
  | .quantumBoundary _ _ _ => true
  | .idleTeamSwap _ _ => true
  | .bindingStallReport _ => true
  | .teamSaveRequest _ _ => true
  | .saveDrained _ _ => true
  | .saveCommit _ _ => true
  | .teamRestore _ _ => true
  | .tailPoll _ => true
  | .nopCommand _ => true
  | .launchCommand _ _ => true
  | .copyCommand _ => true
  | .hintCommand _ => true
  | .fenceCommand _ => true
  | .jumpCommand _ => true
  | .commandCompletion _ _ => true
  | .registerStream _ _ => true
  | .unregisterStream _ => true
  | .setWindow _ => true
  | .setQuantum _ => true
  | .attest _ => true
  | .loadMuslinRoutine _ => true
  | .endGrid _ => true
  | .resetPartition _ => true
  | .createHandle _ _ _ => true
  | .freeHandle _ => true
  | .setFillList _ _ => true
  | .registerGridImage _ => true
  | .retireGridImage _ => true
  | .readCounter _ => true
  | .powerState _ => true
  | .powerStateEffect => true
  | .setPartition _ => true
  | .restart _ => true
  | .functionLevelReset _ => true
  | .partReset => true
  | .start _ _ => true
  | .linkTraining _ _ => true
  | .jorlinkFlit _ => true
  | .peerVersionRefusal _ => true
  | .portRetire _ => true
  | .reductionComplete _ => true
  | .reductionFail _ => true
  | .goResendRequestArrival _ => true
  | .unknownRequestCode _ => true
  | .unknownCommandOp _ => true

/-- An event of the part: a row of the table without an encoding. -/
def Instr.isEvent : Instr → Bool
  | .add _ _ _ _ _ => false
  | .sub _ _ _ _ _ => false
  | .mul _ _ _ _ _ => false
  | .mulh _ _ _ _ => false
  | .mulhn _ _ _ _ => false
  | .div _ _ _ _ _ => false
  | .divu _ _ _ _ _ => false
  | .rem _ _ _ _ _ => false
  | .remu _ _ _ _ _ => false
  | .and _ _ _ _ => false
  | .or _ _ _ _ => false
  | .xor _ _ _ _ => false
  | .andn _ _ _ _ => false
  | .orn _ _ _ _ => false
  | .shl _ _ _ _ _ => false
  | .shr _ _ _ _ _ => false
  | .sar _ _ _ _ _ => false
  | .rol _ _ _ _ _ => false
  | .min _ _ _ _ => false
  | .max _ _ _ _ => false
  | .minu _ _ _ _ => false
  | .maxu _ _ _ _ => false
  | .seq _ _ _ _ => false
  | .sne _ _ _ _ => false
  | .slt _ _ _ _ => false
  | .sltu _ _ _ _ => false
  | .sle _ _ _ _ => false
  | .sleu _ _ _ _ => false
  | .sel _ _ _ _ => false
  | .clz _ _ _ => false
  | .ctz _ _ _ => false
  | .popc _ _ _ => false
  | .brev _ _ _ => false
  | .bswap _ _ _ => false
  | .sexb _ _ _ => false
  | .sexh _ _ _ => false
  | .sexw _ _ _ => false
  | .zexb _ _ _ => false
  | .zexh _ _ _ => false
  | .zexw _ _ _ => false
  | .mov _ _ _ => false
  | .addi _ _ _ _ => false
  | .andi _ _ _ _ => false
  | .ori _ _ _ _ => false
  | .xori _ _ _ _ => false
  | .shli _ _ _ _ => false
  | .shri _ _ _ _ => false
  | .sari _ _ _ _ => false
  | .slti _ _ _ _ => false
  | .sltiu _ _ _ _ => false
  | .muli _ _ _ _ => false
  | .li _ _ _ => false
  | .bfx _ _ _ _ _ => false
  | .bfi _ _ _ _ _ => false
  | .lea0 _ _ _ _ => false
  | .lea1 _ _ _ _ => false
  | .lea2 _ _ _ _ => false
  | .lea3 _ _ _ _ => false
  | .mkca _ _ _ _ => false
  | .mkha _ _ _ _ => false
  | .acls _ _ _ => false
  | .acol _ _ _ => false
  | .acell _ _ _ => false
  | .twinof _ _ _ => false
  | .bz _ _ _ => false
  | .bnz _ _ _ => false
  | .bltz _ _ _ => false
  | .bgez _ _ _ => false
  | .loop _ _ _ => false
  | .jmp _ _ => false
  | .jmpr _ _ => false
  | .call _ _ => false
  | .callr _ _ => false
  | .ret _ => false
  | .ldb _ _ _ _ => false
  | .ldbn _ _ _ _ => false
  | .ldh _ _ _ _ => false
  | .ldhn _ _ _ _ => false
  | .ldw _ _ _ _ => false
  | .ldwn _ _ _ _ => false
  | .ldd _ _ _ _ => false
  | .stb _ _ _ _ => false
  | .sth _ _ _ _ => false
  | .stw _ _ _ _ => false
  | .std _ _ _ _ => false
  | .ldv _ _ _ _ => false
  | .stv _ _ _ _ => false
  | .ldf _ _ _ _ => false
  | .stf _ _ _ _ => false
  | .ldx _ _ _ _ => false
  | .stx _ _ _ _ => false
  | .pref _ _ _ => false
  | .hint _ _ _ => false
  | .cpy _ _ _ _ _ => false
  | .cpys _ _ _ _ _ _ _ _ => false
  | .gath _ _ _ _ _ _ => false
  | .scat _ _ _ _ _ _ => false
  | .cpyc _ _ _ _ _ => false
  | .aadd _ _ _ _ _ => false
  | .amin _ _ _ _ _ => false
  | .amax _ _ _ _ _ => false
  | .aminu _ _ _ _ _ => false
  | .amaxu _ _ _ _ _ => false
  | .aand _ _ _ _ _ => false
  | .aor _ _ _ _ _ => false
  | .axor _ _ _ _ _ => false
  | .axchg _ _ _ _ _ => false
  | .acas _ _ _ _ _ => false
  | .afadd32 _ _ _ _ => false
  | .afadd16 _ _ _ _ => false
  | .afmax32 _ _ _ _ => false
  | .fship _ _ _ _ _ _ => false
  | .ndot _ _ _ _ _ _ => false
  | .nsum _ _ _ _ _ => false
  | .nmax _ _ _ _ _ => false
  | .rel _ _ => false
  | .acq _ _ => false
  | .fence _ _ => false
  | .tsmr _ _ _ _ => false
  | .barinit _ _ _ _ => false
  | .bararr _ _ => false
  | .barwait _ _ => false
  | .bartest _ _ _ => false
  | .waita _ _ _ _ => false
  | .waitt _ _ _ => false
  | .yield _ => false
  | .sleep _ _ => false
  | .vfpVadd _ _ _ _ _ => false
  | .vfpVsub _ _ _ _ _ => false
  | .vfpVmul _ _ _ _ _ => false
  | .vfma _ _ _ _ _ => false
  | .vfpVmin _ _ _ _ _ => false
  | .vfpVmax _ _ _ _ _ => false
  | .vabs _ _ _ _ => false
  | .vneg _ _ _ _ => false
  | .vdiv _ _ _ _ _ => false
  | .vsqrt _ _ _ _ => false
  | .vexp2 _ _ _ _ => false
  | .vfpVcmpeq _ _ _ _ _ => false
  | .vfpVcmplt _ _ _ _ _ => false
  | .vcmple _ _ _ _ _ => false
  | .vintVadd _ _ _ _ _ => false
  | .vintVsub _ _ _ _ _ => false
  | .vintVmul _ _ _ _ _ => false
  | .vintVmin _ _ _ _ _ => false
  | .vintVmax _ _ _ _ _ => false
  | .vminn _ _ _ _ _ => false
  | .vmaxn _ _ _ _ _ => false
  | .vand _ _ _ _ _ => false
  | .vor _ _ _ _ _ => false
  | .vxor _ _ _ _ _ => false
  | .vshl _ _ _ _ _ => false
  | .vshr _ _ _ _ _ => false
  | .vsar _ _ _ _ _ => false
  | .vintVcmpeq _ _ _ _ _ => false
  | .vintVcmplt _ _ _ _ _ => false
  | .vcmpltn _ _ _ _ _ => false
  | .vbcast _ _ _ _ => false
  | .vmovs _ _ _ _ => false
  | .vins _ _ _ _ => false
  | .vshuf _ _ _ _ => false
  | .vsel _ _ _ _ _ => false
  | .vredadd _ _ _ _ => false
  | .vredmax _ _ _ _ => false
  | .vredmin _ _ _ _ => false
  | .kand _ _ _ _ => false
  | .kor _ _ _ _ => false
  | .kxor _ _ _ _ => false
  | .knot _ _ _ => false
  | .kmov _ _ => false
  | .vzero _ _ => false
  | .vmov _ _ _ => false
  | .vcvt _ _ _ _ _ _ => false
  | .vqblk _ _ _ _ _ _ _ => false
  | .vdqblk _ _ _ _ _ _ _ => false
  | .vscl _ _ _ _ _ => false
  | .hire _ _ _ _ _ _ _ _ => false
  | .mma _ _ _ _ _ _ _ _ _ _ => false
  | .waitb _ _ _ => false
  | .accget _ _ _ => false
  | .accput _ _ _ => false
  | .accz _ _ _ => false
  | .accld _ _ _ => false
  | .accst _ _ _ => false
  | .hstat _ _ _ => false
  | .hcancel _ _ => false
  | .accstm _ _ _ _ _ _ _ => false
  | .licreq _ => false
  | .licrel _ => false
  | .licst _ _ => false
  | .twsig _ _ => false
  | .twwait _ _ _ => false
  | .rank _ _ _ _ => false
  | .rsend _ _ _ _ => false
  | .rwacc _ _ _ _ => false
  | .rval _ _ _ _ => false
  | .rtld _ _ _ => false
  | .rcnt _ _ _ => false
  | .rclr _ _ => false
  | .tnew _ _ _ _ => false
  | .tapp _ _ _ _ => false
  | .twalk _ _ _ _ => false
  | .topen _ _ _ => false
  | .tsum _ _ _ _ => false
  | .tstat _ _ _ _ => false
  | .tdrop _ _ _ => false
  | .put _ _ _ _ => false
  | .take _ _ _ => false
  | .peek _ _ _ => false
  | .takef _ _ _ => false
  | .pres _ _ _ => false
  | .send _ _ _ _ => false
  | .maskc _ _ => false
  | .unmaskc _ _ => false
  | .done _ => false
  | .clsr _ _ _ => false
  | .spawn _ _ _ => false
  | .join _ _ => false
  | .exit _ => false
  | .go _ _ => false
  | .steald _ _ => false
  | .launch _ _ _ _ _ => false
  | .trap _ _ => false
  | .eret _ => false
  | .csrr _ _ _ => false
  | .csrw _ _ _ => false
  | .csrs _ _ _ => false
  | .csrc _ _ _ => false
  | .bkpt _ => false
  | .chkpt _ => false
  | .spill _ => false
  | .fill _ => false
  | .htcinv _ _ => false
  | .rdcyc _ _ => false
  | .ctxsv _ _ _ => false
  | .windowMove _ _ => true
  | .copyCompletion _ _ => true
  | .copyFault _ _ => true
  | .atomicExecute _ => true
  | .fshipExecute _ => true
  | .nearBankCompletion _ _ => true
  | .releaseComplete _ _ => true
  | .sliceAck _ => true
  | .barrierArrivalPerformed _ => true
  | .barwaitPoll _ _ => true
  | .waittExpiry _ _ => true
  | .sleepExpiry _ _ => true
  | .monitorPoll _ _ => true
  | .joinPoll _ _ => true
  | .blockScaleCompletion _ _ => true
  | .operandReadReturn _ _ _ => true
  | .stepBoundary _ => true
  | .hireCompletion _ _ => true
  | .waitbReturn _ _ => true
  | .heatRefill => true
  | .capHot _ => true
  | .caphotClear _ => true
  | .licenceHoldExpiry _ => true
  | .licenceGrant _ => true
  | .rankNetworkGrant _ => true
  | .rankArrival _ => true
  | .rwaccPop _ _ => true
  | .walkerStart _ => true
  | .walkerCompletion _ => true
  | .putArrival _ => true
  | .messageArrival _ => true
  | .handlerEntry _ => true
  | .handlong _ => true
  | .handlerEnd _ => true
  | .strandEnd _ _ => true
  | .goDepart _ _ => true
  | .goArrival _ => true
  | .goAcceptNotice _ => true
  | .goBounceReturn _ => true
  | .goResendTimeout _ _ => true
  | .arrivalTakesSlot _ _ => true
  | .dequePop _ _ _ _ => true
  | .stealRequest _ _ => true
  | .stealRecordArrival _ _ _ => true
  | .deviceGridEntry _ _ => true
  | .lateTrapEntry _ _ => true
  | .loadDataReturn _ => true
  | .bankAccess _ => true
  | .correctedRewrite _ => true
  | .packetHop _ => true
  | .translationWalkComplete _ => true
  | .codeCacheFill _ => true
  | .pagerResolution _ _ _ _ => true
  | .pageMove _ _ => true
  | .pageMoveCommit _ _ _ _ _ => true
  | .pageEvict _ _ _ => true
  | .pageClearComplete _ _ => true
  | .handleEntryCommit _ _ _ _ _ => true
  | .replicaForward _ => true
  | .clrouteWrite _ _ => true
  | .slotBind _ _ _ => true
  | .bindTeam _ _ _ _ _ _ _ => true
  | .quantumBoundary _ _ _ => true
  | .idleTeamSwap _ _ => true
  | .bindingStallReport _ => true
  | .teamSaveRequest _ _ => true
  | .saveDrained _ _ => true
  | .saveCommit _ _ => true
  | .teamRestore _ _ => true
  | .tailPoll _ => true
  | .nopCommand _ => true
  | .launchCommand _ _ => true
  | .copyCommand _ => true
  | .hintCommand _ => true
  | .fenceCommand _ => true
  | .jumpCommand _ => true
  | .commandCompletion _ _ => true
  | .registerStream _ _ => true
  | .unregisterStream _ => true
  | .setWindow _ => true
  | .setQuantum _ => true
  | .attest _ => true
  | .loadMuslinRoutine _ => true
  | .endGrid _ => true
  | .resetPartition _ => true
  | .createHandle _ _ _ => true
  | .freeHandle _ => true
  | .setFillList _ _ => true
  | .registerGridImage _ => true
  | .retireGridImage _ => true
  | .readCounter _ => true
  | .powerState _ => true
  | .powerStateEffect => true
  | .setPartition _ => true
  | .restart _ => true
  | .functionLevelReset _ => true
  | .partReset => true
  | .start _ _ => true
  | .linkTraining _ _ => true
  | .jorlinkFlit _ => true
  | .peerVersionRefusal _ => true
  | .portRetire _ => true
  | .reductionComplete _ => true
  | .reductionFail _ => true
  | .goResendRequestArrival _ => true
  | .unknownRequestCode _ => true
  | .unknownCommandOp _ => true

end Sys2Proof
end

