-- ==== Sys2Proof/Decode.lean ====
section
/-! DEFINITION. The instruction words of the Penjor 16: the fields of a word, the decoder and the encoder
(spec/04 R64-R80; the operand tables of R185, R186, R193, R205, R210, R215, R227, R233, R239, R249, R261, R266, R270,
R276, R279). The decoder rejects by name every word that R80 calls illegal. -/

namespace Sys2Proof

/-- Why a word is no instruction (04 R80). Every reason raises ILL. -/
inductive Reject where
  /-- Fewer words than LEN asks for. -/
  | tooShort
  /-- A major opcode without a group. -/
  | reservedOpcode
  /-- A function, kind, operation or type value that the roster leaves unassigned. -/
  | noSuchMember
  /-- A LEN without the extension the member needs, or with one it does not have. -/
  | badLength
  /-- A literal that R69 does not permit. -/
  | badLiteral
  /-- A must-be-zero field or bit of E that is not zero. -/
  | mustBeZero
  /-- A register code of the wrong kind or out of range (R71). -/
  | badOperand
  /-- An immediate, count, format or type out of its range. -/
  | badImmediate
  deriving DecidableEq, Repr

abbrev Dec := Except Reject

/-- The fields of an instruction in the R layout (04 R65-R67): imm12 is f ++ b, disp17 is f ++ b ++ a and disp22 is
f ++ b ++ a ++ d. -/
structure Fields where
  op : BitVec 7
  f : BitVec 7
  b : BitVec 5
  a : BitVec 5
  d : BitVec 5
  sw : Bool
  e : Option Word
  l : Option Word
  deriving DecidableEq, Repr

/-- LEN (04 R66): bit 0 asks for E, bit 1 for L. -/
def Fields.len (x : Fields) : BitVec 2 :=
  BitVec.ofBool x.l.isSome ++ BitVec.ofBool x.e.isSome

def Fields.word0 (x : Fields) : IWord :=
  x.f ++ x.b ++ x.a ++ x.d ++ x.op ++ BitVec.ofBool x.sw ++ x.len

/-- A 64-bit value as two words, low word first. -/
def wordPair : Option Word → List IWord
  | none => []
  | some v => [v.extractLsb' 0 32, v.extractLsb' 32 32]

/-- The words of an instruction, word 0 first (04 R66). -/
def Fields.words (x : Fields) : List IWord :=
  x.word0 :: (wordPair x.e ++ wordPair x.l)

/-- How many words the LEN of word 0 asks for (04 R66). -/
def wordCount (w0 : IWord) : Nat :=
  1 + (if w0.getLsbD 0 then 2 else 0) + (if w0.getLsbD 1 then 2 else 0)

/-- Takes a 64-bit value off the words when it is asked for. -/
def takePair (want : Bool) (ws : List IWord) : Dec (Option Word × List IWord) :=
  match want, ws with
  | false, ws => .ok (none, ws)
  | true, lo :: hi :: ws => .ok (some (hi ++ lo), ws)
  | true, _ => .error .tooShort

def Fields.ofWord0 (w : IWord) (e l : Option Word) : Fields :=
  { op := w.extractLsb' 3 7, f := w.extractLsb' 25 7, b := w.extractLsb' 20 5, a := w.extractLsb' 15 5
    d := w.extractLsb' 10 5, sw := w.getLsbD 2, e := e, l := l }

/-- The fields of the first instruction of the words, and the words after it. -/
def Fields.ofWords : List IWord → Dec (Fields × List IWord)
  | [] => .error .tooShort
  | w :: ws => do
    let (e, ws) ← takePair (w.getLsbD 0) ws
    let (l, ws) ← takePair (w.getLsbD 1) ws
    .ok (Fields.ofWord0 w e l, ws)

/-! ### Codes of the operands -/

def SReg.code : SReg → BitVec 5
  | .a i => BitVec.ofNat 5 i.val
  | .l i => BitVec.ofNat 5 (8 + i.val)
  | .n i => BitVec.ofNat 5 (16 + i.val)
  | .zr => 24#5 | .sp => 25#5 | .ci => 26#5 | .si => 27#5
  | .y i => BitVec.ofNat 5 (28 + i.val)

def SReg.ofCode (c : BitVec 5) : SReg :=
  let i : Fin 8 := Fin.ofNat 8 (c.toNat % 8)
  match c.toNat / 8 with
  | 0 => .a i
  | 1 => .l i
  | 2 => .n i
  | _ => match c.toNat % 8 with
    | 0 => .zr | 1 => .sp | 2 => .ci | 3 => .si
    | j => .y (Fin.ofNat 4 (j - 4))

def Src.code : Src → BitVec 5
  | .reg r => r.code
  | .lit _ => 0#5
def Src.litOf : Src → Option Word
  | .reg _ => none
  | .lit v => some v
def Imm.code : Imm → BitVec 12
  | .imm v => v
  | .lit _ => 0#12
def Imm.litOf : Imm → Option Word
  | .imm _ => none
  | .lit v => some v

def vcode (r : VReg) : BitVec 5 := BitVec.ofNat 5 r.val
def kcode (r : KReg) : BitVec 5 := BitVec.ofNat 5 (16 + r.val)
def VorK.code : VorK → BitVec 5
  | .v r => vcode r
  | .k r => kcode r

def Scope.code : Scope → Nat
  | .self => 0 | .cell => 1 | .twin => 2 | .tile => 3 | .group => 4 | .sgrp => 5 | .col => 6 | .mod => 7 | .sys => 8
def Scope.ofCode : Nat → Option Scope
  | 0 => some .self | 1 => some .cell | 2 => some .twin | 3 => some .tile | 4 => some .group | 5 => some .sgrp
  | 6 => some .col | 7 => some .mod | 8 => some .sys | _ => none
def ElemTy.code : ElemTy → Nat
  | .i8 => 0 | .i16 => 1 | .i32 => 2 | .i64 => 3 | .n8 => 4 | .n16 => 5 | .n32 => 6 | .n64 => 7
  | .f32 => 8 | .f16 => 9 | .bf16 => 10 | .e4m3 => 11 | .e5m2 => 12
def ElemTy.ofCode : Nat → Option ElemTy
  | 0 => some .i8 | 1 => some .i16 | 2 => some .i32 | 3 => some .i64
  | 4 => some .n8 | 5 => some .n16 | 6 => some .n32 | 7 => some .n64
  | 8 => some .f32 | 9 => some .f16 | 10 => some .bf16 | 11 => some .e4m3 | 12 => some .e5m2 | _ => none
/-- The code of 04 R72 less 8. -/
def FTy.code : FTy → Nat
  | .f32 => 0 | .f16 => 1 | .bf16 => 2
def FTy.ofCode : Nat → Option FTy
  | 0 => some .f32 | 1 => some .f16 | 2 => some .bf16 | _ => none
def ITy.code : ITy → Nat
  | .i8 => 0 | .i16 => 1 | .i32 => 2 | .i64 => 3 | .n8 => 4 | .n16 => 5 | .n32 => 6 | .n64 => 7
def ITy.ofCode : Nat → Option ITy
  | 0 => some .i8 | 1 => some .i16 | 2 => some .i32 | 3 => some .i64
  | 4 => some .n8 | 5 => some .n16 | 6 => some .n32 | 7 => some .n64 | _ => none
def LaneW.code : LaneW → Nat
  | .b8 => 0 | .b16 => 1 | .b32 => 2 | .b64 => 3
def LaneW.ofCode : Nat → Option LaneW
  | 0 => some .b8 | 1 => some .b16 | 2 => some .b32 | 3 => some .b64 | _ => none
def BlkKind.code : BlkKind → Nat
  | .qi => 0 | .qf => 1 | .qp => 2 | .qh => 3 | .e4m3 => 4 | .e5m2 => 5
def BlkKind.ofCode : Nat → Option BlkKind
  | 0 => some .qi | 1 => some .qf | 2 => some .qp | 3 => some .qh | 4 => some .e4m3 | 5 => some .e5m2 | _ => none
def DqKind.code : DqKind → Nat
  | .q4 => 0 | .e4m3 => 4 | .e5m2 => 5
def DqKind.ofCode : Nat → Option DqKind
  | 0 => some .q4 | 4 => some .e4m3 | 5 => some .e5m2 | _ => none
def MmaPair.code : MmaPair → Nat
  | .f16 => 0 | .bf16 => 1 | .e4m3 => 2 | .e5m2 => 3 | .e4m3e5m2 => 4 | .e5m2e4m3 => 5 | .i8 => 6 | .q4 => 7
def MmaPair.ofCode : Nat → Option MmaPair
  | 0 => some .f16 | 1 => some .bf16 | 2 => some .e4m3 | 3 => some .e5m2 | 4 => some .e4m3e5m2 | 5 => some .e5m2e4m3
  | 6 => some .i8 | 7 => some .q4 | _ => none
def AccFmt.code : AccFmt → Nat
  | .f32 => 0 | .f16 => 1 | .bf16 => 2 | .i32 => 8
def AccFmt.ofCode : Nat → Option AccFmt
  | 0 => some .f32 | 1 => some .f16 | 2 => some .bf16 | 8 => some .i32 | _ => none

/-! ### Reading the fields -/

def need (c : Bool) (r : Reject) : Dec Unit :=
  if c then .ok () else .error r

def orReject {α : Type} (r : Reject) : Option α → Dec α
  | some v => .ok v
  | none => .error r

/-- A scalar destination: ci and si are read-only (04 R71). -/
def dst (c : BitVec 5) : Dec SReg :=
  let r := SReg.ofCode c
  if r.writable then .ok r else .error .badOperand

/-- A copy token: a0 to n7 (06 R113). -/
def tok (c : BitVec 5) : Dec SReg :=
  let r := SReg.ofCode c
  if r.isWindow then .ok r else .error .badOperand

def vreg (c : BitVec 5) : Dec VReg :=
  if h : c.toNat < 16 then .ok ⟨c.toNat, h⟩ else .error .badOperand
def kreg (c : BitVec 5) : Dec KReg :=
  if h : 16 ≤ c.toNat ∧ c.toNat < 20 then .ok ⟨c.toNat - 16, by omega⟩ else .error .badOperand
/-- An immediate below n in a 5-bit field; the bits above it must be zero. -/
def small (n : Nat) (c : BitVec 5) : Dec (Fin n) :=
  if h : c.toNat < n then .ok ⟨c.toNat, h⟩ else .error .mustBeZero
def zero5 (c : BitVec 5) : Dec Unit := need (c == 0#5) .mustBeZero

/-- No extension and no literal: LEN 00. -/
def plain (x : Fields) : Dec Unit := do
  need x.e.isNone .badLength
  need x.l.isNone .badLiteral
/-- No extension; a literal is the member's business. -/
def noExt (x : Fields) : Dec Unit := need x.e.isNone .badLength
/-- The extension of an X form. -/
def ext (x : Fields) : Dec Word := orReject .badLength x.e
/-- The B operand of a member whose B is a scalar source (04 R69). -/
def src (x : Fields) : Dec Src :=
  match x.l with
  | none => .ok (.reg (SReg.ofCode x.b))
  | some v => if x.b == 0#5 then .ok (.lit v) else .error .mustBeZero
def Fields.imm12 (x : Fields) : BitVec 12 := x.f ++ x.b
def Fields.disp17 (x : Fields) : BitVec 17 := x.f ++ x.b ++ x.a
def Fields.disp22 (x : Fields) : BitVec 22 := x.f ++ x.b ++ x.a ++ x.d
/-- The immediate of the I and M formats (04 R69). -/
def immOf (x : Fields) : Dec Imm :=
  match x.l with
  | none => .ok (.imm x.imm12)
  | some v => if x.imm12 == 0#12 then .ok (.lit v) else .error .mustBeZero

/-! ### One decoder per operand shape -/

def decDAB (x : Fields) (mk : SReg → SReg → Src → Bool → Instr) : Dec Instr := do
  noExt x; let d ← dst x.d; let b ← src x
  .ok (mk d (SReg.ofCode x.a) b x.sw)
/-- D is read, not written. -/
def decSAB (x : Fields) (mk : SReg → SReg → Src → Bool → Instr) : Dec Instr := do
  noExt x; let b ← src x
  .ok (mk (SReg.ofCode x.d) (SReg.ofCode x.a) b x.sw)
def decDA (x : Fields) (mk : SReg → SReg → Bool → Instr) : Dec Instr := do
  plain x; zero5 x.b; let d ← dst x.d
  .ok (mk d (SReg.ofCode x.a) x.sw)
def decSA (x : Fields) (mk : SReg → SReg → Bool → Instr) : Dec Instr := do
  plain x; zero5 x.b
  .ok (mk (SReg.ofCode x.d) (SReg.ofCode x.a) x.sw)
def decAB (x : Fields) (mk : SReg → Src → Bool → Instr) : Dec Instr := do
  noExt x; zero5 x.d; let b ← src x
  .ok (mk (SReg.ofCode x.a) b x.sw)
def decA (x : Fields) (mk : SReg → Bool → Instr) : Dec Instr := do
  plain x; zero5 x.b; zero5 x.d
  .ok (mk (SReg.ofCode x.a) x.sw)
def decD (x : Fields) (mk : SReg → Bool → Instr) : Dec Instr := do
  plain x; zero5 x.b; zero5 x.a; let d ← dst x.d
  .ok (mk d x.sw)
def decB (x : Fields) (mk : Src → Bool → Instr) : Dec Instr := do
  noExt x; zero5 x.a; zero5 x.d; let b ← src x
  .ok (mk b x.sw)
def dec0 (x : Fields) (mk : Bool → Instr) : Dec Instr := do
  plain x; zero5 x.b; zero5 x.a; zero5 x.d
  .ok (mk x.sw)
def decI (x : Fields) (mk : SReg → SReg → Imm → Bool → Instr) : Dec Instr := do
  noExt x; let d ← dst x.d; let i ← immOf x
  .ok (mk d (SReg.ofCode x.a) i x.sw)
/-- A store: D is read. -/
def decMS (x : Fields) (mk : SReg → SReg → Imm → Bool → Instr) : Dec Instr := do
  noExt x; let i ← immOf x
  .ok (mk (SReg.ofCode x.d) (SReg.ofCode x.a) i x.sw)
def decMV (x : Fields) (mk : VReg → SReg → Imm → Bool → Instr) : Dec Instr := do
  noExt x; let d ← vreg x.d; let i ← immOf x
  .ok (mk d (SReg.ofCode x.a) i x.sw)
/-- LDF and STF name v0 to v7 (10 R183). -/
def decMF (x : Fields) (mk : VReg → SReg → Imm → Bool → Instr) : Dec Instr := do
  noExt x; let d ← vreg x.d; need (decide (d.val < 8)) .badOperand; let i ← immOf x
  .ok (mk d (SReg.ofCode x.a) i x.sw)
def decSH (x : Fields) (mk : SReg → SReg → BitVec 6 → Bool → Instr) : Dec Instr := do
  plain x; need (x.imm12.extractLsb' 6 6 == 0#6) .badImmediate; let d ← dst x.d
  .ok (mk d (SReg.ofCode x.a) (x.imm12.extractLsb' 0 6) x.sw)
def decLI (x : Fields) (mk : SReg → Imm → Bool → Instr) : Dec Instr := do
  noExt x; zero5 x.a; let d ← dst x.d; let i ← immOf x
  .ok (mk d i x.sw)
/-- BFX and BFI: position and width minus one (04 R75). -/
def decBF (x : Fields) (mk : SReg → SReg → BitVec 6 → BitVec 6 → Bool → Instr) : Dec Instr := do
  plain x; let d ← dst x.d
  let p := x.imm12.extractLsb' 0 6
  let wm1 := x.imm12.extractLsb' 6 6
  need (decide (p.toNat + wm1.toNat + 1 ≤ 64)) .badImmediate
  .ok (mk d (SReg.ofCode x.a) p wm1 x.sw)
def decBR (x : Fields) (mk : SReg → BitVec 17 → Bool → Instr) : Dec Instr := do
  plain x
  .ok (mk (SReg.ofCode x.d) x.disp17 x.sw)
/-- LOOP writes its register. -/
def decLOOP (x : Fields) (mk : SReg → BitVec 17 → Bool → Instr) : Dec Instr := do
  plain x; let a ← dst x.d
  .ok (mk a x.disp17 x.sw)
def decJ (x : Fields) (mk : BitVec 22 → Bool → Instr) : Dec Instr := do
  plain x
  .ok (mk x.disp22 x.sw)
def decHINT (x : Fields) (mk : SReg → BitVec 36 → Bool → Instr) : Dec Instr := do
  let e ← ext x; need x.l.isNone .badLiteral; zero5 x.b; zero5 x.d
  need (e.extractLsb' 36 28 == 0#28) .mustBeZero
  .ok (mk (SReg.ofCode x.a) (e.extractLsb' 0 36) x.sw)
def decCPY (x : Fields) (mk : SReg → SReg → Src → BitVec 32 → Bool → Instr) : Dec Instr := do
  let e ← ext x; let d ← tok x.d; let b ← src x
  need (e.extractLsb' 32 32 == 0#32) .mustBeZero
  .ok (mk d (SReg.ofCode x.a) b (e.extractLsb' 0 32) x.sw)
def decCPYS (x : Fields)
    (mk : SReg → SReg → Src → BitVec 16 → BitVec 16 → BitVec 16 → BitVec 16 → Bool → Instr) : Dec Instr := do
  let e ← ext x; let d ← tok x.d; let b ← src x
  .ok (mk d (SReg.ofCode x.a) b (e.extractLsb' 0 16) (e.extractLsb' 16 16) (e.extractLsb' 32 16) (e.extractLsb' 48 16)
    x.sw)
def decGATH (x : Fields) (mk : SReg → SReg → Src → BitVec 16 → Fin 6 → Bool → Instr) : Dec Instr := do
  let e ← ext x; let d ← tok x.d; let b ← src x
  need (e.extractLsb' 19 45 == 0#45) .mustBeZero
  if h : (e.extractLsb' 16 3).toNat < 6 then
    .ok (mk d (SReg.ofCode x.a) b (e.extractLsb' 0 16) ⟨(e.extractLsb' 16 3).toNat, h⟩ x.sw)
  else .error .badImmediate
/-- With F[6] set nothing is returned and D is only read (10 R191). -/
def decFSHIP (x : Fields) (mk : BitVec 6 → Bool → SReg → SReg → Src → Bool → Instr) : Dec Instr := do
  noExt x; let b ← src x
  let nr := x.f.getLsbD 6
  need (nr || (SReg.ofCode x.d).writable) .badOperand
  .ok (mk (x.f.extractLsb' 0 6) nr (SReg.ofCode x.d) (SReg.ofCode x.a) b x.sw)
/-- The extension of NEAR: the count and the float type (04 R79). -/
def nearExt (e : Word) : Dec (FTy × BitVec 32) := do
  need (e.extractLsb' 36 28 == 0#28) .mustBeZero
  need (decide (8 ≤ (e.extractLsb' 32 4).toNat)) .badImmediate
  let t ← orReject .badImmediate (FTy.ofCode ((e.extractLsb' 32 4).toNat - 8))
  .ok (t, e.extractLsb' 0 32)
def decNDOT (x : Fields) (mk : FTy → SReg → SReg → Src → BitVec 32 → Bool → Instr) : Dec Instr := do
  let e ← ext x; let d ← dst x.d; let b ← src x; let (t, n) ← nearExt e
  .ok (mk t d (SReg.ofCode x.a) b n x.sw)
def decNSUM (x : Fields) (mk : FTy → SReg → SReg → BitVec 32 → Bool → Instr) : Dec Instr := do
  let e ← ext x; need x.l.isNone .badLiteral; zero5 x.b; let d ← dst x.d; let (t, n) ← nearExt e
  .ok (mk t d (SReg.ofCode x.a) n x.sw)
def decSYNC (x : Fields) (mk : Scope → Bool → Instr) : Dec Instr := do
  plain x; zero5 x.b; zero5 x.a; zero5 x.d
  let sc ← orReject .noSuchMember (Scope.ofCode (x.f.toNat % 16))
  .ok (mk sc x.sw)
def decTSMR (x : Fields) (mk : Scope → SReg → SReg → Bool → Instr) : Dec Instr := do
  plain x; zero5 x.b; let d ← dst x.d
  let sc ← orReject .noSuchMember (Scope.ofCode (x.f.toNat % 16))
  .ok (mk sc d (SReg.ofCode x.a) x.sw)
def decBARINIT (x : Fields) (mk : Scope → SReg → Src → Bool → Instr) : Dec Instr := do
  noExt x; let sc ← orReject .badOperand (Scope.ofCode x.d.toNat); let b ← src x
  .ok (mk sc (SReg.ofCode x.a) b x.sw)
def decPUT (x : Fields) (mk : PostIx → SReg → Src → Bool → Instr) : Dec Instr := do
  noExt x; let m ← small 32 x.d; let b ← src x
  .ok (mk m (SReg.ofCode x.a) b x.sw)
def decDm (x : Fields) (mk : SReg → PostIx → Bool → Instr) : Dec Instr := do
  plain x; zero5 x.b; let d ← dst x.d; let m ← small 32 x.a
  .ok (mk d m x.sw)
def decSEND (x : Fields) (mk : Cls → SReg → Fin 8 → Bool → Instr) : Dec Instr := do
  plain x; let c ← small 8 x.d; let n ← small 8 x.b
  .ok (mk c (SReg.ofCode x.a) n x.sw)
def decC (x : Fields) (mk : Cls → Bool → Instr) : Dec Instr := do
  plain x; zero5 x.b; zero5 x.a; let c ← small 8 x.d
  .ok (mk c x.sw)
def decDc (x : Fields) (mk : SReg → Cls → Bool → Instr) : Dec Instr := do
  plain x; zero5 x.a; let d ← dst x.d; let c ← small 8 x.b
  .ok (mk d c x.sw)
def decScope (x : Fields) (mk : Scope → Bool → Instr) : Dec Instr := do
  plain x; zero5 x.b; zero5 x.a
  let sc ← orReject .badOperand (Scope.ofCode x.d.toNat)
  need sc.isStealDomain .badOperand
  .ok (mk sc x.sw)
def decb2 (x : Fields) (mk : Fin 4 → Bool → Instr) : Dec Instr := do
  plain x; zero5 x.a; zero5 x.d; let n ← small 4 x.b
  .ok (mk n x.sw)
def decDb2 (x : Fields) (mk : SReg → Fin 4 → Bool → Instr) : Dec Instr := do
  plain x; zero5 x.a; let d ← dst x.d; let n ← small 4 x.b
  .ok (mk d n x.sw)
def decAb2 (x : Fields) (mk : SReg → Fin 4 → Bool → Instr) : Dec Instr := do
  plain x; zero5 x.d; let n ← small 4 x.b
  .ok (mk (SReg.ofCode x.a) n x.sw)
def decDA4 (x : Fields) (mk : SReg → SReg → Fin 4 → Bool → Instr) : Dec Instr := do
  plain x; let d ← dst x.d; let n ← small 4 x.b
  .ok (mk d (SReg.ofCode x.a) n x.sw)
def decD5 (x : Fields) (mk : SReg → BitVec 5 → Bool → Instr) : Dec Instr := do
  plain x; zero5 x.a; let d ← dst x.d
  .ok (mk d x.b x.sw)
def decA5 (x : Fields) (mk : SReg → BitVec 5 → Bool → Instr) : Dec Instr := do
  plain x; zero5 x.d
  .ok (mk (SReg.ofCode x.a) x.b x.sw)
def decLAUNCH (x : Fields) (mk : SReg → SReg → Src → BitVec 32 → Bool → Instr) : Dec Instr := do
  let e ← ext x; let d ← tok x.d; let b ← src x
  need (e.extractLsb' 32 32 == 0#32) .mustBeZero
  need (e.extractLsb' 0 32 != 0#32) .badImmediate
  .ok (mk d (SReg.ofCode x.a) b (e.extractLsb' 0 32) x.sw)
def ftyOf (x : Fields) : Dec FTy := orReject .noSuchMember (FTy.ofCode (x.f.toNat % 8))
def ityOf (x : Fields) : Dec ITy := orReject .noSuchMember (ITy.ofCode (x.f.toNat % 8))
def decFV2 (x : Fields) (mk : FTy → VReg → VReg → Bool → Instr) : Dec Instr := do
  plain x; let t ← ftyOf x; zero5 x.b; let d ← vreg x.d; let a ← vreg x.a
  .ok (mk t d a x.sw)
def decFV3 (x : Fields) (mk : FTy → VReg → VReg → VReg → Bool → Instr) : Dec Instr := do
  plain x; let t ← ftyOf x; let d ← vreg x.d; let a ← vreg x.a; let b ← vreg x.b
  .ok (mk t d a b x.sw)
def decFK3 (x : Fields) (mk : FTy → KReg → VReg → VReg → Bool → Instr) : Dec Instr := do
  plain x; let t ← ftyOf x; let d ← kreg x.d; let a ← vreg x.a; let b ← vreg x.b
  .ok (mk t d a b x.sw)
def decIV3 (x : Fields) (mk : ITy → VReg → VReg → VReg → Bool → Instr) : Dec Instr := do
  plain x; let t ← ityOf x; let d ← vreg x.d; let a ← vreg x.a; let b ← vreg x.b
  .ok (mk t d a b x.sw)
def decIK3 (x : Fields) (mk : ITy → KReg → VReg → VReg → Bool → Instr) : Dec Instr := do
  plain x; let t ← ityOf x; let d ← kreg x.d; let a ← vreg x.a; let b ← vreg x.b
  .ok (mk t d a b x.sw)
/-- The type code in B of VBCAST and the reductions, 0 to 10 (04 R76). -/
def typeB (x : Fields) : Dec ElemTy := do
  let t ← orReject .badOperand (ElemTy.ofCode x.b.toNat)
  need t.inVmisc .badOperand
  .ok t
def decVBCAST (x : Fields) (mk : ElemTy → VReg → SReg → Bool → Instr) : Dec Instr := do
  plain x; let t ← typeB x; let d ← vreg x.d
  .ok (mk t d (SReg.ofCode x.a) x.sw)
def decVRED (x : Fields) (mk : ElemTy → SReg → VReg → Bool → Instr) : Dec Instr := do
  plain x; let t ← typeB x; let d ← dst x.d; let a ← vreg x.a
  .ok (mk t d a x.sw)
def decVMOVS (x : Fields) (mk : SReg → VReg → Fin 2 → Bool → Instr) : Dec Instr := do
  plain x; let d ← dst x.d; let a ← vreg x.a; let i ← small 2 x.b
  .ok (mk d a i x.sw)
def decVINS (x : Fields) (mk : VReg → SReg → Fin 2 → Bool → Instr) : Dec Instr := do
  plain x; let d ← vreg x.d; let i ← small 2 x.b
  .ok (mk d (SReg.ofCode x.a) i x.sw)
def decVSHUF (x : Fields) (mk : VReg → VReg → Src → Bool → Instr) : Dec Instr := do
  noExt x; let d ← vreg x.d; let a ← vreg x.a; let b ← src x
  .ok (mk d a b x.sw)
def decVSEL (x : Fields) (mk : VReg → VReg → KReg → LaneW → Bool → Instr) : Dec Instr := do
  plain x; let d ← vreg x.d; let a ← vreg x.a
  let w ← orReject .badImmediate (LaneW.ofCode (x.b.toNat / 4))
  .ok (mk d a (Fin.ofNat 4 x.b.toNat) w x.sw)
def decKKK (x : Fields) (mk : KReg → KReg → KReg → Bool → Instr) : Dec Instr := do
  plain x; let d ← kreg x.d; let a ← kreg x.a; let b ← kreg x.b
  .ok (mk d a b x.sw)
def decKK (x : Fields) (mk : KReg → KReg → Bool → Instr) : Dec Instr := do
  plain x; zero5 x.b; let d ← kreg x.d; let a ← kreg x.a
  .ok (mk d a x.sw)
def decKMOV (x : Fields) (mk : KmovForm → Bool → Instr) : Dec Instr := do
  plain x
  match x.b.toNat with
  | 0 => do let d ← kreg x.d; let a ← kreg x.a; .ok (mk (.kk d a) x.sw)
  | 1 => do let d ← dst x.d; let a ← kreg x.a; .ok (mk (.sk d a) x.sw)
  | 2 => do let d ← kreg x.d; .ok (mk (.ks d (SReg.ofCode x.a)) x.sw)
  | _ => .error .noSuchMember
def decVZERO (x : Fields) (mk : VorK → Bool → Instr) : Dec Instr := do
  plain x; zero5 x.b; zero5 x.a
  match vreg x.d, kreg x.d with
  | .ok v, _ => .ok (mk (.v v) x.sw)
  | .error _, .ok k => .ok (mk (.k k) x.sw)
  | .error r, .error _ => .error r
def decVV (x : Fields) (mk : VReg → VReg → Bool → Instr) : Dec Instr := do
  plain x; zero5 x.b; let d ← vreg x.d; let a ← vreg x.a
  .ok (mk d a x.sw)
/-- VCVT's types are split over F and B (04 R76). -/
def decVCVT (x : Fields) (mk : ElemTy → ElemTy → Bool → VReg → VReg → Bool → Instr) : Dec Instr := do
  plain x; let d ← vreg x.d; let a ← vreg x.a
  need (decide (x.b.toNat < 4)) .mustBeZero
  let dt ← orReject .noSuchMember (ElemTy.ofCode (8 * (x.b.toNat / 2) + x.f.toNat / 16))
  let st ← orReject .noSuchMember (ElemTy.ofCode (8 * (x.b.toNat % 2) + x.f.toNat / 2 % 8))
  need (dt != st) .badImmediate
  let sat := x.f.getLsbD 0
  need (!sat || dt.isF8) .badImmediate
  .ok (mk dt st sat d a x.sw)
/-- VBLK's element count, 1 to 256 (11 R210). -/
def blkCount (e : Word) : Dec (BitVec 9) := do
  let n := e.extractLsb' 8 9
  need (decide (1 ≤ n.toNat ∧ n.toNat ≤ 256)) .badImmediate
  need (e.extractLsb' 17 47 == 0#47) .mustBeZero
  .ok n
/-- A VBLK type: codes 8 to 10 of 04 R72. -/
def blkType (e : Word) : Dec FTy := do
  need (decide (8 ≤ (e.extractLsb' 0 4).toNat)) .badImmediate
  orReject .badImmediate (FTy.ofCode ((e.extractLsb' 0 4).toNat - 8))
def decVQBLK (x : Fields) (mk : SReg → SReg → Src → FTy → BlkKind → BitVec 9 → Bool → Instr) : Dec Instr := do
  let e ← ext x; let d ← dst x.d; let b ← src x; let t ← blkType e
  let kd ← orReject .badImmediate (BlkKind.ofCode (e.extractLsb' 4 4).toNat); let n ← blkCount e
  .ok (mk d (SReg.ofCode x.a) b t kd n x.sw)
def decVDQBLK (x : Fields) (mk : SReg → SReg → Src → FTy → DqKind → BitVec 9 → Bool → Instr) : Dec Instr := do
  let e ← ext x; let b ← src x; let t ← blkType e
  let kd ← orReject .badImmediate (DqKind.ofCode (e.extractLsb' 4 4).toNat); let n ← blkCount e
  .ok (mk (SReg.ofCode x.d) (SReg.ofCode x.a) b t kd n x.sw)
def decVSCL (x : Fields) (mk : VReg → VReg → Src → FTy → Bool → Instr) : Dec Instr := do
  let e ← ext x; let d ← vreg x.d; let a ← vreg x.a; let b ← src x; let t ← blkType e
  need (e.extractLsb' 4 60 == 0#60) .mustBeZero
  .ok (mk d a b t x.sw)
/-- HIRE's modifiers (12 R215): F[6] zero, and never .z with .l. -/
def decHIRE (x : Fields) (mk : Fin 4 → Bool → Bool → Bool → Bool → SReg → SReg → Bool → Instr) : Dec Instr := do
  plain x; zero5 x.b; let d ← dst x.d
  need (!x.f.getLsbD 6) .mustBeZero
  need (!(x.f.getLsbD 2 && x.f.getLsbD 3)) .badImmediate
  .ok (mk (Fin.ofNat 4 x.f.toNat) (x.f.getLsbD 2) (x.f.getLsbD 3) (x.f.getLsbD 4) (x.f.getLsbD 5) d (SReg.ofCode x.a)
    x.sw)
def decMMA (x : Fields)
    (mk : MmaPair → Bool → Fin 4 → SReg → SReg → Src → BitVec 16 → BitVec 16 → BitVec 16 → Bool → Instr) :
    Dec Instr := do
  let e ← ext x; let b ← src x
  let p ← orReject .noSuchMember (MmaPair.ofCode (x.f.toNat / 16))
  need (!x.f.getLsbD 2) .mustBeZero
  need (e.extractLsb' 48 16 == 0#16) .mustBeZero
  .ok (mk p (x.f.getLsbD 3) (Fin.ofNat 4 x.f.toNat) (SReg.ofCode x.d) (SReg.ofCode x.a) b (e.extractLsb' 0 16)
    (e.extractLsb' 16 16) (e.extractLsb' 32 16) x.sw)
def decACCSTM (x : Fields)
    (mk : SReg → Src → BitVec 16 → BitVec 16 → AccFmt → BitVec 24 → Bool → Instr) : Dec Instr := do
  let e ← ext x; zero5 x.d; let b ← src x
  let fmt ← orReject .badImmediate (AccFmt.ofCode (e.extractLsb' 32 4).toNat)
  need (e.extractLsb' 36 4 == 0#4) .mustBeZero
  .ok (mk (SReg.ofCode x.a) b (e.extractLsb' 0 16) (e.extractLsb' 16 16) fmt (e.extractLsb' 40 24) x.sw)
def decCAB (x : Fields) (mk : Cls → SReg → Src → Bool → Instr) : Dec Instr := do
  noExt x; let c ← small 8 x.d; let b ← src x
  .ok (mk c (SReg.ofCode x.a) b x.sw)
/-- A control register number: 30 and 31 raise ILL (06 R115). -/
def decCSRR (x : Fields) (mk : SReg → Fin 30 → Bool → Instr) : Dec Instr := do
  plain x; zero5 x.b; let d ← dst x.d; let n ← small 30 x.a
  .ok (mk d n x.sw)
/-- A write names no read-only register (06 R115). -/
def decCSRW (x : Fields) (mk : Fin 30 → Src → Bool → Instr) : Dec Instr := do
  noExt x; zero5 x.a; let n ← small 30 x.d; need (!csrReadOnly n) .badOperand; let b ← src x
  .ok (mk n b x.sw)
def decCTXSV (x : Fields) (mk : SReg → Bool → Bool → Instr) : Dec Instr := do
  plain x; zero5 x.d; let n ← small 2 x.b
  .ok (mk (SReg.ofCode x.a) (n.val == 1) x.sw)


/-! ### The opcode map (04 R73) -/

def decIntGroup (x : Fields) : Dec Instr :=
  match x.f.toNat with
  | 0 => decDAB x (.add false)
  | 1 => decDAB x (.sub false)
  | 2 => decDAB x (.mul false)
  | 3 => decDAB x .mulh
  | 4 => decDAB x .mulhn
  | 5 => decDAB x (.div false)
  | 6 => decDAB x (.divu false)
  | 7 => decDAB x (.rem false)
  | 8 => decDAB x (.remu false)
  | 9 => decDAB x .and
  | 10 => decDAB x .or
  | 11 => decDAB x .xor
  | 12 => decDAB x .andn
  | 13 => decDAB x .orn
  | 14 => decDAB x (.shl false)
  | 15 => decDAB x (.shr false)
  | 16 => decDAB x (.sar false)
  | 17 => decDAB x (.rol false)
  | 18 => decDAB x .min
  | 19 => decDAB x .max
  | 20 => decDAB x .minu
  | 21 => decDAB x .maxu
  | 22 => decDAB x .seq
  | 23 => decDAB x .sne
  | 24 => decDAB x .slt
  | 25 => decDAB x .sltu
  | 26 => decDAB x .sle
  | 27 => decDAB x .sleu
  | 28 => decDAB x .sel
  | 29 => decDA x .clz
  | 30 => decDA x .ctz
  | 31 => decDA x .popc
  | 32 => decDA x .brev
  | 33 => decDA x .bswap
  | 34 => decDA x .sexb
  | 35 => decDA x .sexh
  | 36 => decDA x .sexw
  | 37 => decDA x .zexb
  | 38 => decDA x .zexh
  | 39 => decDA x .zexw
  | 40 => decDA x .mov
  | 64 => decDAB x (.add true)
  | 65 => decDAB x (.sub true)
  | 66 => decDAB x (.mul true)
  | 69 => decDAB x (.div true)
  | 70 => decDAB x (.divu true)
  | 71 => decDAB x (.rem true)
  | 72 => decDAB x (.remu true)
  | 78 => decDAB x (.shl true)
  | 79 => decDAB x (.shr true)
  | 80 => decDAB x (.sar true)
  | 81 => decDAB x (.rol true)
  | _ => .error .noSuchMember

def decLeaGroup (x : Fields) : Dec Instr :=
  match x.f.toNat with
  | 0 => decDAB x .lea0
  | 1 => decDAB x .lea1
  | 2 => decDAB x .lea2
  | 3 => decDAB x .lea3
  | 4 => decDAB x .mkca
  | 5 => decDAB x .mkha
  | 6 => decDA x .acls
  | 7 => decDA x .acol
  | 8 => decDA x .acell
  | 9 => decDA x .twinof
  | _ => .error .noSuchMember

def decCtlGroup (x : Fields) : Dec Instr :=
  match x.f.toNat with
  | 0 => decA x .jmpr
  | 1 => decA x .callr
  | 2 => dec0 x .ret
  | _ => .error .noSuchMember

def decMemGroup (x : Fields) : Dec Instr :=
  match x.f.toNat with
  | 0 => decDAB x .ldx
  | 1 => decSAB x .stx
  | 2 => decAB x .pref
  | 3 => decHINT x .hint
  | 4 => decCPY x .cpy
  | 5 => decCPYS x .cpys
  | 6 => decGATH x .gath
  | 7 => decGATH x .scat
  | 8 => decCPY x .cpyc
  | _ => .error .noSuchMember

def decAtomGroup (x : Fields) : Dec Instr :=
  match x.f.toNat with
  | 0 => decDAB x (.aadd false)
  | 1 => decDAB x (.amin false)
  | 2 => decDAB x (.amax false)
  | 3 => decDAB x (.aminu false)
  | 4 => decDAB x (.amaxu false)
  | 5 => decDAB x (.aand false)
  | 6 => decDAB x (.aor false)
  | 7 => decDAB x (.axor false)
  | 8 => decDAB x (.axchg false)
  | 9 => decDAB x (.acas false)
  | 10 => decDAB x .afadd32
  | 11 => decDAB x .afadd16
  | 12 => decDAB x .afmax32
  | 64 => decDAB x (.aadd true)
  | 65 => decDAB x (.amin true)
  | 66 => decDAB x (.amax true)
  | 67 => decDAB x (.aminu true)
  | 68 => decDAB x (.amaxu true)
  | 69 => decDAB x (.aand true)
  | 70 => decDAB x (.aor true)
  | 71 => decDAB x (.axor true)
  | 72 => decDAB x (.axchg true)
  | 73 => decDAB x (.acas true)
  | _ => .error .noSuchMember

def decNearGroup (x : Fields) : Dec Instr :=
  match x.f.toNat with
  | 0 => decNDOT x .ndot
  | 1 => decNSUM x .nsum
  | 2 => decNSUM x .nmax
  | _ => .error .noSuchMember

def decSyncGroup (x : Fields) : Dec Instr :=
  match x.f.toNat / 16 with
  | 0 => decSYNC x .rel
  | 1 => decSYNC x .acq
  | 2 => decSYNC x .fence
  | 3 => decTSMR x .tsmr
  | _ => .error .noSuchMember

def decBarGroup (x : Fields) : Dec Instr :=
  match x.f.toNat with
  | 0 => decBARINIT x .barinit
  | 1 => decA x .bararr
  | 2 => decA x .barwait
  | 3 => decDA x .bartest
  | _ => .error .noSuchMember

def decWaitGroup (x : Fields) : Dec Instr :=
  match x.f.toNat with
  | 0 => decDAB x .waita
  | 1 => decDA x .waitt
  | 2 => dec0 x .yield
  | 3 => decA x .sleep
  | _ => .error .noSuchMember

def decVfpGroup (x : Fields) : Dec Instr :=
  match x.f.toNat / 8 with
  | 0 => decFV3 x .vfpVadd
  | 1 => decFV3 x .vfpVsub
  | 2 => decFV3 x .vfpVmul
  | 3 => decFV3 x .vfma
  | 4 => decFV3 x .vfpVmin
  | 5 => decFV3 x .vfpVmax
  | 6 => decFV2 x .vabs
  | 7 => decFV2 x .vneg
  | 8 => decFV3 x .vdiv
  | 9 => decFV2 x .vsqrt
  | 10 => decFV2 x .vexp2
  | 11 => decFK3 x .vfpVcmpeq
  | 12 => decFK3 x .vfpVcmplt
  | 13 => decFK3 x .vcmple
  | _ => .error .noSuchMember

def decVintGroup (x : Fields) : Dec Instr :=
  match x.f.toNat / 8 with
  | 0 => decIV3 x .vintVadd
  | 1 => decIV3 x .vintVsub
  | 2 => decIV3 x .vintVmul
  | 3 => decIV3 x .vintVmin
  | 4 => decIV3 x .vintVmax
  | 5 => decIV3 x .vminn
  | 6 => decIV3 x .vmaxn
  | 7 => decIV3 x .vand
  | 8 => decIV3 x .vor
  | 9 => decIV3 x .vxor
  | 10 => decIV3 x .vshl
  | 11 => decIV3 x .vshr
  | 12 => decIV3 x .vsar
  | 13 => decIK3 x .vintVcmpeq
  | 14 => decIK3 x .vintVcmplt
  | 15 => decIK3 x .vcmpltn
  | _ => .error .noSuchMember

def decVmiscGroup (x : Fields) : Dec Instr :=
  match x.f.toNat with
  | 0 => decVBCAST x .vbcast
  | 1 => decVMOVS x .vmovs
  | 2 => decVINS x .vins
  | 3 => decVSHUF x .vshuf
  | 4 => decVSEL x .vsel
  | 5 => decVRED x .vredadd
  | 6 => decVRED x .vredmax
  | 7 => decVRED x .vredmin
  | 8 => decKKK x .kand
  | 9 => decKKK x .kor
  | 10 => decKKK x .kxor
  | 11 => decKK x .knot
  | 12 => decKMOV x .kmov
  | 13 => decVZERO x .vzero
  | 14 => decVV x .vmov
  | _ => .error .noSuchMember

def decVblkGroup (x : Fields) : Dec Instr :=
  match x.f.toNat with
  | 0 => decVQBLK x .vqblk
  | 1 => decVDQBLK x .vdqblk
  | 2 => decVSCL x .vscl
  | _ => .error .noSuchMember

def decAccGroup (x : Fields) : Dec Instr :=
  match x.f.toNat with
  | 0 => decDb2 x .waitb
  | 1 => decD5 x .accget
  | 2 => decA5 x .accput
  | 3 => decA5 x .accz
  | 4 => decAB x .accld
  | 5 => decAB x .accst
  | 6 => decDA x .hstat
  | 7 => decb2 x .hcancel
  | _ => .error .noSuchMember

def decTwinGroup (x : Fields) : Dec Instr :=
  match x.f.toNat with
  | 0 => dec0 x .licreq
  | 1 => dec0 x .licrel
  | 2 => decD x .licst
  | 3 => decb2 x .twsig
  | 4 => decDb2 x .twwait
  | _ => .error .noSuchMember

def decRankGroup (x : Fields) : Dec Instr :=
  match x.f.toNat with
  | 0 => decDAB x .rank
  | 1 => decCAB x .rsend
  | 2 => decSAB x .rwacc
  | 3 => decSAB x .rval
  | 4 => decAb2 x .rtld
  | 5 => decDb2 x .rcnt
  | 6 => decb2 x .rclr
  | _ => .error .noSuchMember

def decWalkGroup (x : Fields) : Dec Instr :=
  match x.f.toNat with
  | 0 => decDAB x .tnew
  | 1 => decDAB x .tapp
  | 2 => decDAB x .twalk
  | 3 => decAB x .topen
  | 4 => decSAB x .tsum
  | 5 => decDA4 x .tstat
  | 6 => decDA x .tdrop
  | _ => .error .noSuchMember

def decPostGroup (x : Fields) : Dec Instr :=
  match x.f.toNat with
  | 0 => decPUT x .put
  | 1 => decDm x .take
  | 2 => decDm x .peek
  | 3 => decDm x .takef
  | 4 => decDm x .pres
  | _ => .error .noSuchMember

def decMsgGroup (x : Fields) : Dec Instr :=
  match x.f.toNat with
  | 0 => decSEND x .send
  | 1 => decC x .maskc
  | 2 => decC x .unmaskc
  | 3 => dec0 x .done
  | 4 => decDc x .clsr
  | _ => .error .noSuchMember

def decStrdGroup (x : Fields) : Dec Instr :=
  match x.f.toNat with
  | 0 => decSA x .spawn
  | 1 => decA x .join
  | 2 => dec0 x .exit
  | 3 => decA x .go
  | 4 => decScope x .steald
  | _ => .error .noSuchMember

def decSysGroup (x : Fields) : Dec Instr :=
  match x.f.toNat with
  | 0 => decB x .trap
  | 1 => dec0 x .eret
  | 2 => decCSRR x .csrr
  | 3 => decCSRW x .csrw
  | 4 => decCSRW x .csrs
  | 5 => decCSRW x .csrc
  | 6 => dec0 x .bkpt
  | 7 => dec0 x .chkpt
  | 8 => dec0 x .spill
  | 9 => dec0 x .fill
  | 10 => decA x .htcinv
  | 11 => decD x .rdcyc
  | 12 => decCTXSV x .ctxsv
  | _ => .error .noSuchMember

/-- A major opcode whose F field must be zero. -/
def fZero (x : Fields) (r : Dec Instr) : Dec Instr :=
  if x.f == 0#7 then r else .error .noSuchMember

/-- The instruction of the fields (04 R73). -/
def decodeFields (x : Fields) : Dec Instr :=
  match x.op.toNat with
  | 0x01 => decIntGroup x
  | 0x02 => decI x .addi
  | 0x03 => decI x .andi
  | 0x04 => decI x .ori
  | 0x05 => decI x .xori
  | 0x06 => decSH x .shli
  | 0x07 => decSH x .shri
  | 0x08 => decSH x .sari
  | 0x09 => decI x .slti
  | 0x0A => decI x .sltiu
  | 0x0B => decI x .muli
  | 0x0C => decLI x .li
  | 0x0D => decBF x .bfx
  | 0x0E => decBF x .bfi
  | 0x0F => decLeaGroup x
  | 0x10 => decBR x .bz
  | 0x11 => decBR x .bnz
  | 0x12 => decBR x .bltz
  | 0x13 => decBR x .bgez
  | 0x17 => decLOOP x .loop
  | 0x14 => decJ x .jmp
  | 0x16 => decCtlGroup x
  | 0x15 => decJ x .call
  | 0x18 => decI x .ldb
  | 0x19 => decI x .ldbn
  | 0x1A => decI x .ldh
  | 0x1B => decI x .ldhn
  | 0x1C => decI x .ldw
  | 0x1D => decI x .ldwn
  | 0x1E => decI x .ldd
  | 0x1F => decMS x .stb
  | 0x20 => decMS x .sth
  | 0x21 => decMS x .stw
  | 0x22 => decMS x .std
  | 0x23 => decMV x .ldv
  | 0x24 => decMV x .stv
  | 0x25 => decMF x .ldf
  | 0x26 => decMF x .stf
  | 0x27 => decMemGroup x
  | 0x28 => decAtomGroup x
  | 0x29 => decFSHIP x .fship
  | 0x2A => decNearGroup x
  | 0x2B => decSyncGroup x
  | 0x2C => decBarGroup x
  | 0x2D => decWaitGroup x
  | 0x38 => decVfpGroup x
  | 0x39 => decVintGroup x
  | 0x3A => decVmiscGroup x
  | 0x3B => decVCVT x .vcvt
  | 0x3C => decVblkGroup x
  | 0x40 => decHIRE x .hire
  | 0x41 => decMMA x .mma
  | 0x42 => decAccGroup x
  | 0x43 => fZero x (decACCSTM x .accstm)
  | 0x31 => decTwinGroup x
  | 0x48 => decRankGroup x
  | 0x4C => decWalkGroup x
  | 0x2E => decPostGroup x
  | 0x2F => decMsgGroup x
  | 0x30 => decStrdGroup x
  | 0x32 => fZero x (decLAUNCH x .launch)
  | 0x60 => decSysGroup x
  | _ => .error .reservedOpcode

/-- The first instruction of the words, and the words after it. Total: every list of words is an instruction or is
rejected by name. -/
def decode (ws : List IWord) : Dec (Instr × List IWord) := do
  let (x, rest) ← Fields.ofWords ws
  let i ← decodeFields x
  .ok (i, rest)

/-! ### The encoder -/

def mkF (op f : Nat) (b a d : BitVec 5) (sw : Bool) (e l : Option Word) : Fields :=
  ⟨BitVec.ofNat 7 op, BitVec.ofNat 7 f, b, a, d, sw, e, l⟩
/-- F with its bit 6. -/
def wBit (w : Bool) (f : Nat) : Nat := f + (if w then 64 else 0)
/-- The I and M formats. -/
def mkI (op : Nat) (i : BitVec 12) (a d : BitVec 5) (sw : Bool) (l : Option Word) : Fields :=
  ⟨BitVec.ofNat 7 op, i.extractLsb' 5 7, i.extractLsb' 0 5, a, d, sw, none, l⟩
/-- The B format. -/
def mkB (op : Nat) (p : BitVec 17) (a : BitVec 5) (sw : Bool) : Fields :=
  ⟨BitVec.ofNat 7 op, p.extractLsb' 10 7, p.extractLsb' 5 5, p.extractLsb' 0 5, a, sw, none, none⟩
/-- The J format. -/
def mkJ (op : Nat) (p : BitVec 22) (sw : Bool) : Fields :=
  ⟨BitVec.ofNat 7 op, p.extractLsb' 15 7, p.extractLsb' 10 5, p.extractLsb' 5 5, p.extractLsb' 0 5, sw, none, none⟩

def b2n (b : Bool) : Nat := if b then 1 else 0

/-- The fields of an instruction; none for an event, which has no encoding. -/
def encodeFields : Instr → Option Fields
  | .add w d a b sw => some (mkF 0x01 (wBit w 0) b.code a.code d.code sw none b.litOf)
  | .sub w d a b sw => some (mkF 0x01 (wBit w 1) b.code a.code d.code sw none b.litOf)
  | .mul w d a b sw => some (mkF 0x01 (wBit w 2) b.code a.code d.code sw none b.litOf)
  | .mulh d a b sw => some (mkF 0x01 3 b.code a.code d.code sw none b.litOf)
  | .mulhn d a b sw => some (mkF 0x01 4 b.code a.code d.code sw none b.litOf)
  | .div w d a b sw => some (mkF 0x01 (wBit w 5) b.code a.code d.code sw none b.litOf)
  | .divu w d a b sw => some (mkF 0x01 (wBit w 6) b.code a.code d.code sw none b.litOf)
  | .rem w d a b sw => some (mkF 0x01 (wBit w 7) b.code a.code d.code sw none b.litOf)
  | .remu w d a b sw => some (mkF 0x01 (wBit w 8) b.code a.code d.code sw none b.litOf)
  | .and d a b sw => some (mkF 0x01 9 b.code a.code d.code sw none b.litOf)
  | .or d a b sw => some (mkF 0x01 10 b.code a.code d.code sw none b.litOf)
  | .xor d a b sw => some (mkF 0x01 11 b.code a.code d.code sw none b.litOf)
  | .andn d a b sw => some (mkF 0x01 12 b.code a.code d.code sw none b.litOf)
  | .orn d a b sw => some (mkF 0x01 13 b.code a.code d.code sw none b.litOf)
  | .shl w d a b sw => some (mkF 0x01 (wBit w 14) b.code a.code d.code sw none b.litOf)
  | .shr w d a b sw => some (mkF 0x01 (wBit w 15) b.code a.code d.code sw none b.litOf)
  | .sar w d a b sw => some (mkF 0x01 (wBit w 16) b.code a.code d.code sw none b.litOf)
  | .rol w d a b sw => some (mkF 0x01 (wBit w 17) b.code a.code d.code sw none b.litOf)
  | .min d a b sw => some (mkF 0x01 18 b.code a.code d.code sw none b.litOf)
  | .max d a b sw => some (mkF 0x01 19 b.code a.code d.code sw none b.litOf)
  | .minu d a b sw => some (mkF 0x01 20 b.code a.code d.code sw none b.litOf)
  | .maxu d a b sw => some (mkF 0x01 21 b.code a.code d.code sw none b.litOf)
  | .seq d a b sw => some (mkF 0x01 22 b.code a.code d.code sw none b.litOf)
  | .sne d a b sw => some (mkF 0x01 23 b.code a.code d.code sw none b.litOf)
  | .slt d a b sw => some (mkF 0x01 24 b.code a.code d.code sw none b.litOf)
  | .sltu d a b sw => some (mkF 0x01 25 b.code a.code d.code sw none b.litOf)
  | .sle d a b sw => some (mkF 0x01 26 b.code a.code d.code sw none b.litOf)
  | .sleu d a b sw => some (mkF 0x01 27 b.code a.code d.code sw none b.litOf)
  | .sel d a b sw => some (mkF 0x01 28 b.code a.code d.code sw none b.litOf)
  | .clz d a sw => some (mkF 0x01 29 0#5 a.code d.code sw none none)
  | .ctz d a sw => some (mkF 0x01 30 0#5 a.code d.code sw none none)
  | .popc d a sw => some (mkF 0x01 31 0#5 a.code d.code sw none none)
  | .brev d a sw => some (mkF 0x01 32 0#5 a.code d.code sw none none)
  | .bswap d a sw => some (mkF 0x01 33 0#5 a.code d.code sw none none)
  | .sexb d a sw => some (mkF 0x01 34 0#5 a.code d.code sw none none)
  | .sexh d a sw => some (mkF 0x01 35 0#5 a.code d.code sw none none)
  | .sexw d a sw => some (mkF 0x01 36 0#5 a.code d.code sw none none)
  | .zexb d a sw => some (mkF 0x01 37 0#5 a.code d.code sw none none)
  | .zexh d a sw => some (mkF 0x01 38 0#5 a.code d.code sw none none)
  | .zexw d a sw => some (mkF 0x01 39 0#5 a.code d.code sw none none)
  | .mov d a sw => some (mkF 0x01 40 0#5 a.code d.code sw none none)
  | .addi d a i sw => some (mkI 0x02 i.code a.code d.code sw i.litOf)
  | .andi d a i sw => some (mkI 0x03 i.code a.code d.code sw i.litOf)
  | .ori d a i sw => some (mkI 0x04 i.code a.code d.code sw i.litOf)
  | .xori d a i sw => some (mkI 0x05 i.code a.code d.code sw i.litOf)
  | .shli d a n sw => some (mkI 0x06 (0#6 ++ n) a.code d.code sw none)
  | .shri d a n sw => some (mkI 0x07 (0#6 ++ n) a.code d.code sw none)
  | .sari d a n sw => some (mkI 0x08 (0#6 ++ n) a.code d.code sw none)
  | .slti d a i sw => some (mkI 0x09 i.code a.code d.code sw i.litOf)
  | .sltiu d a i sw => some (mkI 0x0A i.code a.code d.code sw i.litOf)
  | .muli d a i sw => some (mkI 0x0B i.code a.code d.code sw i.litOf)
  | .li d i sw => some (mkI 0x0C i.code 0#5 d.code sw i.litOf)
  | .bfx d a p wm1 sw => some (mkI 0x0D (wm1 ++ p) a.code d.code sw none)
  | .bfi d a p wm1 sw => some (mkI 0x0E (wm1 ++ p) a.code d.code sw none)
  | .lea0 d a b sw => some (mkF 0x0F 0 b.code a.code d.code sw none b.litOf)
  | .lea1 d a b sw => some (mkF 0x0F 1 b.code a.code d.code sw none b.litOf)
  | .lea2 d a b sw => some (mkF 0x0F 2 b.code a.code d.code sw none b.litOf)
  | .lea3 d a b sw => some (mkF 0x0F 3 b.code a.code d.code sw none b.litOf)
  | .mkca d a b sw => some (mkF 0x0F 4 b.code a.code d.code sw none b.litOf)
  | .mkha d a b sw => some (mkF 0x0F 5 b.code a.code d.code sw none b.litOf)
  | .acls d a sw => some (mkF 0x0F 6 0#5 a.code d.code sw none none)
  | .acol d a sw => some (mkF 0x0F 7 0#5 a.code d.code sw none none)
  | .acell d a sw => some (mkF 0x0F 8 0#5 a.code d.code sw none none)
  | .twinof d a sw => some (mkF 0x0F 9 0#5 a.code d.code sw none none)
  | .bz a disp sw => some (mkB 0x10 disp a.code sw)
  | .bnz a disp sw => some (mkB 0x11 disp a.code sw)
  | .bltz a disp sw => some (mkB 0x12 disp a.code sw)
  | .bgez a disp sw => some (mkB 0x13 disp a.code sw)
  | .loop a disp sw => some (mkB 0x17 disp a.code sw)
  | .jmp disp sw => some (mkJ 0x14 disp sw)
  | .jmpr a sw => some (mkF 0x16 0 0#5 a.code 0#5 sw none none)
  | .call disp sw => some (mkJ 0x15 disp sw)
  | .callr a sw => some (mkF 0x16 1 0#5 a.code 0#5 sw none none)
  | .ret sw => some (mkF 0x16 2 0#5 0#5 0#5 sw none none)
  | .ldb d a off sw => some (mkI 0x18 off.code a.code d.code sw off.litOf)
  | .ldbn d a off sw => some (mkI 0x19 off.code a.code d.code sw off.litOf)
  | .ldh d a off sw => some (mkI 0x1A off.code a.code d.code sw off.litOf)
  | .ldhn d a off sw => some (mkI 0x1B off.code a.code d.code sw off.litOf)
  | .ldw d a off sw => some (mkI 0x1C off.code a.code d.code sw off.litOf)
  | .ldwn d a off sw => some (mkI 0x1D off.code a.code d.code sw off.litOf)
  | .ldd d a off sw => some (mkI 0x1E off.code a.code d.code sw off.litOf)
  | .stb d a off sw => some (mkI 0x1F off.code a.code d.code sw off.litOf)
  | .sth d a off sw => some (mkI 0x20 off.code a.code d.code sw off.litOf)
  | .stw d a off sw => some (mkI 0x21 off.code a.code d.code sw off.litOf)
  | .std d a off sw => some (mkI 0x22 off.code a.code d.code sw off.litOf)
  | .ldv d a off sw => some (mkI 0x23 off.code a.code (vcode d) sw off.litOf)
  | .stv d a off sw => some (mkI 0x24 off.code a.code (vcode d) sw off.litOf)
  | .ldf d a off sw => some (mkI 0x25 off.code a.code (vcode d) sw off.litOf)
  | .stf d a off sw => some (mkI 0x26 off.code a.code (vcode d) sw off.litOf)
  | .ldx d a b sw => some (mkF 0x27 0 b.code a.code d.code sw none b.litOf)
  | .stx d a b sw => some (mkF 0x27 1 b.code a.code d.code sw none b.litOf)
  | .pref a b sw => some (mkF 0x27 2 b.code a.code 0#5 sw none b.litOf)
  | .hint a len sw => some (mkF 0x27 3 0#5 a.code 0#5 sw (some (0#28 ++ len)) none)
  | .cpy d a b n sw => some (mkF 0x27 4 b.code a.code d.code sw (some (0#32 ++ n)) b.litOf)
  | .cpys d a b len rows sstr dstr sw => some (mkF 0x27 5 b.code a.code d.code sw (some (dstr ++ sstr ++ rows ++ len)) b.litOf)
  | .gath d a b n sz sw => some (mkF 0x27 6 b.code a.code d.code sw (some (0#45 ++ BitVec.ofNat 3 sz.val ++ n)) b.litOf)
  | .scat d a b n sz sw => some (mkF 0x27 7 b.code a.code d.code sw (some (0#45 ++ BitVec.ofNat 3 sz.val ++ n)) b.litOf)
  | .cpyc d a b n sw => some (mkF 0x27 8 b.code a.code d.code sw (some (0#32 ++ n)) b.litOf)
  | .aadd w d a b sw => some (mkF 0x28 (wBit w 0) b.code a.code d.code sw none b.litOf)
  | .amin w d a b sw => some (mkF 0x28 (wBit w 1) b.code a.code d.code sw none b.litOf)
  | .amax w d a b sw => some (mkF 0x28 (wBit w 2) b.code a.code d.code sw none b.litOf)
  | .aminu w d a b sw => some (mkF 0x28 (wBit w 3) b.code a.code d.code sw none b.litOf)
  | .amaxu w d a b sw => some (mkF 0x28 (wBit w 4) b.code a.code d.code sw none b.litOf)
  | .aand w d a b sw => some (mkF 0x28 (wBit w 5) b.code a.code d.code sw none b.litOf)
  | .aor w d a b sw => some (mkF 0x28 (wBit w 6) b.code a.code d.code sw none b.litOf)
  | .axor w d a b sw => some (mkF 0x28 (wBit w 7) b.code a.code d.code sw none b.litOf)
  | .axchg w d a b sw => some (mkF 0x28 (wBit w 8) b.code a.code d.code sw none b.litOf)
  | .acas w d a b sw => some (mkF 0x28 (wBit w 9) b.code a.code d.code sw none b.litOf)
  | .afadd32 d a b sw => some (mkF 0x28 10 b.code a.code d.code sw none b.litOf)
  | .afadd16 d a b sw => some (mkF 0x28 11 b.code a.code d.code sw none b.litOf)
  | .afmax32 d a b sw => some (mkF 0x28 12 b.code a.code d.code sw none b.litOf)
  | .fship routine nr d a b sw => some (mkF 0x29 (wBit nr routine.toNat) b.code a.code d.code sw none b.litOf)
  | .ndot t d a b n sw => some (mkF 0x2A 0 b.code a.code d.code sw (some (0#28 ++ BitVec.ofNat 4 (8 + t.code) ++ n)) b.litOf)
  | .nsum t d a n sw => some (mkF 0x2A 1 0#5 a.code d.code sw (some (0#28 ++ BitVec.ofNat 4 (8 + t.code) ++ n)) none)
  | .nmax t d a n sw => some (mkF 0x2A 2 0#5 a.code d.code sw (some (0#28 ++ BitVec.ofNat 4 (8 + t.code) ++ n)) none)
  | .rel sc sw => some (mkF 0x2B (0 + sc.code) 0#5 0#5 0#5 sw none none)
  | .acq sc sw => some (mkF 0x2B (16 + sc.code) 0#5 0#5 0#5 sw none none)
  | .fence sc sw => some (mkF 0x2B (32 + sc.code) 0#5 0#5 0#5 sw none none)
  | .tsmr sc d a sw => some (mkF 0x2B (48 + sc.code) 0#5 a.code d.code sw none none)
  | .barinit sc a b sw => some (mkF 0x2C 0 b.code a.code (BitVec.ofNat 5 sc.code) sw none b.litOf)
  | .bararr a sw => some (mkF 0x2C 1 0#5 a.code 0#5 sw none none)
  | .barwait a sw => some (mkF 0x2C 2 0#5 a.code 0#5 sw none none)
  | .bartest d a sw => some (mkF 0x2C 3 0#5 a.code d.code sw none none)
  | .waita d a b sw => some (mkF 0x2D 0 b.code a.code d.code sw none b.litOf)
  | .waitt d a sw => some (mkF 0x2D 1 0#5 a.code d.code sw none none)
  | .yield sw => some (mkF 0x2D 2 0#5 0#5 0#5 sw none none)
  | .sleep a sw => some (mkF 0x2D 3 0#5 a.code 0#5 sw none none)
  | .vfpVadd t d a b sw => some (mkF 0x38 (0 + t.code) (vcode b) (vcode a) (vcode d) sw none none)
  | .vfpVsub t d a b sw => some (mkF 0x38 (8 + t.code) (vcode b) (vcode a) (vcode d) sw none none)
  | .vfpVmul t d a b sw => some (mkF 0x38 (16 + t.code) (vcode b) (vcode a) (vcode d) sw none none)
  | .vfma t d a b sw => some (mkF 0x38 (24 + t.code) (vcode b) (vcode a) (vcode d) sw none none)
  | .vfpVmin t d a b sw => some (mkF 0x38 (32 + t.code) (vcode b) (vcode a) (vcode d) sw none none)
  | .vfpVmax t d a b sw => some (mkF 0x38 (40 + t.code) (vcode b) (vcode a) (vcode d) sw none none)
  | .vabs t d a sw => some (mkF 0x38 (48 + t.code) 0#5 (vcode a) (vcode d) sw none none)
  | .vneg t d a sw => some (mkF 0x38 (56 + t.code) 0#5 (vcode a) (vcode d) sw none none)
  | .vdiv t d a b sw => some (mkF 0x38 (64 + t.code) (vcode b) (vcode a) (vcode d) sw none none)
  | .vsqrt t d a sw => some (mkF 0x38 (72 + t.code) 0#5 (vcode a) (vcode d) sw none none)
  | .vexp2 t d a sw => some (mkF 0x38 (80 + t.code) 0#5 (vcode a) (vcode d) sw none none)
  | .vfpVcmpeq t d a b sw => some (mkF 0x38 (88 + t.code) (vcode b) (vcode a) (kcode d) sw none none)
  | .vfpVcmplt t d a b sw => some (mkF 0x38 (96 + t.code) (vcode b) (vcode a) (kcode d) sw none none)
  | .vcmple t d a b sw => some (mkF 0x38 (104 + t.code) (vcode b) (vcode a) (kcode d) sw none none)
  | .vintVadd t d a b sw => some (mkF 0x39 (0 + t.code) (vcode b) (vcode a) (vcode d) sw none none)
  | .vintVsub t d a b sw => some (mkF 0x39 (8 + t.code) (vcode b) (vcode a) (vcode d) sw none none)
  | .vintVmul t d a b sw => some (mkF 0x39 (16 + t.code) (vcode b) (vcode a) (vcode d) sw none none)
  | .vintVmin t d a b sw => some (mkF 0x39 (24 + t.code) (vcode b) (vcode a) (vcode d) sw none none)
  | .vintVmax t d a b sw => some (mkF 0x39 (32 + t.code) (vcode b) (vcode a) (vcode d) sw none none)
  | .vminn t d a b sw => some (mkF 0x39 (40 + t.code) (vcode b) (vcode a) (vcode d) sw none none)
  | .vmaxn t d a b sw => some (mkF 0x39 (48 + t.code) (vcode b) (vcode a) (vcode d) sw none none)
  | .vand t d a b sw => some (mkF 0x39 (56 + t.code) (vcode b) (vcode a) (vcode d) sw none none)
  | .vor t d a b sw => some (mkF 0x39 (64 + t.code) (vcode b) (vcode a) (vcode d) sw none none)
  | .vxor t d a b sw => some (mkF 0x39 (72 + t.code) (vcode b) (vcode a) (vcode d) sw none none)
  | .vshl t d a b sw => some (mkF 0x39 (80 + t.code) (vcode b) (vcode a) (vcode d) sw none none)
  | .vshr t d a b sw => some (mkF 0x39 (88 + t.code) (vcode b) (vcode a) (vcode d) sw none none)
  | .vsar t d a b sw => some (mkF 0x39 (96 + t.code) (vcode b) (vcode a) (vcode d) sw none none)
  | .vintVcmpeq t d a b sw => some (mkF 0x39 (104 + t.code) (vcode b) (vcode a) (kcode d) sw none none)
  | .vintVcmplt t d a b sw => some (mkF 0x39 (112 + t.code) (vcode b) (vcode a) (kcode d) sw none none)
  | .vcmpltn t d a b sw => some (mkF 0x39 (120 + t.code) (vcode b) (vcode a) (kcode d) sw none none)
  | .vbcast t d a sw => some (mkF 0x3A 0 (BitVec.ofNat 5 t.code) a.code (vcode d) sw none none)
  | .vmovs d a lane sw => some (mkF 0x3A 1 (BitVec.ofNat 5 lane.val) (vcode a) d.code sw none none)
  | .vins d a lane sw => some (mkF 0x3A 2 (BitVec.ofNat 5 lane.val) a.code (vcode d) sw none none)
  | .vshuf d a b sw => some (mkF 0x3A 3 b.code (vcode a) (vcode d) sw none b.litOf)
  | .vsel d a k w sw => some (mkF 0x3A 4 (BitVec.ofNat 5 (4 * w.code + k.val)) (vcode a) (vcode d) sw none none)
  | .vredadd t d a sw => some (mkF 0x3A 5 (BitVec.ofNat 5 t.code) (vcode a) d.code sw none none)
  | .vredmax t d a sw => some (mkF 0x3A 6 (BitVec.ofNat 5 t.code) (vcode a) d.code sw none none)
  | .vredmin t d a sw => some (mkF 0x3A 7 (BitVec.ofNat 5 t.code) (vcode a) d.code sw none none)
  | .kand d a b sw => some (mkF 0x3A 8 (kcode b) (kcode a) (kcode d) sw none none)
  | .kor d a b sw => some (mkF 0x3A 9 (kcode b) (kcode a) (kcode d) sw none none)
  | .kxor d a b sw => some (mkF 0x3A 10 (kcode b) (kcode a) (kcode d) sw none none)
  | .knot d a sw => some (mkF 0x3A 11 0#5 (kcode a) (kcode d) sw none none)
  | .kmov (.kk d a) sw => some (mkF 0x3A 12 0#5 (kcode a) (kcode d) sw none none)
  | .kmov (.sk d a) sw => some (mkF 0x3A 12 1#5 (kcode a) d.code sw none none)
  | .kmov (.ks d a) sw => some (mkF 0x3A 12 2#5 a.code (kcode d) sw none none)
  | .vzero d sw => some (mkF 0x3A 13 0#5 0#5 d.code sw none none)
  | .vmov d a sw => some (mkF 0x3A 14 0#5 (vcode a) (vcode d) sw none none)
  | .vcvt dt st sat d a sw => some (mkF 0x3B (16 * (dt.code % 8) + 2 * (st.code % 8) + b2n sat) (BitVec.ofNat 5 (2 * (dt.code / 8) + st.code / 8)) (vcode a) (vcode d) sw none none)
  | .vqblk d a b st kind n sw => some (mkF 0x3C 0 b.code a.code d.code sw (some (0#47 ++ n ++ BitVec.ofNat 4 kind.code ++ BitVec.ofNat 4 (8 + st.code))) b.litOf)
  | .vdqblk d a b dt kind n sw => some (mkF 0x3C 1 b.code a.code d.code sw (some (0#47 ++ n ++ BitVec.ofNat 4 kind.code ++ BitVec.ofNat 4 (8 + dt.code))) b.litOf)
  | .vscl d a b t sw => some (mkF 0x3C 2 b.code (vcode a) (vcode d) sw (some (0#60 ++ BitVec.ofNat 4 (8 + t.code))) b.litOf)
  | .hire batch z l o rk d a sw => some (mkF 0x40 (batch.val + 4 * b2n z + 8 * b2n l + 16 * b2n o + 32 * b2n rk) 0#5 a.code d.code sw none none)
  | .mma pair z batch d a b rows cols depth sw => some (mkF 0x41 (batch.val + 8 * b2n z + 16 * pair.code) b.code a.code d.code sw (some (0#16 ++ depth ++ cols ++ rows)) b.litOf)
  | .waitb d n sw => some (mkF 0x42 0 (BitVec.ofNat 5 n.val) 0#5 d.code sw none none)
  | .accget d n sw => some (mkF 0x42 1 n 0#5 d.code sw none none)
  | .accput a n sw => some (mkF 0x42 2 n a.code 0#5 sw none none)
  | .accz a n sw => some (mkF 0x42 3 n a.code 0#5 sw none none)
  | .accld a b sw => some (mkF 0x42 4 b.code a.code 0#5 sw none b.litOf)
  | .accst a b sw => some (mkF 0x42 5 b.code a.code 0#5 sw none b.litOf)
  | .hstat d a sw => some (mkF 0x42 6 0#5 a.code d.code sw none none)
  | .hcancel n sw => some (mkF 0x42 7 (BitVec.ofNat 5 n.val) 0#5 0#5 sw none none)
  | .accstm a b rows cols fmt stride sw => some (mkF 0x43 0 b.code a.code 0#5 sw (some (stride ++ 0#4 ++ BitVec.ofNat 4 fmt.code ++ cols ++ rows)) b.litOf)
  | .licreq sw => some (mkF 0x31 0 0#5 0#5 0#5 sw none none)
  | .licrel sw => some (mkF 0x31 1 0#5 0#5 0#5 sw none none)
  | .licst d sw => some (mkF 0x31 2 0#5 0#5 d.code sw none none)
  | .twsig n sw => some (mkF 0x31 3 (BitVec.ofNat 5 n.val) 0#5 0#5 sw none none)
  | .twwait d n sw => some (mkF 0x31 4 (BitVec.ofNat 5 n.val) 0#5 d.code sw none none)
  | .rank d a b sw => some (mkF 0x48 0 b.code a.code d.code sw none b.litOf)
  | .rsend c a b sw => some (mkF 0x48 1 b.code a.code (BitVec.ofNat 5 c.val) sw none b.litOf)
  | .rwacc d a b sw => some (mkF 0x48 2 b.code a.code d.code sw none b.litOf)
  | .rval d a b sw => some (mkF 0x48 3 b.code a.code d.code sw none b.litOf)
  | .rtld a n sw => some (mkF 0x48 4 (BitVec.ofNat 5 n.val) a.code 0#5 sw none none)
  | .rcnt d n sw => some (mkF 0x48 5 (BitVec.ofNat 5 n.val) 0#5 d.code sw none none)
  | .rclr n sw => some (mkF 0x48 6 (BitVec.ofNat 5 n.val) 0#5 0#5 sw none none)
  | .tnew d a b sw => some (mkF 0x4C 0 b.code a.code d.code sw none b.litOf)
  | .tapp d a b sw => some (mkF 0x4C 1 b.code a.code d.code sw none b.litOf)
  | .twalk d a b sw => some (mkF 0x4C 2 b.code a.code d.code sw none b.litOf)
  | .topen a b sw => some (mkF 0x4C 3 b.code a.code 0#5 sw none b.litOf)
  | .tsum d a b sw => some (mkF 0x4C 4 b.code a.code d.code sw none b.litOf)
  | .tstat d a sel sw => some (mkF 0x4C 5 (BitVec.ofNat 5 sel.val) a.code d.code sw none none)
  | .tdrop d a sw => some (mkF 0x4C 6 0#5 a.code d.code sw none none)
  | .put m a b sw => some (mkF 0x2E 0 b.code a.code (BitVec.ofNat 5 m.val) sw none b.litOf)
  | .take d m sw => some (mkF 0x2E 1 0#5 (BitVec.ofNat 5 m.val) d.code sw none none)
  | .peek d m sw => some (mkF 0x2E 2 0#5 (BitVec.ofNat 5 m.val) d.code sw none none)
  | .takef d m sw => some (mkF 0x2E 3 0#5 (BitVec.ofNat 5 m.val) d.code sw none none)
  | .pres d m sw => some (mkF 0x2E 4 0#5 (BitVec.ofNat 5 m.val) d.code sw none none)
  | .send c a n sw => some (mkF 0x2F 0 (BitVec.ofNat 5 n.val) a.code (BitVec.ofNat 5 c.val) sw none none)
  | .maskc c sw => some (mkF 0x2F 1 0#5 0#5 (BitVec.ofNat 5 c.val) sw none none)
  | .unmaskc c sw => some (mkF 0x2F 2 0#5 0#5 (BitVec.ofNat 5 c.val) sw none none)
  | .done sw => some (mkF 0x2F 3 0#5 0#5 0#5 sw none none)
  | .clsr d c sw => some (mkF 0x2F 4 (BitVec.ofNat 5 c.val) 0#5 d.code sw none none)
  | .spawn d a sw => some (mkF 0x30 0 0#5 a.code d.code sw none none)
  | .join a sw => some (mkF 0x30 1 0#5 a.code 0#5 sw none none)
  | .exit sw => some (mkF 0x30 2 0#5 0#5 0#5 sw none none)
  | .go a sw => some (mkF 0x30 3 0#5 a.code 0#5 sw none none)
  | .steald sc sw => some (mkF 0x30 4 0#5 0#5 (BitVec.ofNat 5 sc.code) sw none none)
  | .launch d a b t sw => some (mkF 0x32 0 b.code a.code d.code sw (some (0#32 ++ t)) b.litOf)
  | .trap b sw => some (mkF 0x60 0 b.code 0#5 0#5 sw none b.litOf)
  | .eret sw => some (mkF 0x60 1 0#5 0#5 0#5 sw none none)
  | .csrr d n sw => some (mkF 0x60 2 0#5 (BitVec.ofNat 5 n.val) d.code sw none none)
  | .csrw n b sw => some (mkF 0x60 3 b.code 0#5 (BitVec.ofNat 5 n.val) sw none b.litOf)
  | .csrs n b sw => some (mkF 0x60 4 b.code 0#5 (BitVec.ofNat 5 n.val) sw none b.litOf)
  | .csrc n b sw => some (mkF 0x60 5 b.code 0#5 (BitVec.ofNat 5 n.val) sw none b.litOf)
  | .bkpt sw => some (mkF 0x60 6 0#5 0#5 0#5 sw none none)
  | .chkpt sw => some (mkF 0x60 7 0#5 0#5 0#5 sw none none)
  | .spill sw => some (mkF 0x60 8 0#5 0#5 0#5 sw none none)
  | .fill sw => some (mkF 0x60 9 0#5 0#5 0#5 sw none none)
  | .htcinv a sw => some (mkF 0x60 10 0#5 a.code 0#5 sw none none)
  | .rdcyc d sw => some (mkF 0x60 11 0#5 0#5 d.code sw none none)
  | .ctxsv a dir sw => some (mkF 0x60 12 (BitVec.ofNat 5 (b2n dir)) a.code 0#5 sw none none)
  | .windowMove _ _ => none
  | .copyCompletion _ _ => none
  | .copyFault _ _ => none
  | .atomicExecute _ => none
  | .fshipExecute _ => none
  | .nearBankCompletion _ _ => none
  | .releaseComplete _ _ => none
  | .sliceAck _ => none
  | .barrierArrivalPerformed _ => none
  | .barwaitPoll _ _ => none
  | .waittExpiry _ _ => none
  | .sleepExpiry _ _ => none
  | .monitorPoll _ _ => none
  | .joinPoll _ _ => none
  | .blockScaleCompletion _ _ => none
  | .operandReadReturn _ _ _ => none
  | .stepBoundary _ => none
  | .hireCompletion _ _ => none
  | .waitbReturn _ _ => none
  | .heatRefill => none
  | .capHot _ => none
  | .caphotClear _ => none
  | .licenceHoldExpiry _ => none
  | .licenceGrant _ => none
  | .rankNetworkGrant _ => none
  | .rankArrival _ => none
  | .rwaccPop _ _ => none
  | .walkerStart _ => none
  | .walkerCompletion _ => none
  | .putArrival _ => none
  | .messageArrival _ => none
  | .handlerEntry _ => none
  | .handlong _ => none
  | .handlerEnd _ => none
  | .strandEnd _ _ => none
  | .goDepart _ _ => none
  | .goArrival _ => none
  | .goAcceptNotice _ => none
  | .goBounceReturn _ => none
  | .goResendTimeout _ _ => none
  | .arrivalTakesSlot _ _ => none
  | .dequePop _ _ _ _ => none
  | .stealRequest _ _ => none
  | .stealRecordArrival _ _ _ => none
  | .deviceGridEntry _ _ => none
  | .lateTrapEntry _ _ => none
  | .loadDataReturn _ => none
  | .bankAccess _ => none
  | .correctedRewrite _ => none
  | .packetHop _ => none
  | .translationWalkComplete _ => none
  | .codeCacheFill _ => none
  | .pagerResolution _ _ _ _ => none
  | .pageMove _ _ => none
  | .pageMoveCommit _ _ _ _ _ => none
  | .pageEvict _ _ _ => none
  | .pageClearComplete _ _ => none
  | .handleEntryCommit _ _ _ _ _ => none
  | .replicaForward _ => none
  | .clrouteWrite _ _ => none
  | .slotBind _ _ _ => none
  | .bindTeam _ _ _ _ _ _ _ => none
  | .quantumBoundary _ _ _ => none
  | .idleTeamSwap _ _ => none
  | .bindingStallReport _ => none
  | .teamSaveRequest _ _ => none
  | .saveDrained _ _ => none
  | .saveCommit _ _ => none
  | .teamRestore _ _ => none
  | .tailPoll _ => none
  | .nopCommand _ => none
  | .launchCommand _ _ => none
  | .copyCommand _ => none
  | .hintCommand _ => none
  | .fenceCommand _ => none
  | .jumpCommand _ => none
  | .commandCompletion _ _ => none
  | .registerStream _ _ => none
  | .unregisterStream _ => none
  | .setWindow _ => none
  | .setQuantum _ => none
  | .attest _ => none
  | .loadMuslinRoutine _ => none
  | .endGrid _ => none
  | .resetPartition _ => none
  | .createHandle _ _ _ => none
  | .freeHandle _ => none
  | .setFillList _ _ => none
  | .registerGridImage _ => none
  | .retireGridImage _ => none
  | .readCounter _ => none
  | .powerState _ => none
  | .powerStateEffect => none
  | .setPartition _ => none
  | .restart _ => none
  | .functionLevelReset _ => none
  | .partReset => none
  | .start _ _ => none
  | .linkTraining _ _ => none
  | .jorlinkFlit _ => none
  | .peerVersionRefusal _ => none
  | .portRetire _ => none
  | .reductionComplete _ => none
  | .reductionFail _ => none
  | .goResendRequestArrival _ => none
  | .unknownRequestCode _ => none
  | .unknownCommandOp _ => none

/-- The words of an instruction (04 R64-R70); an event has none. -/
def encode (i : Instr) : List IWord :=
  match encodeFields i with
  | some x => x.words
  | none => []

/-- Word j of an instruction whose bits are w, numbered as spec/opcode_table.json numbers them. -/
def tableWord (w j : Nat) : IWord := BitVec.ofNat 32 (w >>> (32 * j))

/-- The instruction the decoder reads from an instruction whose low nbits bits are w; every bit above them is zero
and the words run up to the longest instruction. -/
def decodeTableWord (nbits w : Nat) : Option Instr :=
  let w := w % 2 ^ nbits
  match decode [tableWord w 0, tableWord w 1, tableWord w 2, tableWord w 3, tableWord w 4] with
  | .ok (i, _) => some i
  | .error _ => none

end Sys2Proof
end

