-- ==== Sys2Proof/Machine/Ops.lean ====
section
/-! DEFINITION. The named operations over a strand and its cell: registers and their interlocks, finishing and parking an
instruction, entering a trap and returning from one, late traps, and the requests that leave a cell. -/

namespace Sys2Proof

/-- The registers a B operand reads. -/
def Src.regs : Src → List SReg
  | .reg r => [r]
  | .lit _ => []
/-- The words of an instruction with a B operand. -/
def Src.words : Src → Nat
  | .reg _ => 1
  | .lit _ => 3
/-- The words of an instruction with an immediate. -/
def Imm.words : Imm → Nat
  | .imm _ => 1
  | .lit _ => 3
/-- The value of an I-format immediate (04 R68, R69). -/
def Imm.value : Imm → Word
  | .imm v => v.signExtend 64
  | .lit v => v
/-- The byte offset of an M-format instruction of the access size (04 R68, R69). -/
def Imm.offset (size : Nat) : Imm → Word
  | .imm v => v.signExtend 64 * BitVec.ofNat 64 size
  | .lit v => v

end Sys2Proof

namespace Sys2Proof.Machine

open Sys2Proof

/-- The outcome of a step of this machine. -/
abbrev Out := Host.Outcome State Fault Refusal

/-- A 32-bit counter that holds at its maximum (08 R165). -/
def countUp (v : BitVec 32) : BitVec 32 := if v = BitVec.allOnes 32 then v else v + 1#32

/-! ### Homes (02 R37, R38) -/

/-- The bind record of a cell. -/
def State.recOf (s : State) (c : Nat) : Option BindRec :=
  (s.cell c).bind.map (fun b => s.bindRec b.1 b.2)

/-- The save of the cell's team has reached a phase (17 R320). -/
def State.saving (s : State) (c phase : Nat) : Bool := (s.recOf c).any (fun r => decide (phase ≤ r.saving))

/-- The cell's place in its team's rectangle: tile offsets x and y and the cell within its tile. -/
def placeIn (r : BindRec) (c : Nat) : Nat × Nat × Nat :=
  (c / 16 % 16 - r.x0.toNat, c / 256 % 16 - r.y0.toNat, c % 16)

/-- The home module cell id of a cell (02 R38). -/
def State.homeOf (s : State) (c : Nat) : Nat :=
  match s.recOf c with
  | none => c
  | some r =>
    let (x, y, k) := placeIn r c
    r.homeSg * 4096 + (r.homeY.toNat + y) * 256 + (r.homeX.toNat + x) * 16 + k

/-- The cell that a home number of the team stands for; none for a number outside the team's rectangle. -/
def homeToCell (sg : Nat) (r : BindRec) (h : Nat) : Option Nat :=
  let x := h / 16 % 16
  let y := h / 256 % 16
  if h / 4096 = r.homeSg ∧ r.homeX.toNat ≤ x ∧ x ≤ r.homeX.toNat + r.wm1.toNat ∧ r.homeY.toNat ≤ y
      ∧ y ≤ r.homeY.toNat + r.hm1.toNat then
    some (sg * 4096 + (r.y0.toNat + (y - r.homeY.toNat)) * 256 + (r.x0.toNat + (x - r.homeX.toNat)) * 16 + h % 16)
  else none

/-- The cell of the team of cell c that a home module cell id names. -/
def State.teamCell (s : State) (c h : Nat) : Option Nat :=
  match (s.cell c).bind with
  | none => none
  | some b => homeToCell b.1 (s.bindRec b.1 b.2) h

/-- A target cell number within the team's home column (14 R262). -/
def State.targetCell (s : State) (c : Nat) (v : Word) : Option Nat :=
  s.teamCell c (columnOf (s.homeOf c) * 65536 + v.toNat % 65536)

/-- The partition whose strands the cell runs; 0 when the cell is bound to none. -/
def State.partAt (s : State) (c : Nat) : Nat := ((s.recOf c).map (·.part.toNat)).getD 0

/-! ### Registers (06 R105-R110, R113) -/

/-- The twin cell holds strands of the same team (06 R110). -/
def State.twinPresent (s : State) (c : Nat) : Bool :=
  (s.cell c).bind.isSome && decide ((s.cell (twinOfCell c)).bind = (s.cell c).bind)

/-- A register in the bond as a cell of a die reads it: in the cycle of the other twin's write, its old value. -/
def Pair.readY (p : Pair) (now : Nat) (upper : Bool) (n : Fin 4) : Word :=
  match p.yw[n] with
  | some w => if w.cycle = now ∧ w.upper ≠ upper then w.old else p.y[n]
  | none => p.y[n]

/-- The register's value before the writes of this cycle. -/
def Pair.oldY (p : Pair) (now : Nat) (n : Fin 4) : Word :=
  match p.yw[n] with
  | some w => if w.cycle = now then w.old else p.y[n]
  | none => p.y[n]

/-- The upper die has written the register in this cycle, so that a write of the lower one does not stand. -/
def Pair.overruled (p : Pair) (now : Nat) (upper : Bool) (n : Fin 4) : Bool :=
  match p.yw[n] with
  | some w => decide (w.cycle = now) && w.upper && !upper
  | none => false

/-- A write to it: when both twins write in one cycle, the upper die's value stands. -/
def Pair.writeY (p : Pair) (now : Nat) (upper : Bool) (n : Fin 4) (v : Word) : Pair :=
  if p.overruled now upper n then p
  else { p with y := p.y.set n v, yw := p.yw.set n (some ⟨now, upper, p.oldY now n⟩) }

def State.yreg (s : State) (c : Nat) (n : Fin 4) : Word :=
  if s.twinPresent c then (s.pair (pairOf c)).readY s.cycle.toNat (dieOf c == 1) n else (s.cell c).y[n]

/-- A write of the register by the cell does not stand, for its twin in the upper die has written it in this cycle. -/
def State.yTaken (s : State) (c : Nat) (n : Fin 4) : Bool :=
  s.twinPresent c && (s.pair (pairOf c)).overruled s.cycle.toNat (dieOf c == 1) n

def State.setY (s : State) (c : Nat) (n : Fin 4) (v : Word) : State :=
  if s.twinPresent c then s.updPair (pairOf c) (fun p => p.writeY s.cycle.toNat (dieOf c == 1) n v)
  else s.updCell c (fun x => { x with y := x.y.set n v })

/-- si (02 R35). -/
def State.siOf (s : State) (i : SlotId) : Word :=
  let t := s.strand i
  if i.slot = 4 then
    BitVec.ofNat 64 (2 ^ 18 + 2 ^ 32 * (((s.recOf i.cell).map (·.team.toNat)).getD 0))
  else
    BitVec.ofNat 64 (t.sidx.toNat + 2 ^ 16 * i.slot.val + (if t.child then 2 ^ 31 else 0) + 2 ^ 32 * t.team.toNat)

def State.readReg (s : State) (i : SlotId) (r : SReg) : Word :=
  let t := s.strand i
  match r with
  | .a k => if t.sup then t.sa[k] else t.ra[k]
  | .l k => if t.sup then t.sl[k] else t.rl[k]
  | .n k => if t.sup then t.sn[k] else t.rn[k]
  | .zr => 0#64
  | .sp => t.sp
  | .ci => BitVec.ofNat 64 (s.homeOf i.cell)
  | .si => s.siOf i
  | .y n => s.yreg i.cell n

/-- A window register of the strand, or of the supervisor bank. -/
def Strand.setWin (t : Strand) (sup : Bool) (r : SReg) (v : Word) : Strand :=
  match r with
  | .a k => if sup then { t with sa := t.sa.set k v } else { t with ra := t.ra.set k v }
  | .l k => if sup then { t with sl := t.sl.set k v } else { t with rl := t.rl.set k v }
  | .n k => if sup then { t with sn := t.sn.set k v } else { t with rn := t.rn.set k v }
  | .sp => { t with sp := v }
  | _ => t

/-- Writes a register in the bank that sup names; zr discards, ci and si are never written (06 R109). -/
def State.writeRegIn (s : State) (i : SlotId) (sup : Bool) (r : SReg) (v : Word) : State :=
  match r with
  | .zr | .ci | .si => s
  | .y n => s.setY i.cell n v
  | r => s.upd i (·.setWin sup r v)

def State.writeReg (s : State) (i : SlotId) (r : SReg) (v : Word) : State :=
  s.writeRegIn i (s.strand i).sup r v

/-- The position of a window register's pending bit (06 R113). -/
def pendBit : SReg → Option Nat
  | .a k => some k.val
  | .l k => some (8 + k.val)
  | .n k => some (16 + k.val)
  | _ => none

def Strand.setPend (t : Strand) (r : SReg) (b : Bool) : Strand :=
  match pendBit r with
  | none => t
  | some j =>
    let m := BitVec.ofNat 24 (2 ^ j)
    { t with pend := if b then t.pend ||| m else t.pend &&& ~~~m }

/-- The register is pending; the supervisor bank has no pending bits (14 R280). -/
def Strand.pending (t : Strand) (r : SReg) : Bool :=
  !t.sup && (match pendBit r with | none => false | some j => t.pend.getLsbD j)

def Strand.anyPending (t : Strand) (rs : List SReg) : Bool := rs.any t.pending

/-! ### The issuing strand -/

def State.me (s : State) : Strand := s.strand s.cur
def State.reg (s : State) (r : SReg) : Word := s.readReg s.cur r
def State.src (s : State) : Src → Word
  | .reg r => s.reg r
  | .lit v => v

/-! ### Taking a trap and returning (17 R313, 14 R280) -/

def Cause.code : Cause → Nat
  | .ill => 0x01 | .priv => 0x02 | .addr => 0x03 | .prot => 0x04 | .privmem => 0x05 | .align => 0x06 | .page => 0x07
  | .poison => 0x08 | .spill => 0x09 | .fill => 0x0A | .accbusy => 0x0B | .hiref => 0x0C | .copyf => 0x0D
  | .order => 0x0E | .trapi => 0x0F | .bkpt => 0x10 | .sstep => 0x11 | .lockstep => 0x12 | .handlong => 0x13
  | .saveovf => 0x14 | .redfail => 0x15 | .ended => 0x16

/-- Trap entry: the status and its copy, EPC, ECAUSE, EVAL and EHSEQ, the supervisor bank, the handler's address. -/
def Strand.enterTrap (t : Strand) (c : Cause) (late : Bool) (epc eval : Word) (ehseq : BitVec 18) : Strand :=
  { t with
    psup := t.sup
    psstep := t.sstep
    sup := true
    sstep := false
    epc := epc
    ecause := BitVec.ofBool late ++ BitVec.ofNat 8 c.code
    eval := eval
    ehseq := ehseq
    sa := if t.sup then t.sa else Vector.replicate 8 0#64
    sl := if t.sup then t.sl else Vector.replicate 8 0#64
    sn := if t.sup then t.sn else Vector.replicate 8 0#64
    pc := t.tvec ++ 0#2
    status := .ready
    stepDue := false }

/-- ERET's effect once EPC is a multiple of 4. -/
def Strand.leaveTrap (t : Strand) : Strand :=
  { t with sup := t.psup, sstep := t.psstep, pc := t.epc, stepDue := false }

/-- The slot can issue again n cycles from now (09 R177, 17 R313). -/
def State.holdFor (s : State) (i : SlotId) (n : Nat) : State := s.upd i (fun t => { t with hold := s.cycle.toNat + n })

/-- A precise trap at the slot's instruction (17 R314): the handler issues 4 cycles later (R313). -/
def State.trapAt (s : State) (i : SlotId) (c : Cause) (eval : Word) : State :=
  (s.upd i (fun t => t.enterTrap c false t.pc eval 0#18)).holdFor i 4

/-- A precise trap at the issuing instruction. -/
def State.trap (s : State) (c : Cause) (eval : Word) : Out := .next (s.trapAt s.cur c eval)

/-- Word 0 of an instruction: EVAL of ILL and PRIV (04 R80). -/
def word0Of (i : Instr) : Word :=
  match encode i with
  | w :: _ => w.setWidth 64
  | [] => 0#64

/-- ILL found by an operand check (04 R80). -/
def State.ill (s : State) (i : Instr) : Out := s.trap .ill (word0Of i)
def State.priv (s : State) (i : Instr) : Out := s.trap .priv (word0Of i)

/-- A late trap reaches its slot while the strand that it is for is there (17 R316). -/
def State.late (s : State) (i : SlotId) (uid : Nat) (l : LateTrap) : State :=
  if (s.strand i).uid = uid ∧ (s.strand i).status ≠ .free then
    s.upd i (fun t => { t with late := t.late ++ [l] })
  else s

def State.lateOpt (s : State) (i : SlotId) (uid : Nat) : Option LateTrap → State
  | none => s
  | some l => s.late i uid l

/-- A wait that a strand leaves to take a late trap (R316); EXIT and DONE, which never issue again, too (14 R260). -/
def Wait.leaves : Wait → Bool
  | .take _ _ _ _ | .join _ _ | .waita _ _ | .waitt _ _ | .sleep _ | .barwait _ _ | .twwait _ _ | .exit | .done => true
  | _ => false

/-- The pending late trap may be entered: SUP is 0 and the slot could issue, or waits in a wait that it leaves. -/
def Strand.takesLate (t : Strand) : Bool :=
  !t.late.isEmpty && !t.sup && !t.stepDue
    && (match t.status with | .ready => true | .parked w => w.leaves | .free => false)

/-- A slot whose strand or handler has ended: Free, its registers as they were (02 R32, 14 R273), and nothing pending (06 R120,
17 R316). -/
def Strand.ended (t : Strand) : Strand :=
  { t with status := .free, late := [], stepDue := false, woken := false, clsmask := 0#8, pend := 0#24, ready := [], hold := 0 }

/-! ### Requests under way -/

/-- A flight that still owes its strand a result (02 R34). -/
def Dest.owed : Dest → Bool
  | .none => false
  | _ => true
/-- The scale bytes of LDF and STF. -/
def MemOp.scales : MemOp → List (Loc × Word)
  | .load _ ls => ls
  | .stf _ _ _ _ _ ls => ls
  | _ => []
def MemOp.dest : MemOp → Dest
  | .load d _ => d
  | .atomic _ _ _ _ d _ => d
  | .fship _ _ _ d _ _ _ => d
  | _ => .none
def Flight.owes (f : Flight) : Bool :=
  match f.body with
  | .mem op _ _ _ => op.dest.owed
  | .reply d _ _ => d.owed
  | _ => false
/-- The strand has a variable-latency result outstanding. -/
def State.owes (s : State) (uid : Nat) : Bool := s.net.any (fun f => f.uid == uid && f.owes)

/-- A write, or an operation that may write, not yet performed. -/
def MemOp.writes : MemOp → Bool
  | .load _ _ => false
  | _ => true
/-- It counts in its slot's port until performed: a write on the butterflies (01 R21). -/
def Flight.inPort (f : Flight) : Bool :=
  match f.body with
  | .mem op _ _ _ => op.writes && !f.packet
  | _ => false
/-- The port write count of a slot (01 R21). What a lockstep pair holds has not left (02 R47). -/
def State.portCount (s : State) (i : SlotId) : Nat :=
  (s.net.filter (fun f => decide (f.who = i) && f.inPort && f.heldBy.isNone)).length
/-- A write to slice b whose acknowledgement has not reached the issuing cell. -/
def State.sliceOpen (s : State) (uid b : Nat) : Bool :=
  s.net.any (fun f => f.uid == uid && f.slice == some b && f.heldBy.isNone)

/-! ### Windows (18 R341, R342) -/

def WindowEntry.valid (w : WindowEntry) : Bool := w.d0.getLsbD 0
def WindowEntry.canRead (w : WindowEntry) : Bool := w.d0.getLsbD 1
def WindowEntry.canWrite (w : WindowEntry) : Bool := w.d0.getLsbD 2
def WindowEntry.kind (w : WindowEntry) : Nat := (w.d0.extractLsb' 3 1).toNat
def WindowEntry.red (w : WindowEntry) : Nat := (w.d0.extractLsb' 4 3).toNat
def WindowEntry.ver (w : WindowEntry) : BitVec 8 := w.d0.extractLsb' 8 8
def WindowEntry.base (w : WindowEntry) : Nat := (w.d1.extractLsb' 0 56).toNat
def WindowEntry.size (w : WindowEntry) : Nat := (w.d2.extractLsb' 0 56).toNat

/-- The valid window of a kind that holds an offset, with its number. -/
def State.windowNoAt (s : State) (part kind off : Nat) : Option (Nat × WindowEntry) :=
  (s.partOf part).windows.find? (fun (e : Nat × WindowEntry) =>
    e.2.valid && decide (e.2.kind = kind) && decide (e.2.base ≤ off) && decide (off < e.2.base + e.2.size))
def State.windowAt (s : State) (part kind off : Nat) : Option WindowEntry := (s.windowNoAt part kind off).map Prod.snd

/-! ### Jorlink ports (01 R26, 18 R343, R346) -/

def State.port (s : State) (p : Nat) : Port := s.ports.get Port.zero p
def Port.up (p : Port) : Bool := p.trained && !p.retired

/-- The port through which a peer module is reached: the first that is up, counted from the module's id (log 25). -/
def State.portFor (s : State) (m : Nat) : Option Nat := ((List.range 16).map (fun k => (m + k) % 16)).find? (fun p => (s.port p).up)

/-- Where a request to a place goes: whether it is a packet of the mesh and fabric, and its stop (01 R19, R23). -/
def State.pathTo (s : State) (src : Nat) (l : Loc) : Bool × Stop :=
  match l.space with
  | .local => (decide (sgOf src ≠ sgOf l.unit), stopOfCell l.unit)
  | .cap | .hbm | .lpddr => (true, memStop l.unit)
  | .peer => (true, sysStop ((s.portFor l.unit).getD 0))
  | .host | .bar0 => (true, sysStop 0)

/-- The TSM bit of a write to a place; none inside the super-group (06 R119). -/
def sliceOf (src : Nat) (l : Loc) : Option Nat :=
  match l.space with
  | .local => if sgOf src = sgOf l.unit then none else some (columnOf l.unit)
  | .cap => some (16 + l.unit)
  | .hbm => some (32 + l.unit)
  | .lpddr => some 48
  | .host | .bar0 => some 49
  | .peer => some 50

/-- Sources hold new packets of a closed class (01 R30). -/
def State.classClosed (s : State) (c : BitVec 3) : Bool := s.closed.getLsbD c.toNat
/-- A packet may not leave: its class is closed, or no port to its peer is up. -/
def State.blocked (s : State) (c : BitVec 3) (src : Nat) (l : Loc) : Bool :=
  ((s.pathTo src l).1 && s.classClosed c) || (decide (l.space = .peer) && (s.portFor l.unit).isNone)

/-- VER of the window that an access of a peer went through. -/
def State.windowVer (s : State) (part : Nat) (l : Loc) (ea : Word) : BitVec 8 :=
  match l.space with
  | .peer => ((s.windowAt part 1 (ea.extractLsb' 0 56).toNat).map (·.ver)).getD 0#8
  | _ => 0#8

/-- The checkpoints that the pair of a lockstep strand has taken; 0 outside a lockstep team. -/
def State.epochOf (s : State) (i : SlotId) : Nat := if (s.strand i).lock then (s.pair (pairOf i.cell)).checkpoints else 0

/-- Adds a request for n bytes at a place. A write sets the TSM bit of its slice. -/
def State.request (s : State) (i : SlotId) (op : MemOp) (l : Loc) (n : Nat) (ea : Word) : State :=
  let t := s.strand i
  let (pk, dst) := s.pathTo i.cell l
  let slice := if op.writes then sliceOf i.cell l else none
  let f : Flight := {
    who := i, uid := t.uid, sup := t.sup, body := .mem op l n ea, srcCell := i.cell,
    dstCell := (match l.space with | .local => some l.unit | _ => none), cls := t.dcls, part := s.partAt i.cell,
    packet := pk, pos := stopOfCell i.cell, dst := dst, slice := slice,
    heldBy := if op.writes && !op.dest.owed && t.lock && decide (l.space ≠ .local ∨ l.unit ≠ i.cell) then some (pairOf i.cell) else none
    ver := s.windowVer (s.partAt i.cell) l ea, epoch := s.epochOf i, acqs := t.acqs }
  let s := { s with net := s.net ++ [f] }
  match slice with
  | none => s
  | some b => s.upd i (fun t => { t with tsm := t.tsm ||| BitVec.ofNat 51 (2 ^ b) })

/-- Adds a packet for another cell on route class cls. -/
def State.post (s : State) (i : SlotId) (uid : Nat) (body : Body) (target : Nat) (cls : BitVec 3) (hold : Bool) :
    State :=
  let f : Flight := {
    who := i, uid := uid, sup := false, body := body, srcCell := i.cell, dstCell := some target, cls := cls,
    part := s.partAt i.cell, packet := decide (sgOf i.cell ≠ sgOf target), pos := stopOfCell i.cell,
    dst := stopOfCell target, slice := none, heldBy := if hold then some (pairOf i.cell) else none }
  { s with net := s.net ++ [f] }

/-- A result that is already known but lands later: a read of y0-y3 while the twin is away (06 R110). -/
def State.reply (s : State) (i : SlotId) (d : Dest) (data : List Byte) : State :=
  let t := s.strand i
  let f : Flight := {
    who := i, uid := t.uid, sup := t.sup, body := .reply d data none, srcCell := i.cell, dstCell := some i.cell,
    cls := t.dcls, part := s.partAt i.cell, packet := false, pos := stopOfCell i.cell, dst := stopOfCell i.cell,
    slice := none, heldBy := none, epoch := s.epochOf i }
  { s with net := s.net ++ [f] }

/-! ### Finishing and parking (02 R32-R34, 17 R315) -/

/-- The instruction is done: the pc moves past its words, INSTRET counts it outside the supervisor, and SSTEP falls due
when it was set. -/
def Strand.retire (t : Strand) (words : Nat) : Strand :=
  { t with
    pc := t.pc + BitVec.ofNat 64 (4 * words)
    instret := if t.sup then t.instret else t.instret + 1#64
    stepDue := t.sstep && !t.sup
    status := .ready }

/-- A switch marker parks the strand while a result is outstanding. -/
def State.marked (s : State) (i : SlotId) (sw : Bool) : State :=
  if sw && s.owes (s.strand i).uid then s.upd i (fun t => { t with status := .parked .results, words := 0 }) else s

def State.finishAt (s : State) (i : SlotId) (words : Nat) (sw : Bool) : State :=
  (s.upd i (·.retire words)).marked i sw

/-- Ends the issuing instruction. -/
def State.finish (s : State) (words : Nat) (sw : Bool) : Out := .next (s.finishAt s.cur words sw)

/-- Parks the issuing strand in its instruction. -/
def State.park (s : State) (w : Wait) (words : Nat) (sw : Bool) : Out :=
  .next (s.upd s.cur (fun t => { t with status := .parked w, words := words, marker := sw }))

/-- Ends the instruction that a parked strand waits in. -/
def State.complete (s : State) (i : SlotId) : State :=
  let t := s.strand i
  s.finishAt i t.words t.marker

/-- Ends the instruction that a parked strand waits in, with an acquire: the strand goes on when its results have returned
(10 R196). -/
def State.completeAcquire (s : State) (i : SlotId) : State := s.finishAt i (s.strand i).words true

/-- A strand parked on the switch marker goes on when its last result has returned. -/
def State.wakeResults (s : State) (i : SlotId) : State :=
  let t := s.strand i
  match t.status with
  | .parked .results => if s.owes t.uid then s else s.upd i (fun t => { t with status := .ready })
  | _ => s

/-- A y register of an absent twin. Its value is taken from the store at once by every reader: a scalar instruction's result then
lands late, and a branch, LOOP, JMPR, CALLR, a base or a store's data acts at once; a posted write to it is seen by the next
read (DESIGN CHOICE, log 11). -/
def awayY (s : State) (r : SReg) : Bool :=
  match r with
  | .y _ => !s.twinPresent s.cur.cell
  | _ => false

/-- A scalar result: stalls on a pending source or destination, and lands late when a source is a y register of an absent
twin (02 R34, 06 R110, R113). -/
def scalarOp (s : State) (reads : List SReg) (d : SReg) (v : Word) (words : Nat) (sw : Bool) : Out :=
  if s.me.anyPending (d :: reads) then .next s
  else if reads.any (awayY s) then
    (s.reply s.cur (.reg d s.me.sup .zext) (leBytes 8 v.toNat)).finish words sw
  else (s.writeReg s.cur d v).finish words sw

/-- The class of an address (07 R125). -/
def addrClass (a : Word) : Nat := (a.extractLsb' 60 4).toNat

/-- What a request touches: its own bytes, and the scale bytes of LDF and STF, each with its address. -/
def Flight.spans (f : Flight) : List (Loc × Nat × Word) :=
  match f.body with
  | .mem op l n ea => (l, n, ea) :: op.scales.map (fun m => (m.1, 1, m.2))
  | .arrival l ea => [(l, 8, ea)]
  | _ => []

/-- Numbers a to a + n and b to b + k share a block of z. -/
def sameBlock (z a n b k : Nat) : Bool := decide (a / z ≤ (b + k - 1) / z) && decide (b / z ≤ (a + n - 1) / z)

/-- n bytes at one place and k bytes at another share a block of z bytes of one memory, or of one handle (REPL = 1: its copies). -/
def sameSpan (z : Nat) (l : Loc) (n : Nat) (ea : Word) (m : Loc) (k : Nat) (eb : Word) : Bool :=
  (decide (l.space = m.space) && decide (l.unit = m.unit) && sameBlock z l.addr n m.addr k)
    || (decide (addrClass ea = 2) && decide (addrClass eb = 2) && sameBlock z ea.toNat n eb.toNat k)

/-- The address of a request or held arrival. -/
def Flight.ea (f : Flight) : Option Word :=
  match f.body with
  | .mem _ _ _ ea => some ea
  | .arrival _ ea => some ea
  | _ => none

/-- A request reaches a column of an access of n bytes; an arrival that its barrier word holds reaches that word alone (10
R198). -/
def Flight.touches (g : Flight) (ea : Word) (l : Loc) (n : Nat) : Bool :=
  let z := match g.body with | .arrival .. => 8 | _ => 32
  g.spans.any (fun p => sameSpan z p.1 p.2.1 p.2.2 l n ea)

/-- Two requests reach one column. -/
def Flight.meets (g f : Flight) : Bool := f.spans.any (fun p => g.touches p.2.2 p.1 p.2.1)

/-- The page size of a PSZ code (07 R133). -/
def pageSize (z : BitVec 3) : Nat :=
  match z.toNat with
  | 0 => 2 ^ 12 | 1 => 2 ^ 14 | 2 => 2 ^ 16 | 3 => 2 ^ 21 | 4 => 2 ^ 25 | 5 => 2 ^ 30 | _ => 2 ^ 34

/-- An FSHIP whose page was not in HBM when it was translated: it is performed where the page then lies (log 12). -/
def Flight.unplaced (f : Flight) : Bool :=
  match f.body with
  | .mem (.fship _ _ _ _ _ _ placed) _ _ _ => !placed
  | _ => false

/-- The page of a class 2 address, by the firmware address of its map entry, and the place in the page. -/
def State.spotOf (s : State) (ea : Word) : Option (Nat × Nat) :=
  if addrClass ea = 2 then
    let h := (ea.extractLsb' 36 24).toNat
    let z := pageSize (s.handle h).psz
    some (s.pageKey h ((ea.extractLsb' 0 36).toNat / z), (ea.extractLsb' 0 36).toNat % z)
  else none

/-- Two addresses reach one column of a page, by handles that share it or by one. -/
def State.sameSpot (s : State) (ea : Word) (n : Nat) (eb : Word) (k : Nat) : Bool :=
  match s.spotOf ea, s.spotOf eb with
  | some x, some y => x.1 == y.1 && sameBlock 32 x.2 n y.2 k
  | _, _ => false

/-- Two requests reach one column of a page, as one with no place yet does (log 12), or by two handles that share it. -/
def State.aliases (s : State) (g f : Flight) : Bool :=
  g.spans.any (fun p => f.spans.any (fun q => s.sameSpot p.2.2 p.2.1 q.2.2 q.2.1))

/-- The handler slot. -/
def State.inHandler (s : State) : Bool := decide (s.cur.slot = 4)

/-! ### Reports (18 R334, R335) -/

/-- A byte offset of the BAR0 of a function: 0 is the physical one, v + 1 serves partition v + 1. -/
def barLoc (fn off : Nat) : Loc := ⟨.bar0, fn, off⟩

/-- A report of 64 bytes goes to record REPIDX mod 256 of the function's area, and REPIDX rises (18 R335). -/
def State.report (s : State) (fn : Nat) (x : Report) : State :=
  let p := s.partOf fn
  let area := if fn = 0 then Config.physicalReports else p.report.toNat
  let s := s.poke ⟨.host, fn, area + 64 * (p.reportIx % 256)⟩ ((List.range 64).map (Config.reportByte x))
  (s.poke (barLoc fn 0x18) (leBytes 8 (p.reportIx + 1))).updPart fn (fun p => { p with reportIx := p.reportIx + 1 })

/-! ### Events -/

/-- An event whose condition does not hold changes nothing. -/
def idle (s : State) : Out := .next s

end Sys2Proof.Machine
end

