-- ==== Sys2Proof/Machine/Operands.lean ====
section
/-! DEFINITION. The operand forms and the values that the integer members compute from them (09 R169-R172): sources,
literals, the W form, shift counts, bit fields and address arithmetic. -/

namespace Sys2Proof.Machine

open Sys2Proof

/-- A member with a W form: on 64 bits, or on bits [31:0] with the result sign-extended (09 R169). -/
def alu (w : Bool) (f : (n : Nat) → BitVec n → BitVec n → BitVec n) (a b : Word) : Word :=
  if w then (f 32 (a.setWidth 32) (b.setWidth 32)).signExtend 64 else f 64 a b

def valAdd (n : Nat) (a b : BitVec n) : BitVec n := a + b
def valSub (n : Nat) (a b : BitVec n) : BitVec n := a - b
def valMul (n : Nat) (a b : BitVec n) : BitVec n := a * b
/-- All ones for a zero divisor; otherwise truncated, and the least value by -1 is itself. -/
def valDiv (n : Nat) (a b : BitVec n) : BitVec n := if b = 0#n then BitVec.allOnes n else a.sdiv b
def valDivu (n : Nat) (a b : BitVec n) : BitVec n := if b = 0#n then BitVec.allOnes n else a / b
def valRem (n : Nat) (a b : BitVec n) : BitVec n := if b = 0#n then a else a.srem b
def valRemu (n : Nat) (a b : BitVec n) : BitVec n := if b = 0#n then a else a % b
/-- The shift count: b[5:0], or b[4:0] in the W form. -/
def shiftCount (n : Nat) (b : BitVec n) : Nat := b.toNat % n
def valShl (n : Nat) (a b : BitVec n) : BitVec n := a <<< shiftCount n b
def valShr (n : Nat) (a b : BitVec n) : BitVec n := a >>> shiftCount n b
def valSar (n : Nat) (a b : BitVec n) : BitVec n := a.sshiftRight (shiftCount n b)
def valRol (n : Nat) (a b : BitVec n) : BitVec n := a.rotateLeft (shiftCount n b)
def valMulh (a b : Word) : Word := (a.signExtend 128 * b.signExtend 128).extractLsb' 64 64
def valMulhn (a b : Word) : Word := (a.setWidth 128 * b.setWidth 128).extractLsb' 64 64

def boolWord (b : Bool) : Word := if b then 1#64 else 0#64

/-- The zero bits above the highest one bit. -/
def countLead (a : Word) : Nat := if a = 0#64 then 64 else 63 - Nat.log2 a.toNat
/-- The zero bits below the lowest one bit. -/
def countTrail : Nat → Nat → Nat
  | 0, _ => 0
  | n + 1, v => if v % 2 = 1 then 0 else 1 + countTrail n (v / 2)
def countOnes : Nat → Nat → Nat
  | 0, _ => 0
  | n + 1, v => v % 2 + countOnes n (v / 2)
def valClz (a : Word) : Word := BitVec.ofNat 64 (countLead a)
def valCtz (a : Word) : Word := BitVec.ofNat 64 (countTrail 64 a.toNat)
def valPopc (a : Word) : Word := BitVec.ofNat 64 (countOnes 64 a.toNat)
def valBswap (a : Word) : Word := leWord (leBytes 8 a.toNat).reverse

/-- BFX: bits [p+w-1:p], zero-extended (09 R171). -/
def valBfx (a : Word) (p w : Nat) : Word := BitVec.ofNat 64 (a.toNat / 2 ^ p % 2 ^ w)
/-- BFI: bits [p+w-1:p] of old replaced by a[w-1:0] (09 R171). -/
def valBfi (old a : Word) (p w : Nat) : Word :=
  let mask : Word := BitVec.ofNat 64 ((2 ^ w - 1) * 2 ^ p)
  (old &&& ~~~mask) ||| ((a <<< p) &&& mask)

/-- MKCA and MKHA use only the bits named (09 R172). -/
def valMkca (a b : Word) : Word :=
  0x1#4 ++ a.extractLsb' 16 4 ++ a.extractLsb' 0 16 ++ 0#24 ++ b.extractLsb' 0 16
def valMkha (a b : Word) : Word := 0x2#4 ++ a.extractLsb' 0 24 ++ b.extractLsb' 0 36
def valAcls (a : Word) : Word := BitVec.ofNat 64 (addrClass a)
def valAcol (ci a : Word) : Word :=
  match addrClass a with
  | 0 => (ci.extractLsb' 16 4).setWidth 64
  | 1 => (a.extractLsb' 56 4).setWidth 64
  | _ => BitVec.allOnes 64
def valAcell (ci a : Word) : Word :=
  match addrClass a with
  | 0 => (ci.extractLsb' 0 20).setWidth 64
  | 1 => (a.extractLsb' 56 4 ++ a.extractLsb' 40 16).setWidth 64
  | _ => BitVec.allOnes 64
def valTwinof (a : Word) : Word :=
  if addrClass a = 1 then a ^^^ BitVec.ofNat 64 (2 ^ 55) else a ^^^ BitVec.ofNat 64 (2 ^ 15)

/-! ### Shapes of the scalar members -/

/-- D := f a b with a scalar or literal B. -/
def opDAB (s : State) (d a : SReg) (b : Src) (sw : Bool) (f : Word → Word → Word) : Out :=
  scalarOp s (a :: b.regs) d (f (s.reg a) (s.src b)) b.words sw
/-- D := f a. -/
def opDA (s : State) (d a : SReg) (sw : Bool) (f : Word → Word) : Out := scalarOp s [a] d (f (s.reg a)) 1 sw
/-- D := f a imm. -/
def opDI (s : State) (d a : SReg) (i : Imm) (sw : Bool) (f : Word → Word → Word) : Out :=
  scalarOp s [a] d (f (s.reg a) i.value) i.words sw

end Sys2Proof.Machine
end

