-- ==== Sys2Proof/Machine/Control.lean ====
section
/-! DEFINITION. Branches, jumps, loops and the window moves of CALL, CALLR and RET (09 R174-R180, 06 R106, R108). -/

namespace Sys2Proof.Machine

open Sys2Proof

/-- A transfer of the slot: counted like any instruction, and the pc becomes the target. The next instruction issues 2 cycles later
(R177). -/
def State.transferAt (s : State) (i : SlotId) (target : Word) (sw : Bool) : State :=
  ((s.upd i (fun t => { t.retire 0 with pc := target })).holdFor i 2).marked i sw

/-- A displacement in words from the issuing instruction (04 R68). -/
def State.target {n : Nat} (s : State) (disp : BitVec n) : Word := s.me.pc + disp.signExtend 64 * 4#64

def isAligned (a : Word) (n : Nat) : Bool := decide (a.toNat % n = 0)

/-- A conditional branch (09 R174). -/
def branch (s : State) (a : SReg) (disp : BitVec 17) (sw : Bool) (taken : Word → Bool) : Out :=
  if s.me.anyPending [a] then .next s
  else if taken (s.reg a) then .next (s.transferAt s.cur (s.target disp) sw)
  else s.finish 1 sw

/-- BZ (09 R174): taken when a = 0. -/
def execBz (a : SReg) (disp : BitVec 17) (sw : Bool) (s : State) : Out := branch s a disp sw (fun v => v == 0#64)
/-- BNZ (09 R174): taken when a is not 0. -/
def execBnz (a : SReg) (disp : BitVec 17) (sw : Bool) (s : State) : Out := branch s a disp sw (fun v => v != 0#64)
/-- BLTZ (09 R174): taken when a < 0, signed. -/
def execBltz (a : SReg) (disp : BitVec 17) (sw : Bool) (s : State) : Out := branch s a disp sw (fun v => v.msb)
/-- BGEZ (09 R174): taken when a is at least 0, signed. -/
def execBgez (a : SReg) (disp : BitVec 17) (sw : Bool) (s : State) : Out := branch s a disp sw (fun v => !v.msb)

/-- LOOP (09 R175): decrements A and is taken when the new value is nonzero. -/
def execLoop (a : SReg) (disp : BitVec 17) (sw : Bool) (s : State) : Out :=
  if s.me.anyPending [a] then .next s
  else
    let v := s.reg a - 1#64
    let target := s.target disp
    let s := s.writeReg s.cur a v
    if v ≠ 0#64 then .next (s.transferAt s.cur target sw) else s.finish 1 sw

/-- JMP (09 R176). -/
def execJmp (disp : BitVec 22) (sw : Bool) (s : State) : Out := .next (s.transferAt s.cur (s.target disp) sw)

/-- JMPR (09 R176): ALIGN on a target that is no multiple of 4. -/
def execJmpr (a : SReg) (sw : Bool) (s : State) : Out :=
  if s.me.anyPending [a] then .next s
  else if isAligned (s.reg a) 4 then .next (s.transferAt s.cur (s.reg a) sw)
  else s.trap .align (s.reg a)

/-! ### Window moves -/

/-- The window may move: no result outstanding and no register pending (06 R108). -/
def State.windowFree (s : State) (i : SlotId) : Bool :=
  !s.owes (s.strand i).uid && decide ((s.strand i).pend = 0#24)

/-- The windows below the strand's current one. -/
def Strand.depth (t : Strand) : Nat := t.lower.length + t.wspill.toNat

/-- The register is one that a CALL writes as it makes window d current: its l registers, its n registers, and the return address
in a7. -/
def RegName.newIn : RegName → Nat → Bool
  | .l false e _, d => e == d
  | .a false e i, d => e == d + 1 || (e == d && i == 7)
  | _, _ => false

/-- CALL once it may move (09 R178 steps 3 to 6). -/
def State.moveCall (s : State) (i : SlotId) (target : Word) : State :=
  let t := s.strand i
  if t.lower.length = 3 then s.trapAt i .spill 0#64
  else
    (s.upd i (fun t =>
      { t.retire 1 with
        lower := ⟨t.ra, t.rl⟩ :: t.lower
        ra := t.rn.set (7 : Fin 8) (t.pc + 4#64)
        rl := Vector.replicate 8 0#64
        rn := Vector.replicate 8 0#64
        ready := t.ready.filter (fun e => !e.1.newIn (t.depth + 1))
        pc := target })).holdFor i 2

/-- RET once it may move (09 R179 steps 2 to 6). RET at the bottom with nothing spilled ends the strand as EXIT does. -/
def State.moveRet (s : State) (i : SlotId) : State :=
  let t := s.strand i
  match t.lower with
  | [] =>
    if t.wspill = 0#32 then s.upd i (fun t => { t with status := .parked .exit, words := 1 })
    else if isAligned t.ra[7] 4 then s.trapAt i .fill 0#64
    else s.trapAt i .align t.ra[7]
  | w :: ws =>
    if isAligned t.ra[7] 4 then
      (s.upd i (fun t => { t.retire 1 with lower := ws, rn := t.ra, ra := w.a, rl := w.l, pc := t.ra[7] })).holdFor i 2
    else s.trapAt i .align t.ra[7]

/-- CALL (09 R178): at once when nothing is outstanding, else parked until it may move. ILL in a handler (02 R45). -/
def execCall (disp : BitVec 22) (sw : Bool) (s : State) : Out :=
  if s.inHandler then s.ill (.call disp sw)
  else if s.windowFree s.cur then .next (s.moveCall s.cur (s.target disp))
  else s.park (.window (.call (s.target disp))) 1 sw

/-- CALLR (09 R178): the target is read in the caller's window and checked first. -/
def execCallr (a : SReg) (sw : Bool) (s : State) : Out :=
  if s.inHandler then s.ill (.callr a sw)
  else if s.me.anyPending [a] then .next s
  else if !isAligned (s.reg a) 4 then s.trap .align (s.reg a)
  else if s.windowFree s.cur then .next (s.moveCall s.cur (s.reg a))
  else s.park (.window (.call (s.reg a))) 1 sw

/-- RET (09 R179). -/
def execRet (sw : Bool) (s : State) : Out :=
  if s.inHandler then s.ill (.ret sw)
  else if s.windowFree s.cur then .next (s.moveRet s.cur)
  else s.park (.window .ret) 1 sw

end Sys2Proof.Machine
end

