-- ==== Sys2Proof/Machine/Timing.lean ====
section
/-! DEFINITION. Which registers an instruction reads and writes, and the interlocks on fixed-latency results: a strand that reads one
too soon, that needs a busy divider or that has just transferred is Stalled, and its cell issues other slots (02 R32, R34; 09 R167,
R177; 11 R201; 17 R313). -/

namespace Sys2Proof.Machine

open Sys2Proof

/-- A register that an instruction names. -/
inductive AnyReg where
  | s (r : SReg)
  | v (r : VReg)
  | k (r : KReg)
  deriving DecidableEq, Repr

/-- The scalar register, if it is one. -/
def AnyReg.scalar : AnyReg → Option SReg
  | .s r => some r
  | _ => none

/-- The storage of a register for a strand (06 R106): a register n of a window is the a register of the window above it. -/
def Strand.nameOf (t : Strand) (r : AnyReg) : RegName :=
  let d := if t.sup then 0 else t.depth
  match r with
  | .s (.a i) => .a t.sup d i
  | .s (.l i) => .l t.sup d i
  | .s (.n i) => .a t.sup (d + 1) i
  | .s r => .s r
  | .v r => .v r
  | .k r => .k r

/-- The registers that a B operand reads. -/
def bReads (b : Src) : List AnyReg := b.regs.map .s

/-- The registers that an instruction reads, those it reads by no name among them: the a7 of RET, and the n registers of SPAWN and
SEND. -/
def Instr.reads : Instr → List AnyReg
  | .add _ _ a b _ | .sub _ _ a b _ | .mul _ _ a b _ | .mulh _ a b _ | .mulhn _ a b _ | .div _ _ a b _ | .divu _ _ a b _
    | .rem _ _ a b _ | .remu _ _ a b _ | .and _ a b _ | .or _ a b _ | .xor _ a b _ | .andn _ a b _ | .orn _ a b _
    | .shl _ _ a b _ | .shr _ _ a b _ | .sar _ _ a b _ | .rol _ _ a b _ | .min _ a b _ | .max _ a b _ | .minu _ a b _
    | .maxu _ a b _ | .seq _ a b _ | .sne _ a b _ | .slt _ a b _ | .sltu _ a b _ | .sle _ a b _ | .sleu _ a b _
    | .lea0 _ a b _ | .lea1 _ a b _ | .lea2 _ a b _ | .lea3 _ a b _ | .mkca _ a b _ | .mkha _ a b _ | .ldx _ a b _
    | .pref a b _ | .cpy _ a b _ _ | .cpys _ a b _ _ _ _ _ | .gath _ a b _ _ _ | .scat _ a b _ _ _ | .cpyc _ a b _ _
    | .aadd _ _ a b _ | .amin _ _ a b _ | .amax _ _ a b _ | .aminu _ _ a b _ | .amaxu _ _ a b _ | .aand _ _ a b _
    | .aor _ _ a b _ | .axor _ _ a b _ | .axchg _ _ a b _ | .afadd32 _ a b _ | .afadd16 _ a b _ | .afmax32 _ a b _
    | .ndot _ _ a b _ _ | .barinit _ a b _ | .waita _ a b _ | .vqblk _ a b _ _ _ _ | .accld a b _ | .accst a b _
    | .accstm a b _ _ _ _ _ | .rank _ a b _ | .rsend _ a b _ | .tnew _ a b _ | .tapp _ a b _ | .twalk _ a b _
    | .topen a b _ | .put _ a b _ | .launch _ a b _ _ => [.s a] ++ bReads b
  | .sel d a b _ | .stx d a b _ | .acas _ d a b _ | .fship _ _ d a b _ | .vdqblk d a b _ _ _ _
    | .mma _ _ _ d a b _ _ _ _ | .rwacc d a b _ | .rval d a b _ | .tsum d a b _ => [.s d, .s a] ++ bReads b
  | .clz _ a _ | .ctz _ a _ | .popc _ a _ | .brev _ a _ | .bswap _ a _ | .sexb _ a _ | .sexh _ a _ | .sexw _ a _
    | .zexb _ a _ | .zexh _ a _ | .zexw _ a _ | .mov _ a _ | .addi _ a _ _ | .andi _ a _ _ | .ori _ a _ _
    | .xori _ a _ _ | .shli _ a _ _ | .shri _ a _ _ | .sari _ a _ _ | .slti _ a _ _ | .sltiu _ a _ _ | .muli _ a _ _
    | .bfx _ a _ _ _ | .acls _ a _ | .acol _ a _ | .acell _ a _ | .twinof _ a _ | .bz a _ _ | .bnz a _ _ | .bltz a _ _
    | .bgez a _ _ | .loop a _ _ | .jmpr a _ | .callr a _ | .ldb _ a _ _ | .ldbn _ a _ _ | .ldh _ a _ _ | .ldhn _ a _ _
    | .ldw _ a _ _ | .ldwn _ a _ _ | .ldd _ a _ _ | .ldv _ a _ _ | .ldf _ a _ _ | .hint a _ _ | .nsum _ _ a _ _
    | .nmax _ _ a _ _ | .tsmr _ _ a _ | .bararr a _ | .barwait a _ | .bartest _ a _ | .waitt _ a _ | .sleep a _
    | .vbcast _ _ a _ | .hire _ _ _ _ _ _ a _ | .accput a _ _ | .accz a _ _ | .hstat _ a _ | .rtld a _ _
    | .tstat _ a _ _ | .tdrop _ a _ | .join a _ | .go a _ | .htcinv a _ | .ctxsv a _ _ => [.s a]
  | .bfi d a _ _ _ | .stb d a _ _ | .sth d a _ _ | .stw d a _ _ | .std d a _ _ => [.s d, .s a]
  | .ret _ => [.s (.a 7)]
  | .stv d a _ _ | .vins d a _ _ => [.v d, .s a]
  | .stf d a _ _ => [.v d, .s a, .v (Fin.ofNat 16 (d.val + 8))]
  | .vfpVadd _ _ a b _ | .vfpVsub _ _ a b _ | .vfpVmul _ _ a b _ | .vfpVmin _ _ a b _ | .vfpVmax _ _ a b _
    | .vdiv _ _ a b _ | .vfpVcmpeq _ _ a b _ | .vfpVcmplt _ _ a b _ | .vcmple _ _ a b _ | .vintVadd _ _ a b _
    | .vintVsub _ _ a b _ | .vintVmul _ _ a b _ | .vintVmin _ _ a b _ | .vintVmax _ _ a b _ | .vminn _ _ a b _
    | .vmaxn _ _ a b _ | .vand _ _ a b _ | .vor _ _ a b _ | .vxor _ _ a b _ | .vshl _ _ a b _ | .vshr _ _ a b _
    | .vsar _ _ a b _ | .vintVcmpeq _ _ a b _ | .vintVcmplt _ _ a b _ | .vcmpltn _ _ a b _ => [.v a, .v b]
  | .vfma _ d a b _ => [.v d, .v a, .v b]
  | .vabs _ _ a _ | .vneg _ _ a _ | .vsqrt _ _ a _ | .vexp2 _ _ a _ | .vmovs _ a _ _ | .vredadd _ _ a _
    | .vredmax _ _ a _ | .vredmin _ _ a _ | .vmov _ a _ | .vcvt _ _ _ _ a _ => [.v a]
  | .vshuf _ a b _ | .vscl _ a b _ _ => [.v a] ++ bReads b
  | .vsel d a k _ _ => [.v d, .v a, .k k]
  | .kand _ a b _ | .kor _ a b _ | .kxor _ a b _ => [.k a, .k b]
  | .knot _ a _ => [.k a]
  | .kmov f _ => match f with | .kk _ a => [.k a] | .sk _ a => [.k a] | .ks _ a => [.s a]
  | .send _ a n _ => [.s a] ++ ((List.finRange 8).take n.val).map (fun k => .s (.n k))
  | .spawn d a _ => [.s d, .s a, .s (.n 0), .s (.n 1), .s (.n 2), .s (.n 3), .s (.n 4), .s (.n 5)]
  | .trap b _ | .csrw _ b _ | .csrs _ b _ | .csrc _ b _ => bReads b
  | .li .. | .jmp .. | .call .. | .rel .. | .acq .. | .fence .. | .yield .. | .vzero .. | .waitb .. | .accget ..
    | .hcancel .. | .licreq .. | .licrel .. | .licst .. | .twsig .. | .twwait .. | .rcnt .. | .rclr .. | .take ..
    | .peek .. | .takef .. | .pres .. | .maskc .. | .unmaskc .. | .done .. | .clsr .. | .exit .. | .steald .. | .eret ..
    | .csrr .. | .bkpt .. | .chkpt .. | .spill .. | .fill .. | .rdcyc .. | .windowMove .. | .copyCompletion ..
    | .copyFault .. | .atomicExecute .. | .fshipExecute .. | .nearBankCompletion .. | .releaseComplete .. | .sliceAck ..
    | .barrierArrivalPerformed .. | .barwaitPoll .. | .waittExpiry .. | .sleepExpiry .. | .monitorPoll .. | .joinPoll ..
    | .blockScaleCompletion .. | .operandReadReturn .. | .stepBoundary .. | .hireCompletion .. | .waitbReturn ..
    | .heatRefill | .capHot .. | .caphotClear .. | .licenceHoldExpiry .. | .licenceGrant .. | .rankNetworkGrant ..
    | .rankArrival .. | .rwaccPop .. | .walkerStart .. | .walkerCompletion .. | .putArrival .. | .messageArrival ..
    | .handlerEntry .. | .handlong .. | .handlerEnd .. | .strandEnd .. | .goDepart .. | .goArrival ..
    | .goAcceptNotice .. | .goBounceReturn .. | .goResendTimeout .. | .arrivalTakesSlot .. | .dequePop ..
    | .stealRequest .. | .stealRecordArrival .. | .deviceGridEntry .. | .lateTrapEntry .. | .loadDataReturn ..
    | .bankAccess .. | .correctedRewrite .. | .packetHop .. | .translationWalkComplete .. | .codeCacheFill ..
    | .pagerResolution .. | .pageMove .. | .pageMoveCommit .. | .pageEvict .. | .pageClearComplete ..
    | .handleEntryCommit .. | .replicaForward .. | .clrouteWrite .. | .slotBind .. | .bindTeam .. | .quantumBoundary ..
    | .idleTeamSwap .. | .bindingStallReport .. | .teamSaveRequest .. | .saveDrained .. | .saveCommit ..
    | .teamRestore .. | .tailPoll .. | .nopCommand .. | .launchCommand .. | .copyCommand .. | .hintCommand ..
    | .fenceCommand .. | .jumpCommand .. | .commandCompletion .. | .registerStream .. | .unregisterStream ..
    | .setWindow .. | .setQuantum .. | .attest .. | .loadMuslinRoutine .. | .endGrid .. | .resetPartition ..
    | .createHandle .. | .freeHandle .. | .setFillList .. | .registerGridImage .. | .retireGridImage ..
    | .readCounter .. | .powerState .. | .powerStateEffect | .setPartition .. | .restart .. | .functionLevelReset ..
    | .partReset | .start .. | .linkTraining .. | .jorlinkFlit .. | .peerVersionRefusal .. | .portRetire ..
    | .reductionComplete .. | .reductionFail .. | .goResendRequestArrival .. | .unknownRequestCode ..
    | .unknownCommandOp .. => []

/-- The registers that an instruction writes, at once or when its result lands. -/
def Instr.writes : Instr → List AnyReg
  | .add _ d _ _ _ | .sub _ d _ _ _ | .mul _ d _ _ _ | .mulh d _ _ _ | .mulhn d _ _ _ | .div _ d _ _ _ | .divu _ d _ _ _
    | .rem _ d _ _ _ | .remu _ d _ _ _ | .and d _ _ _ | .or d _ _ _ | .xor d _ _ _ | .andn d _ _ _ | .orn d _ _ _
    | .shl _ d _ _ _ | .shr _ d _ _ _ | .sar _ d _ _ _ | .rol _ d _ _ _ | .min d _ _ _ | .max d _ _ _ | .minu d _ _ _
    | .maxu d _ _ _ | .seq d _ _ _ | .sne d _ _ _ | .slt d _ _ _ | .sltu d _ _ _ | .sle d _ _ _ | .sleu d _ _ _
    | .sel d _ _ _ | .clz d _ _ | .ctz d _ _ | .popc d _ _ | .brev d _ _ | .bswap d _ _ | .sexb d _ _ | .sexh d _ _
    | .sexw d _ _ | .zexb d _ _ | .zexh d _ _ | .zexw d _ _ | .mov d _ _ | .addi d _ _ _ | .andi d _ _ _ | .ori d _ _ _
    | .xori d _ _ _ | .shli d _ _ _ | .shri d _ _ _ | .sari d _ _ _ | .slti d _ _ _ | .sltiu d _ _ _ | .muli d _ _ _
    | .li d _ _ | .bfx d _ _ _ _ | .bfi d _ _ _ _ | .lea0 d _ _ _ | .lea1 d _ _ _ | .lea2 d _ _ _ | .lea3 d _ _ _
    | .mkca d _ _ _ | .mkha d _ _ _ | .acls d _ _ | .acol d _ _ | .acell d _ _ | .twinof d _ _ | .ldb d _ _ _
    | .ldbn d _ _ _ | .ldh d _ _ _ | .ldhn d _ _ _ | .ldw d _ _ _ | .ldwn d _ _ _ | .ldd d _ _ _ | .ldx d _ _ _
    | .cpy d _ _ _ _ | .cpys d _ _ _ _ _ _ _ | .gath d _ _ _ _ _ | .scat d _ _ _ _ _ | .cpyc d _ _ _ _ | .aadd _ d _ _ _
    | .amin _ d _ _ _ | .amax _ d _ _ _ | .aminu _ d _ _ _ | .amaxu _ d _ _ _ | .aand _ d _ _ _ | .aor _ d _ _ _
    | .axor _ d _ _ _ | .axchg _ d _ _ _ | .acas _ d _ _ _ | .afadd32 d _ _ _ | .afadd16 d _ _ _ | .afmax32 d _ _ _
    | .fship _ _ d _ _ _ | .ndot _ d _ _ _ _ | .nsum _ d _ _ _ | .nmax _ d _ _ _ | .tsmr _ d _ _ | .bartest d _ _
    | .waita d _ _ _ | .waitt d _ _ | .vmovs d _ _ _ | .vredadd _ d _ _ | .vredmax _ d _ _ | .vredmin _ d _ _
    | .vqblk d _ _ _ _ _ _ | .vdqblk d _ _ _ _ _ _ | .hire _ _ _ _ _ d _ _ | .waitb d _ _ | .accget d _ _ | .hstat d _ _
    | .licst d _ | .twwait d _ _ | .rank d _ _ _ | .rcnt d _ _ | .tnew d _ _ _ | .tapp d _ _ _ | .twalk d _ _ _
    | .tstat d _ _ _ | .tdrop d _ _ | .take d _ _ | .peek d _ _ | .takef d _ _ | .pres d _ _ | .clsr d _ _
    | .launch d _ _ _ _ | .csrr d _ _ | .rdcyc d _ => [.s d]
  | .loop a _ _ => [.s a]
  | .ldv d _ _ _ | .vfpVadd _ d _ _ _ | .vfpVsub _ d _ _ _ | .vfpVmul _ d _ _ _ | .vfma _ d _ _ _ | .vfpVmin _ d _ _ _
    | .vfpVmax _ d _ _ _ | .vabs _ d _ _ | .vneg _ d _ _ | .vdiv _ d _ _ _ | .vsqrt _ d _ _ | .vexp2 _ d _ _
    | .vintVadd _ d _ _ _ | .vintVsub _ d _ _ _ | .vintVmul _ d _ _ _ | .vintVmin _ d _ _ _ | .vintVmax _ d _ _ _
    | .vminn _ d _ _ _ | .vmaxn _ d _ _ _ | .vand _ d _ _ _ | .vor _ d _ _ _ | .vxor _ d _ _ _ | .vshl _ d _ _ _
    | .vshr _ d _ _ _ | .vsar _ d _ _ _ | .vbcast _ d _ _ | .vins d _ _ _ | .vshuf d _ _ _ | .vsel d _ _ _ _
    | .vmov d _ _ | .vcvt _ _ _ d _ _ | .vscl d _ _ _ _ => [.v d]
  | .ldf d _ _ _ => [.v d, .v (Fin.ofNat 16 (d.val + 8))]
  | .vfpVcmpeq _ d _ _ _ | .vfpVcmplt _ d _ _ _ | .vcmple _ d _ _ _ | .vintVcmpeq _ d _ _ _ | .vintVcmplt _ d _ _ _
    | .vcmpltn _ d _ _ _ | .kand d _ _ _ | .kor d _ _ _ | .kxor d _ _ _ | .knot d _ _ => [.k d]
  | .kmov f _ => match f with | .kk d _ => [.k d] | .sk d _ => [.s d] | .ks d _ => [.k d]
  | .vzero d _ => match d with | .v r => [.v r] | .k r => [.k r]
  | .bz .. | .bnz .. | .bltz .. | .bgez .. | .jmp .. | .jmpr .. | .call .. | .callr .. | .ret .. | .stb .. | .sth ..
    | .stw .. | .std .. | .stv .. | .stf .. | .stx .. | .pref .. | .hint .. | .rel .. | .acq .. | .fence ..
    | .barinit .. | .bararr .. | .barwait .. | .yield .. | .sleep .. | .mma .. | .accput .. | .accz .. | .accld ..
    | .accst .. | .hcancel .. | .accstm .. | .licreq .. | .licrel .. | .twsig .. | .rsend .. | .rwacc .. | .rval ..
    | .rtld .. | .rclr .. | .topen .. | .tsum .. | .put .. | .send .. | .maskc .. | .unmaskc .. | .done .. | .spawn ..
    | .join .. | .exit .. | .go .. | .steald .. | .trap .. | .eret .. | .csrw .. | .csrs .. | .csrc .. | .bkpt ..
    | .chkpt .. | .spill .. | .fill .. | .htcinv .. | .ctxsv .. | .windowMove .. | .copyCompletion .. | .copyFault ..
    | .atomicExecute .. | .fshipExecute .. | .nearBankCompletion .. | .releaseComplete .. | .sliceAck ..
    | .barrierArrivalPerformed .. | .barwaitPoll .. | .waittExpiry .. | .sleepExpiry .. | .monitorPoll .. | .joinPoll ..
    | .blockScaleCompletion .. | .operandReadReturn .. | .stepBoundary .. | .hireCompletion .. | .waitbReturn ..
    | .heatRefill | .capHot .. | .caphotClear .. | .licenceHoldExpiry .. | .licenceGrant .. | .rankNetworkGrant ..
    | .rankArrival .. | .rwaccPop .. | .walkerStart .. | .walkerCompletion .. | .putArrival .. | .messageArrival ..
    | .handlerEntry .. | .handlong .. | .handlerEnd .. | .strandEnd .. | .goDepart .. | .goArrival ..
    | .goAcceptNotice .. | .goBounceReturn .. | .goResendTimeout .. | .arrivalTakesSlot .. | .dequePop ..
    | .stealRequest .. | .stealRecordArrival .. | .deviceGridEntry .. | .lateTrapEntry .. | .loadDataReturn ..
    | .bankAccess .. | .correctedRewrite .. | .packetHop .. | .translationWalkComplete .. | .codeCacheFill ..
    | .pagerResolution .. | .pageMove .. | .pageMoveCommit .. | .pageEvict .. | .pageClearComplete ..
    | .handleEntryCommit .. | .replicaForward .. | .clrouteWrite .. | .slotBind .. | .bindTeam .. | .quantumBoundary ..
    | .idleTeamSwap .. | .bindingStallReport .. | .teamSaveRequest .. | .saveDrained .. | .saveCommit ..
    | .teamRestore .. | .tailPoll .. | .nopCommand .. | .launchCommand .. | .copyCommand .. | .hintCommand ..
    | .fenceCommand .. | .jumpCommand .. | .commandCompletion .. | .registerStream .. | .unregisterStream ..
    | .setWindow .. | .setQuantum .. | .attest .. | .loadMuslinRoutine .. | .endGrid .. | .resetPartition ..
    | .createHandle .. | .freeHandle .. | .setFillList .. | .registerGridImage .. | .retireGridImage ..
    | .readCounter .. | .powerState .. | .powerStateEffect | .setPartition .. | .restart .. | .functionLevelReset ..
    | .partReset | .start .. | .linkTraining .. | .jorlinkFlit .. | .peerVersionRefusal .. | .portRetire ..
    | .reductionComplete .. | .reductionFail .. | .goResendRequestArrival .. | .unknownRequestCode ..
    | .unknownCommandOp .. => []

/-! ### Fixed latencies (09 R167, 11 R201) -/

/-- The instruction runs on its cell's divider. -/
def Instr.divides : Instr → Bool
  | .div .. | .divu .. | .rem .. | .remu .. => true
  | _ => false

/-- It runs on its cell's vector divider. -/
def Instr.vdivides : Instr → Bool
  | .vdiv .. | .vsqrt .. => true
  | _ => false

/-- The cycles from the issue until an instruction that reads the result can issue; 1 where the tables name no more. -/
def Instr.latency : Instr → Nat
  | .mul .. | .mulh .. | .mulhn .. | .muli .. => 3
  | .div w _ _ _ _ | .divu w _ _ _ _ | .rem w _ _ _ _ | .remu w _ _ _ _ => if w then 12 else 24
  | .vintVmul .. | .vredmax .. | .vredmin .. | .vfpVmin .. | .vfpVmax .. | .vabs .. | .vneg .. | .vfpVcmpeq .. | .vfpVcmplt ..
    | .vcmple .. | .vcvt .. => 3
  | .vfpVadd .. | .vfpVsub .. | .vfpVmul .. | .vfma .. | .vscl .. => 4
  | .vredadd ty _ _ _ => match ty with | .f32 | .f16 | .bf16 => 6 | _ => 3
  | .vexp2 .. => 8
  | .vdiv ty _ _ _ _ | .vsqrt ty _ _ _ => match ty with | .f32 => 16 | _ => 10
  | _ => 1

/-! ### Interlocks (02 R32, R34) -/

/-- A result of the strand that is not ready in a cycle. -/
def Strand.unready (t : Strand) (now : Nat) (r : AnyReg) : Bool :=
  t.ready.any (fun e => e.1 == t.nameOf r && decide (now < e.2))

/-- The slot's next instruction waits on a fixed-latency result or a busy divider. -/
def State.interlocked (s : State) (i : SlotId) (x : Instr) : Bool :=
  let now := s.cycle.toNat
  (Instr.reads x).any ((s.strand i).unready now) || (Instr.divides x && decide (now < (s.cell i.cell).sdiv))
    || (Instr.vdivides x && decide (now < (s.cell i.cell).vdiv))

/-- The results of an instruction that issues now: an older one of the same register is no longer waited for. -/
def Strand.noteResults (t : Strand) (now : Nat) (rs : List RegName) (latency : Nat) : Strand :=
  { t with ready := t.ready.filter (fun e => decide (now < e.2) && !rs.contains e.1)
      ++ (if 1 < latency then rs.map (fun r => (r, now + latency)) else []) }

/-- What an instruction that has issued in a slot leaves under way; its registers are named as it found them. -/
def State.noteResults (s : State) (i : SlotId) (x : Instr) (was : Strand) : State :=
  let now := s.cycle.toNat
  let n := Instr.latency x
  let s := s.upd i (fun t => t.noteResults now ((Instr.writes x).map was.nameOf) n)
  if Instr.divides x then s.updCell i.cell (fun c => { c with sdiv := now + n })
  else if Instr.vdivides x then s.updCell i.cell (fun c => { c with vdiv := now + n })
  else s

end Sys2Proof.Machine
end

