-- ==== Sys2Proof/Machine/Access.lean ====
section
/-! DEFINITION. Addresses and their checks (07 R125-R127), handles, translation and pages (R132-R141), class 3 windows
(18 R341, R342), and the issue of one access of a strand. -/

namespace Sys2Proof.Machine

open Sys2Proof

/-- For whom an access is made: a strand's own, or an engine's on behalf of its master. The writer is the one that a write is
logged for in a lockstep pair. -/
structure Who where
  agent : Agent
  slot : SlotId
  uid : Nat
  writer : Nat
  part : Nat
  sup : Bool
  splh : Word
  lock : Bool
  deriving DecidableEq, Repr

def State.whoAt (s : State) (i : SlotId) : Who :=
  let t := s.strand i
  ⟨.slot i, i, t.uid, i.cell, s.partAt i.cell, t.sup, t.splh, t.lock⟩

/-- The kind of permission an access needs (07 R132); a read as an atomic is made at the home copy of a replicated page (10
R190, R197, 07 R138). -/
inductive Perm where
  | read | readHome | write | exec
  deriving DecidableEq, Repr

/-- What the check of an access finds. -/
inductive Chk where
  | ok (l : Loc) (s : State)
  /-- The access waits: for a walk, a page in transit or being cleared. -/
  | stall (s : State)
  /-- The page is absent, and the pager has been asked for it. -/
  | absent (h p : Nat) (s : State)
  | bad (c : Cause) (ev : Word) (s : State)

/-! ### The address (07 R125) -/

inductive Target where
  | local (cell off : Nat)
  /-- A class 1 name of a cell: its module cell id, still a home number. -/
  | home (id off : Nat)
  | handle (h off : Nat)
  | window (kind off : Nat)
  deriving DecidableEq, Repr

/-- The class and must-be-zero fields; none raises ADDR. -/
def parseAddr (own : Nat) (ea : Word) : Option Target :=
  let off := (ea.extractLsb' 0 16).toNat
  match addrClass ea with
  | 0 => if ea.extractLsb' 16 44 = 0#44 ∧ off ≤ 0xBFFF then some (.local own off) else none
  | 1 =>
    let id := (ea.extractLsb' 56 4 ++ ea.extractLsb' 40 16).toNat
    if ea.extractLsb' 16 24 = 0#24 ∧ off ≤ 0xBFFF ∧ cellExists id then some (.home id off) else none
  | 2 =>
    let h := (ea.extractLsb' 36 24).toNat
    if h = 0 then none else some (.handle h (ea.extractLsb' 0 36).toNat)
  | 3 =>
    let k := (ea.extractLsb' 56 4).toNat
    if k < 2 then some (.window k (ea.extractLsb' 0 56).toNat) else none
  | _ => none

/-- The reduction window that an address lies in, with its number (18 R341, R344). -/
def State.redAt (s : State) (part : Nat) (ea : Word) : Option (Nat × WindowEntry) :=
  if addrClass ea = 3 then
    (s.windowNoAt part (ea.extractLsb' 56 4).toNat (ea.extractLsb' 0 56).toNat).filter (fun w => w.2.red != 0)
  else none

/-- The place a class 3 access reaches: host memory of the partition's function, or a peer's inbound map. A window with RED
is for copies alone (18 R344). -/
def State.windowLoc (s : State) (part kind off n : Nat) (p : Perm) : Option Loc :=
  match s.windowAt part kind off with
  | none => none
  | some w =>
    let okPerm : Bool := match p with | .read | .readHome => w.canRead | .write => w.canWrite | .exec => false
    if okPerm ∧ off + n ≤ w.base + w.size ∧ w.red = 0 then
      let t := w.d3.toNat + (off - w.base)
      if kind = 0 then some ⟨.host, part, t % 2 ^ 64⟩ else some ⟨.peer, w.d3.toNat / 2 ^ 48, t % 2 ^ 48⟩
    else none

/-! ### Handles and pages (07 R132-R141) -/

/-- Checks 4 to 6 of R127: the entry, the offset within it, its owner, the permission. -/
def State.checkHandle (s : State) (w : Who) (h off n : Nat) (p : Perm) : Option Cause :=
  let e := s.handle h
  if ¬ (e.v ∧ e.tenant.toNat = w.part) then some .prot
  else if ¬ (off + n ≤ e.limit.toNat + 1) then some .addr
  else if e.priv ∧ ¬ w.sup ∧ (e.ext.extractLsb' 0 24 = 0#24 ∨ e.ext.extractLsb' 0 24 ≠ w.splh.extractLsb' 36 24) then
    some .privmem
  else
    let okPerm : Bool := match p with | .read | .readHome => e.pr | .write => e.pw | .exec => e.px
    if okPerm then none else some .prot

/-- The byte place of a page in its frame (07 R134). -/
def pageLoc (x : Page) (off : Nat) : Loc :=
  let sp := match x.layer.toNat with | 0 => Space.cap | 1 => .hbm | _ => .lpddr
  ⟨sp, x.unit.toNat, x.frame.toNat * 4096 + off⟩

/-- Where a column's cap slice keeps replica k: a region of the model's own, above every frame, with room for 2^26 replicas of
the largest page (07 R138). -/
def replicaLoc (col k off : Nat) : Loc := ⟨.cap, col, 2 ^ 60 + k % 2 ^ 26 * 2 ^ 34 + off⟩

/-- The place of a byte in the column's replica of a page. -/
def Page.replica (x : Page) (col off : Nat) : Option Loc :=
  (x.replicas.find? (fun r => r.1 == col)).map (fun r => replicaLoc col r.2 off)

/-- The lowest number that no replica has. -/
def State.newReplica (s : State) : Nat :=
  let used := s.pages.flatMap (fun e => e.2.replicas.map Prod.snd)
  ((List.range (used.length + 1)).find? (fun n => !used.contains n)).getD 0

def TlbEntry.names (e : TlbEntry) (part h p psz : Nat) : Bool :=
  e.tenant == part && e.handle == h && e.page == p && e.psz == psz

/-- The entry moved to the front of a cache of n entries: least recently used is replaced (07 R135). -/
def touch (n : Nat) (e : TlbEntry) (l : List TlbEntry) : List TlbEntry :=
  (e :: l.filter (fun x => !x.names e.tenant e.handle e.page e.psz)).take n

/-- A miss joins the last walk of its page at the column's handle walker, up to 64 in each; the next one waits for a walk of
its own (07 R135). -/
def joinWalk (col part h p : Nat) (who : Nat × Agent) (ws : List Walk) : List Walk :=
  let mine (w : Walk) : Bool := w.col == col && w.tenant == part && w.handle == h && w.page == p
  if ws.any (fun w => mine w && decide (w.who.length < 64)) then
    ws.map (fun (w : Walk) => if mine w && decide (w.who.length < 64) then { w with who := w.who ++ [who] } else w)
  else ws ++ [⟨col, part, h, p, [who]⟩]

/-- Whether the tile's hub can translate the page now: a hub hit; a second-level hit, which fills the hub; or a miss,
which asks the column's handle walker. Each agent's miss counts once in HTCMISS (08 R165). -/
def State.translate (s : State) (a : Agent) (tile part h p psz : Nat) : Bool × State :=
  let hub := s.hub tile
  match hub.tlb.find? (·.names part h p psz) with
  | some e => (true, s.setHub tile { hub with tlb := touch 64 e hub.tlb })
  | none =>
    match (s.group (tile / 16)).l2.find? (·.names part h p psz) with
    | some e =>
      let s := s.setHub tile { hub with tlb := touch 64 e hub.tlb, htcmiss := hub.htcmiss + 1#64 }
      (true, s.updGroup (tile / 16) (fun g => { g with l2 := touch 1024 e g.l2 }))
    | none =>
      if s.walks.any (fun (w : Walk) =>
          w.tenant == part && w.handle == h && w.page == p && w.who.contains (tile, a)) then (false, s)
      else
        let s := s.setHub tile { hub with htcmiss := hub.htcmiss + 1#64 }
        (false, { s with walks := joinWalk (tile / 4096) part h p (tile, a) s.walks })

/-- The pager has failed for this agent's page; the mark is taken away when it is read. -/
def State.pageFailed (s : State) (a : Agent) (h p : Nat) : Option State :=
  match listFind (fun w => w.failed && w.handle == h && w.page == p && w.who == a) s.pageWaits with
  | some k => some { s with pageWaits := listErase s.pageWaits k }
  | none => none

def State.askPager (s : State) (a : Agent) (h p : Nat) : State :=
  if s.pageWaits.any (fun w => w.handle == h && w.page == p && w.who == a) then s
  else { s with pageWaits := s.pageWaits ++ [⟨h, p, a, false⟩] }

/-! ### Writes held at the walker (07 R137) -/

/-- The held write of an agent now. -/
def State.heldOf (s : State) (a : Agent) : HeldWrite :=
  match a with
  | .slot i => ⟨a, (s.strand i).uid, (s.strand i).pc⟩
  | .copy c i => ⟨a, (((s.cell c).copies[i]).map (·.uid)).getD 0, 0#64⟩
  | a => ⟨a, 0, 0#64⟩

/-- The write still waits: its agent is at the instruction, the copy, the hire or the walk that it was held for. -/
def State.stillHeld (s : State) (x : HeldWrite) : Bool :=
  s.heldOf x.who == x && (match x.who with
    | .slot i => decide ((s.strand i).status = .ready)
    | .copy c i => (s.cell c).copies[i].any (·.fault.isNone)
    | .hire t q u | .hireWrite t q u => (s.hub t).hires.any (fun r => r.seq == q && r.uid == u && decide (r.state ≠ .cancelled))
    | .walker g => (s.group g).running.isSome
    | _ => false)

/-- The writes still held at a page, in the order they were held. -/
def State.heldAtPage (s : State) (h p : Nat) : List HeldWrite := (s.page h p).held.filter s.stillHeld

/-- The write is not held behind another: the page does not move, and no write held earlier waits. -/
def State.mayWrite (s : State) (a : Agent) (h p : Nat) : Bool :=
  let x := s.page h p
  !x.transit && !x.clear && (match s.heldAtPage h p with | [] => true | w :: _ => w == s.heldOf a)

/-- The write waits at the page, behind those held there. -/
def State.holdWrite (s : State) (a : Agent) (h p : Nat) : State :=
  let ws := s.heldAtPage h p
  let w := s.heldOf a
  s.setPage h p { s.page h p with held := if ws.contains w then ws else ws ++ [w] }

/-- The write goes on. -/
def State.unholdWrite (s : State) (a : Agent) (h p : Nat) : State :=
  let x := s.page h p
  if x.held.isEmpty then s else s.setPage h p { x with held := x.held.filter (fun w => w.who != a) }

/-- The place that serves a read by a column of a present page: of a replicated page the column's replica, or the home copy,
which then creates one (07 R138). -/
def State.readPlace (s : State) (col h off : Nat) : Loc × State :=
  let e := s.handle h
  let z := pageSize e.psz
  let k := off / z
  let x := s.page h k
  if !e.repl then (pageLoc x (off % z), s)
  else match x.replica col (off % z) with
    | some l => (l, s)
    | none =>
      let n := s.newReplica
      (pageLoc x (off % z), (s.setPage h k { x with replicas := x.replicas ++ [(col, n)] }).carry (pageLoc x 0) (replicaLoc col n 0) z)

/-- Check 8 of R127 and the place reached, for n bytes of one page. promote names the layers from which the page is first
brought to HBM (07 R139, 10 R191). -/
def State.resolvePage (s : State) (w : Who) (ea : Word) (h off : Nat) (p : Perm) (promote : Nat → Bool) : Chk :=
  let e := s.handle h
  let z := pageSize e.psz
  let k := off / z
  let x := s.page h k
  if !x.p || promote x.layer.toNat then
    match s.pageFailed w.agent h k with
    | some s => .bad .page ea s
    | none => .absent h k (s.askPager w.agent h k)
  else if p == .write && !s.mayWrite w.agent h k then .stall (s.holdWrite w.agent h k)
  else
    match s.translate w.agent (tileOf w.slot.cell) w.part h k e.psz.toNat with
    | (false, s) => .stall s
    | (true, s) =>
      let s := if p == .write then s.unholdWrite w.agent h k else s
      if p == .read then let (l, s) := s.readPlace (columnOf w.slot.cell) h off; .ok l s
      else .ok (pageLoc x (off % z)) s

/-- Checks 1 to 8 of R127, in order, for n bytes with alignment al. -/
def State.check (s : State) (w : Who) (ea : Word) (n al : Nat) (p : Perm) (promote : Nat → Bool) : Chk :=
  let own := w.slot.cell
  let cellLoc (c off : Nat) : Chk :=
    if w.lock && decide (0xB000 ≤ off) then .bad .prot ea s else .ok ⟨.local, c, off⟩ s
  match parseAddr own ea with
  | none => .bad .addr ea s
  | some t =>
    if !isAligned ea al then .bad .align ea s
    else match t with
      | .local c off => cellLoc c off
      | .home id off =>
        match s.teamCell own id with
        | none => .bad .prot ea s
        | some c => cellLoc c off
      | .window k off =>
        match s.windowLoc w.part k off n p with
        | none => .bad .prot ea s
        | some l => .ok l s
      | .handle h off =>
        match s.checkHandle w h off n p with
        | some c => .bad c ea s
        | none => s.resolvePage w ea h off p promote

def noPromote : Nat → Bool := fun _ => false

/-- What the issuing instruction does after a check: it goes on, stalls, parks for the pager, or traps. -/
def afterCheck (r : Chk) (k : Loc → State → Out) : Out :=
  match r with
  | .ok l s => k l s
  | .stall s => .next s
  | .absent h q s => s.park (.page h q) 0 false
  | .bad c ev s => s.trap c ev

/-- The issuing strand's access. -/
def withAccess (s : State) (ea : Word) (n al : Nat) (p : Perm) (promote : Nat → Bool) (k : Loc → State → Out) : Out :=
  afterCheck (s.check (s.whoAt s.cur) ea n al p promote) k

end Sys2Proof.Machine
end

