-- ==== Sys2Proof/Machine/Order.lean ====
section
/-! DEFINITION. Order among accesses: replicas and their forwards (07 R138, 15 R287, R291), what goes before a request (01 R20, R22,
R29; 10 R182, R198; 15 R292), the turns of a bank (01 R20), and the accesses that a strand or an engine makes at once. -/

namespace Sys2Proof.Machine

open Sys2Proof

/-! ### Replicas (07 R138, 15 R287, R291) -/

/-- The home copy of a replicated page forwards a write to each replica (07 R138). -/
def State.forward (s : State) (uid : Nat) (core : Bool) (ea : Word) (bs : List Byte) : State :=
  match s.spotOf ea with
  | some (k, o) =>
    { s with forwards := s.forwards ++ (s.pages.get Page.zero k).replicas.map (fun r => ⟨s.tick, [uid], core, k, r.1, o, bs⟩) }
  | none => s

/-- The forward is of bytes that n bytes of a page overlap. -/
def Forward.meets (f : Forward) (k o n : Nat) : Bool :=
  decide (f.key = k) && decide (f.off < o + n) && decide (o < f.off + f.data.length)

/-- The column whose replica a place belongs to. -/
def replicaCol (l : Loc) : Option Nat := if l.space = .cap ∧ 2 ^ 60 ≤ l.addr then some l.unit else none

/-- A strand has read n bytes at an address, at the home copy or at a replica: it has seen every write whose value stood
there, so its releases at `mod` and `sys` cover the writes' forwards (15 R291). -/
def State.sees (s : State) (uid : Nat) (l : Loc) (ea : Word) (n : Nat) : State :=
  if s.forwards.isEmpty then s
  else match s.spotOf ea with
  | none => s
  | some (k, o) =>
    let due (w : Nat) : Bool := s.forwards.any (fun g => g.wid == w && some g.col == replicaCol l && g.meets k o n)
    { s with forwards := s.forwards.map (fun f =>
        if f.meets k o n && !due f.wid && !f.seen.contains uid then { f with seen := f.seen ++ [uid] } else f) }

/-- A write that the strand has made or seen has yet to come to the replica that it would read (15 R287). -/
def State.behind (s : State) (uid : Nat) (l : Loc) (ea : Word) (n : Nat) : Bool :=
  !s.forwards.isEmpty && (s.spotOf ea).any (fun p =>
    s.forwards.any (fun f => f.seen.contains uid && some f.col == replicaCol l && f.meets p.1 p.2 n))

/-! ### Order of delivery -/

/-- The bank of a cell that a request is for. -/
def Flight.bank (f : Flight) : Option (Nat × Nat) :=
  match f.body with
  | .mem _ l _ _ => if l.space = .local then some (l.unit, bankOf l.addr) else none
  | _ => none

/-- A packet for a cell: of PUT, TAKEF, SEND, RSEND and GO (01 R22). -/
def Flight.isPacket (f : Flight) : Bool :=
  match f.body with
  | .put .. | .msg _ | .rank .. | .go _ => true
  | _ => false

/-- A load, or an operation that returns a value, not yet performed. -/
def Flight.loads (f : Flight) : Bool :=
  match f.body with
  | .mem op _ _ _ => op.dest.owed
  | _ => false

/-- g, sent before f, goes before it. Accesses of one strand to one column are performed in order (10 R182), and an ACQ or
FENCE at `self` orders its strand's earlier loads before its later accesses (15 R292); requests of one cell to one bank on the
butterflies are performed in order (01 R20). Packets of a pair on the butterflies (R22) or on a dimension-ordered class (R29)
are delivered in order; what a lockstep pair holds has not left (02 R47). A barrier arrival that its word holds stands before its own strand's accesses alone (10 R198). -/
def Flight.before (adapt : BitVec 8) (g f : Flight) : Bool :=
  let lane := g.reached.isNone && g.heldBy.isNone && f.srcCell == g.srcCell && f.dstCell == g.dstCell
    && ((f.packet && g.packet && f.cls == g.cls && !adapt.getLsbD f.cls.toNat && f.dst == g.dst)
      || (!f.packet && !g.packet && f.isPacket && g.isPacket))
  let strand := g.uid == f.uid && f.ea.isSome && (g.meets f || (g.loads && decide (g.acqs < f.acqs)))
  let bank := g.heldBy.isNone && !f.packet && !g.packet && f.srcCell == g.srcCell && f.bank.isSome && g.bank == f.bank
  lane || strand || bank

/-- A peer performs a packet only when its VER is the current one of its window (18 R346). -/
def State.peerTakes (s : State) (f : Flight) : Bool :=
  match f.body with
  | .mem _ l _ ea => decide (l.space ≠ .peer) || s.windowVer f.part l ea == f.ver
  | _ => true

/-- g comes before f: by the rules of delivery, or as one of the strand's requests to a column of one page (10 R182). -/
def State.precedes (s : State) (f g : Flight) : Bool :=
  g.before s.adapt f || (g.uid == f.uid && s.aliases g f)

/-- The flight of index k comes to its end: the memory, the muslin core or the cell's port. Nothing that goes before it is
still under way. -/
def State.delivers (s : State) (k : Nat) (f : Flight) : Bool :=
  f.heldBy.isNone && f.reached.isNone && !(f.waits && s.classClosed f.cls) && (!f.packet || f.pos == f.dst)
    && !(s.net.take k).any (s.precedes f)
    && f.spans.all (fun p => !s.behind f.uid p.1 p.2.2 p.2.1)

/-- It stands there from this cycle on. -/
def State.arrive (s : State) (k : Nat) (f : Flight) : State :=
  { s with net := listSet s.net k { f with reached := some s.cycle.toNat, waits := false } }

/-- It came in an earlier cycle: what comes in one cycle is served in the order of the rule for it, in a later one. -/
def State.came (s : State) (f : Flight) : Bool := f.reached.any (fun c => decide (c < s.cycle.toNat))

/-! ### The banks' turns (01 R20) -/

/-- The port number of a request. -/
def Flight.port (f : Flight) : Nat := if f.packet then meshPort else f.srcCell % 65536

/-- How far a port stands after the one that a bank served last, in ascending order with the wrap from the mesh to 0. -/
def portTurn (last p : Nat) : Nat := (p + meshPort - last) % (meshPort + 1)

/-- It is the turn of a port at a bank of a cell: the bank has served nothing in this cycle, and no request that stands there
comes before it in the round-robin order. What an engine's unit reads and writes at a bank in one step has one turn (log 10). -/
def State.bankTurn (s : State) (c b p : Nat) : Bool :=
  let x := s.cell c
  let k := Fin.ofNat 4 b
  x.bankAt[k].any (fun a => a.2 == s.tick)
    || (!x.bankAt[k].any (fun a => a.1 == s.cycle.toNat)
      && !s.net.any (fun g => decide (g.bank = some (c, b)) && s.came g
        && decide (portTurn x.bankPort[k] g.port < portTurn x.bankPort[k] p)))

/-- The bank serves a port in this cycle. -/
def State.serveBank (s : State) (c b p : Nat) : State :=
  let n := (s.cycle.toNat, s.tick)
  s.updCell c (fun x => { x with
    bankPort := x.bankPort.set (Fin.ofNat 4 b) p, bankAt := x.bankAt.set (Fin.ofNat 4 b) (some n) })

/-- No earlier request of cell c to the bank of a place is still under way on the butterflies: they are performed in the order in
which the cell issued them. -/
def State.bankClear (s : State) (c : Nat) (l : Loc) : Bool :=
  !(decide (l.space = .local) && s.net.any (fun g => g.heldBy.isNone && !g.packet && g.srcCell == c
    && g.bank == some (l.unit, bankOf l.addr)))

/-- The port by which an access for a cell comes to a bank. -/
def portOf (c unit : Nat) : Nat := if sgOf c = sgOf unit then c % 65536 else meshPort

/-- A bank serves an access for a cell, when it is its turn. Other memories have no such turns. -/
def State.atTurn (s : State) (c : Nat) (l : Loc) : Option State :=
  match l.space with
  | .local =>
    if s.bankTurn l.unit (bankOf l.addr) (portOf c l.unit) then some (s.serveBank l.unit (bankOf l.addr) (portOf c l.unit)) else none
  | _ => some s

/-- An access made at once at a place, by a strand or an engine, for a cell: at a bank it takes its turn by that cell's port, after
the cell's earlier requests to that bank. None: it is not its turn. -/
def State.takeTurn (s : State) (c : Nat) (l : Loc) : Option State :=
  if s.bankClear c l then s.atTurn c l else none

/-! ### Accesses made at once (log 10) -/

/-- The request that a strand's access stands for. -/
def State.probe (s : State) (i : SlotId) (l : Loc) (n : Nat) (ea : Word) : Flight :=
  let t := s.strand i
  let (pk, dst) := s.pathTo i.cell l
  { who := i, uid := t.uid, sup := t.sup, body := .mem (.load .none []) l n ea, srcCell := i.cell,
    dstCell := (match l.space with | .local => some l.unit | _ => none), cls := t.dcls, part := s.partAt i.cell,
    packet := pk, pos := stopOfCell i.cell, dst := dst, slice := none, heldBy := none, acqs := t.acqs }

/-- A strand's access of n bytes has its turn: nothing under way goes before it (10 R182, 15 R287, R292), no write that it has seen
has yet to come to the replica, and its class is open. -/
def State.mayAccess (s : State) (i : SlotId) (l : Loc) (n : Nat) (ea : Word) : Bool :=
  !s.net.any (s.precedes (s.probe i l n ea)) && !s.behind (s.strand i).uid l ea n && !s.blocked (s.strand i).dcls i.cell l

/-- A strand reads n bytes at a place at once. None: it has to wait. -/
def State.access (s : State) (i : SlotId) (l : Loc) (n : Nat) (ea : Word) : Option State :=
  if s.mayAccess i l n ea then (s.takeTurn i.cell l).map (fun s => s.sees (s.strand i).uid l ea n) else none

/-- Several such reads of n bytes, each at its place and address. -/
def State.accessAll (s : State) (i : SlotId) (n : Nat) : List (Loc × Word) → Option State
  | [] => some s
  | (l, ea) :: ls => (s.access i l n ea).bind (fun s => s.accessAll i n ls)

end Sys2Proof.Machine
end

