-- ==== Sys2Proof/Machine/Array.lean ====
section
/-! DEFINITION. What the tile's array holds: the fields of a hire record (12 R216, 08 R147) and the accumulator slots with
their owners and check bits (06 R114, 07 R131). -/

namespace Sys2Proof.Machine

open Sys2Proof

/-! ### The fields of a hire (12 R216, 08 R147) -/

def Hire.field (r : Hire) (off n : Nat) : Nat := leNat ((r.block.drop off).take n)
def Hire.aaddr (r : Hire) : Word := BitVec.ofNat 64 (r.field 0x00 8)
def Hire.baddr (r : Hire) : Word := BitVec.ofNat 64 (r.field 0x08 8)
def Hire.daddr (r : Hire) : Word := BitVec.ofNat 64 (r.field 0x10 8)
def Hire.lda (r : Hire) : Nat := r.field 0x18 4
def Hire.ldb (r : Hire) : Nat := r.field 0x1C 4
def Hire.ldd (r : Hire) : Nat := r.field 0x20 4
def Hire.rows (r : Hire) : Nat := r.field 0x24 2
def Hire.cols (r : Hire) : Nat := r.field 0x26 2
def Hire.depth (r : Hire) : Nat := r.field 0x28 4
def Hire.fmtA (r : Hire) : Nat := r.field 0x2C 1
def Hire.fmtB (r : Hire) : Nat := r.field 0x2D 1
def Hire.fmtD (r : Hire) : Nat := r.field 0x2E 1
def Hire.flags (r : Hire) : Nat := r.field 0x2F 1
def Hire.ta (r : Hire) : Bool := decide (r.flags % 2 = 1)
def Hire.tb (r : Hire) : Bool := decide (r.flags / 2 % 2 = 1)
def Hire.sat (r : Hire) : Bool := decide (r.flags / 4 % 2 = 1)
def Hire.slotBase (r : Hire) : Nat := r.field 0x30 2
def Hire.rtab (r : Hire) : Nat := r.field 0x32 1
def Hire.rcount (r : Hire) : Nat := r.field 0x34 4

/-- Output tiles down and across, and depth blocks (12 R218). -/
def Hire.ti (r : Hire) : Nat := (r.rows + 15) / 16
def Hire.tj (r : Hire) : Nat := (r.cols + 15) / 16
def Hire.kb (r : Hire) : Nat := (r.depth + 15) / 16
/-- The accumulator slots that the hire covers. -/
def Hire.slotCount (r : Hire) : Nat := r.ti * r.tj
def Hire.slots (r : Hire) : List Nat := (List.range r.slotCount).map (r.slotBase + ·)

/-- The master of a hire. -/
def Hire.master (r : Hire) : SlotId := ⟨r.cell, r.slot⟩
def Hire.isOf (r : Hire) (i : SlotId) (uid : Nat) : Bool := decide (r.cell = i.cell) && r.slot == i.slot && r.uid == uid
def Hire.sameMaster (r q : Hire) : Bool := r.isOf q.master q.uid

/-! ### Accumulator slots (06 R114, 07 R131) -/

def Hub.owner (h : Hub) (k : Nat) : AccOwner := h.owners.get AccOwner.zero k
def State.updOwner (s : State) (t k : Nat) (f : AccOwner → AccOwner) : State :=
  s.updHub t (fun h => { h with owners := h.owners.set k (f (h.owner k)) })
def State.accElem (s : State) (t slot i j : Nat) : BitVec 32 := (s.hub t).acc.get 0#32 (256 * slot + 16 * i + j)
def State.setAcc (s : State) (t slot i j : Nat) (v : BitVec 32) : State :=
  s.updHub t (fun h => { h with acc := h.acc.set (256 * slot + 16 * i + j) v })
/-- The slot belongs to the strand in slot i. -/
def AccOwner.isOf (o : AccOwner) (i : SlotId) : Bool := o.state != 0#2 && o.cell == i.cell && o.slot == i.slot

/-- +0 in every element of a slot. -/
def State.zeroSlot (s : State) (t slot : Nat) : State :=
  s.updHub t (fun h =>
    { h with
      acc := h.acc.filter (fun e => !(decide (256 * slot ≤ e.1) && decide (e.1 < 256 * slot + 256)))
      accBad := h.accBad.filter (fun e => !(decide (32 * slot ≤ e.1) && decide (e.1 < 32 * slot + 32))) })

/-- The units with one of them written with fresh check bits. -/
def freshUnit (bad : Table (List Nat)) (u : Nat) : Table (List Nat) := bad.filter (fun e => e.1 != u)

/-- The check of a 32-byte unit of a slot before it is read, by the code of 07 R128: a syndrome of a single bit is corrected;
any other makes its eight elements poison, and answers the late trap of R131. -/
def State.checkUnit (s : State) (t slot u : Nat) : Option LateTrap × State :=
  let ps := (s.hub t).accBad.get [] (32 * slot + u)
  if judge ps = .clean then (none, s)
  else
    let s := s.updHub t (fun h => { h with accBad := freshUnit h.accBad (32 * slot + u), accerr := countUp h.accerr })
    match judge ps with
    | .clean | .corrected _ => (none, s)
    | .bad _ =>
      let s := (List.range 8).foldl (fun (s : State) j => s.setAcc t slot (u / 2) (8 * (u % 2) + j) 0x7FE00000#32) s
      let seq := ((s.hub t).owner slot).lastSeq
      (some ⟨.poison, BitVec.ofNat 64 (0xF * 2 ^ 60 + u * 2 ^ 7 + slot), 1#2 ++ seq⟩, s)

def State.checkUnits (s : State) (t slot : Nat) : List Nat → List LateTrap × State
  | [] => ([], s)
  | u :: us =>
    let (l, s) := s.checkUnit t slot u
    let (ls, s) := s.checkUnits t slot us
    (l.toList ++ ls, s)

/-- A slot that its owner gives up: the number of the last hire that wrote it stays (07 R131). -/
def AccOwner.freed (o : AccOwner) : AccOwner := { AccOwner.zero with lastSeq := o.lastSeq }

/-- The owners with the slots of a property Free. -/
def freeOwners (p : AccOwner → Bool) (owners : Table AccOwner) : Table AccOwner :=
  (owners.map (fun (e : Nat × AccOwner) => if p e.2 then (e.1, e.2.freed) else e)).filter (fun e => e.2 ≠ AccOwner.zero)

/-! ### Rank tables (08 R152) -/

/-- The column of element r of rank table t, among the 64 of a cell. -/
def rankColumn (t r : Nat) : Nat := 16 * t + r / 16

/-- The check of a column of the rank tables before its elements are used, as of a bank's (07 R129): true when it is poisoned. -/
def State.checkRankColumn (s : State) (c col : Nat) : Bool × State :=
  match judge ((s.cell c).rankBad.get [] col) with
  | .clean => (false, s)
  | .corrected _ => (false, s.updCell c (fun x => { x with rankBad := freshUnit x.rankBad col }))
  | .bad _ => (true, s)

/-- Checks columns of the rank tables: the poisoned ones. -/
def State.checkRankColumns (s : State) (c : Nat) : List Nat → List Nat × State
  | [] => ([], s)
  | k :: ks =>
    let (bad, s) := s.checkRankColumn c k
    let (bs, s) := s.checkRankColumns c ks
    (if bad then k :: bs else bs, s)

/-- An element of a rank table as its reader takes it: f16 poison from a poisoned column (07 R130). -/
def Cell.rankValue (x : Cell) (bad : List Nat) (t r : Nat) : BitVec 16 :=
  if bad.contains (rankColumn t r) then 0x7F00#16 else x.rankTab.get 0#16 (256 * t + r)

/-- The units that hold the elements of rows and columns of a slot. -/
def unitsHit (rows cols : List Nat) : List Nat :=
  (List.range 32).filter (fun u => rows.contains (u / 2) && cols.any (fun j => j / 8 == u % 2))

end Sys2Proof.Machine
end

