-- ==== Sys2Proof/Machine/Lockstep.lean ====
section
/-! DEFINITION. Lockstep pairs: the checkpoint, the comparison and the rollback (02 R47, R48, 17 R331). A pair is one
execution, on its lower twin; the upper twin's registers and memory equal the lower's until the outside world makes the
twins differ (log 9). -/

namespace Sys2Proof.Machine

open Sys2Proof

/-- The instructions the lower twin's strands have run, those that have left since the checkpoint among them: the count of a
mismatch's point (17 R331). -/
def State.pairCount (s : State) (p : Nat) : Nat :=
  ((s.cell p).strands.toList.map (fun t => if t.status = .free then 0 else t.instret.toNat)).sum + (s.pair p).gone

/-- The saved context of a lockstep slot's strand. -/
def Pair.savedOf (q : Pair) (k : Fin 5) (uid : Nat) : Option Strand :=
  (q.saved.find? (fun (v : Saved) => v.slot == k && v.ctx.uid == uid)).map (·.ctx)
def State.savedOf (s : State) (i : SlotId) (uid : Nat) : Option Strand := (s.pair (pairOf i.cell)).savedOf i.slot uid

/-- What comes to a strand for an operation that its pair's last checkpoint found under way, or from outside, comes to the saved
context too, as no rollback makes it come again (02 R49). -/
def State.updKept (s : State) (i : SlotId) (uid : Nat) (g : Strand → Strand) : State :=
  if (s.savedOf i uid).isSome then
    s.updPair (pairOf i.cell) (fun q => { q with saved := q.saved.map (fun (v : Saved) =>
      if v.slot == i.slot && v.ctx.uid == uid then { v with ctx := g v.ctx } else v) })
  else s

/-- A strand or handler leaves its slot: its instructions still count. -/
def State.leaveCount (s : State) (i : SlotId) : State :=
  let t := s.strand i
  if t.lock then s.updPair (pairOf i.cell) (fun q => { q with gone := q.gone + t.instret.toNat }) else s

/-- A strand has left its slot by what no rollback undoes: it is no longer among what one restores. -/
def State.forgetSlot (s : State) (i : SlotId) (uid : Nat) : State :=
  match s.savedOf i uid with
  | none => s
  | some t => s.updPair (pairOf i.cell) (fun q => { q with
      saved := q.saved.filter (fun (v : Saved) => !(v.slot == i.slot && v.ctx.uid == uid))
      baseline := q.baseline - t.instret.toNat
      gone := q.gone - t.instret.toNat })

/-- Undoes the log: the newest entry first. -/
def undo (m : List Host.Cell) : List (Nat × Byte) → List Host.Cell
  | [] => m
  | (k, b) :: l => undo (Memory.set m k b) l

/-- The queue without the held hires of a cell: the slots that they cover are no longer Busy for them (02 R47). -/
def Hub.dropHeld (h : Hub) (c : Nat) : Hub :=
  let gone := h.hires.filter (fun (r : Hire) => r.held && r.cell == c)
  { h with
    hires := h.hires.filter (fun (r : Hire) => !(r.held && r.cell == c))
    owners := gone.foldl (fun (o : Table AccOwner) r => r.slots.foldl (fun (o : Table AccOwner) k =>
      let w := o.get AccOwner.zero k
      o.set k { w with state := if w.busy ≤ 1 then 1#2 else w.state, busy := w.busy - 1 }) o) h.owners }

/-- Every other strand of the team takes LOCKSTEP late; the pair's strands end, and the host is told (02 R48, 17 R331). -/
def State.fence (s : State) (p : Nat) : State :=
  let team := (s.cell p).bind
  let l : LateTrap := ⟨.lockstep, BitVec.ofNat 64 p, 0#18⟩
  let warn (x : Cell) : Cell :=
    { x with strands := x.strands.map (fun t => if t.status = .free then t else { t with late := t.late ++ [l] }) }
  let s := { s with cells := s.cells.map (fun (e : Nat × Cell) =>
    if e.1 = p ∨ ¬ (e.2.bind = team ∧ team.isSome) then e else (e.1, warn e.2)) }
  let s := { s with pairs := s.pairs.map (fun (e : Nat × Pair) =>
    if e.1 = p ∨ ¬ ((s.cell e.1).bind = team ∧ team.isSome) then e
    else (e.1, { e.2 with saved := e.2.saved.map (fun (v : Saved) => { v with ctx := { v.ctx with late := v.ctx.late ++ [l] } }) })) }
  let s := s.updCell p (fun x => { x with strands := x.strands.map Strand.ended })
  let s := { s with net := s.net.filter (fun (f : Flight) => f.heldBy != some p) }.updPair p (fun q =>
    { q with fenced := true, saved := [], diverged := false, mismatch := none, rollbacks := 0,
             lslast := countUp q.lslast })
  (s.updHub (tileOf p) (·.dropHeld p)).report (s.partAt p) (.lockstep p)

/-- A taken value stands in its post register again, before the value that has come since. -/
def Cell.untake (x : Cell) (h : HeldPost) : Cell :=
  let now := x.posts[h.m]
  let held := if now.present then ⟨h.m, h.src, now.value, now.scope⟩ :: x.held else x.held
  { x with posts := x.posts.set h.m ⟨h.value, true, h.scope⟩, held := held }

/-- The pending bit of a token, in or out of the supervisor. -/
def Strand.tokenOpen (t : Strand) (r : SReg) : Bool := (pendBit r).any (fun j => t.pend.getLsbD j)

/-- A saved strand as it goes on: a wait for results is over when none is owed, a TAKE or PEEK whose register is present now issues
again, and so do an access whose page was absent and a WAITA, whose monitor may have fired (02 R49). -/
def Strand.again (t : Strand) (owes : Bool) (present : PostIx → Bool) : Strand :=
  match t.status with
  | .parked .results => if owes then t else { t with status := .ready }
  | .parked (.page _ _) | .parked (.waita _ _) => { t with status := .ready }
  | .parked (.take _ m _ _) => if present m then { t with status := .ready } else t
  | _ => t

/-- The cell as its pair's checkpoint found it, but for what has come from outside since: registers, bank operations, the hire
record ring, taken posts, entered messages, the child records pushed and popped, and the copies issued since, whose tokens were
not pending (02 R48, R49). -/
def Cell.rolledBack (x : Cell) (q : Pair) (owes : Nat → Bool) : Cell :=
  let kept (k : Fin 5) : Option Strand := (q.saved.find? (fun (v : Saved) => v.slot == k)).map (·.ctx)
  let x := q.taken.foldr (fun h (x : Cell) => x.untake h) x
  let back (t : Strand) : Strand := t.again (owes t.uid) (fun m => x.posts[m].present)
  { x with
    strands := Vector.ofFn (fun (k : Fin 5) => ((kept k).map back).getD (x.strands[k] : Strand).ended)
    near := q.savedNear
    blk := q.savedBlk
    ranking := q.savedRanking.map (fun (r : RankRun) => if r.out.isSome then r else { r with granted := false, read := [] })
    ring := q.savedRing
    inbox := q.entered ++ x.inbox
    deque := x.deque.take (x.deque.length - q.pushed) ++ q.popped
    copies := x.copies.map (fun (c : Option Copy) => c.filter (fun c => (kept c.slot).any (·.tokenOpen c.token))) }

/-- A flight that the pair's strands have sent since the checkpoint and that runs again: a load, its result, or a change of
the cell's own memory not yet performed. -/
def Flight.undone (f : Flight) (p epoch : Nat) : Bool :=
  f.heldBy == some p || (decide (f.who.cell = p) && f.epoch == epoch
    && (match f.body with | .mem .. | .reply .. | .arrival .. => true | _ => false))

/-- The walker requests of a cell's strands. -/
def Group.walksOf (x : Group) (c : Nat) : List WalkReq := (x.walkq ++ x.running.toList).filter (fun r => r.cell == c)

/-- The queue with requests made again that a rollback finds ended. -/
def Group.requeue (x : Group) (saved : List WalkReq) : Group :=
  let open' := x.walkq ++ x.running.toList
  { x with walkq := x.walkq ++ saved.filter (fun r => !open'.any (fun q => q.cell == r.cell && q.since == r.since)) }

/-- The contributions to reductions whose copies a rollback has dropped are not made: each window's count goes back (18 R344). -/
def State.dropReductions (s : State) (c : Nat) : State :=
  let gone := s.reductions.filter (fun (r : Reduction) => r.cell == c && ((s.cell c).copies[r.copy]).isNone)
  { s with
    reductions := s.reductions.filter (fun (r : Reduction) => !(r.cell == c && ((s.cell c).copies[r.copy]).isNone))
    redCounts := gone.foldl (fun (t : Table Nat) r =>
      let n := 32 * s.partAt c + r.window
      t.set n (Nat.min (t.get 0 n) r.number)) s.redCounts }

/-- A counter of mismatches that hold at its maximum (08 R165). -/
def countMismatch (n : BitVec 32) (found : Bool) : BitVec 32 := if found then countUp n else n

/-- A mismatch of write-backs, or of held effects at a checkpoint: local memory from the log, registers from the checkpoint,
held effects discarded; lasting when it recurs at its point or is the eighth rollback from one checkpoint. At another point it
makes the recorded one transient (17 R331). -/
def State.rollback (s : State) (p : Nat) : State :=
  let q := s.pair p
  let point := (q.checkpoints, s.pairCount p - q.baseline)
  if q.mismatch = some point ∨ 7 ≤ q.rollbacks then s.fence p
  else
    let s := { s with mem := undo s.mem q.log, net := s.net.filter (fun (f : Flight) => !f.undone p q.checkpoints) }
    let s := (s.updCell p (fun x => x.rolledBack q s.owes)).updHub (tileOf p) (·.dropHeld p)
    let s := (s.dropReductions p).updGroup (groupOf p) (·.requeue q.savedWalks)
    s.updPair p (fun q => { q with
      y := q.savedY, yw := Vector.replicate 4 none, log := [], taken := [], entered := [], pushed := 0, popped := [],
      diverged := false, gone := 0, lstrans := countMismatch q.lstrans q.mismatch.isSome
      mismatch := some point, rollbacks := q.rollbacks + 1 })

/-- The pair with its cell's registers, bank operations and walker requests saved, and an empty log. -/
def Pair.keep (q : Pair) (x : Cell) (walks : List WalkReq) (n : Nat) : Pair :=
  { q with
    saved := (List.finRange 5).filterMap (fun k =>
      let t : Strand := x.strands[k]
      if t.status = .free then none else some ⟨k, t⟩)
    savedY := q.y
    savedNear := x.near
    savedBlk := x.blk
    savedRanking := x.ranking
    savedWalks := walks
    savedRing := x.ring
    log := []
    taken := []
    entered := []
    pushed := 0
    popped := []
    baseline := n
    gone := 0
    mismatch := none
    rollbacks := 0 }

/-- A strand that comes to a slot of a lockstep cell is among what a rollback restores. -/
def State.keepSlot (s : State) (i : SlotId) : State :=
  let t := s.strand i
  if t.lock then
    s.updPair (pairOf i.cell) (fun q => { q with
      saved := q.saved.filter (fun v => v.slot != i.slot) ++ [⟨i.slot, t⟩], baseline := q.baseline + t.instret.toNat })
  else s

/-- A checkpoint of a pair whose twins agree: held effects go out, behind what has left, registers are saved, the log is
cleared. What goes out on a closed class waits before the mesh (01 R30). -/
def State.checkpointOk (s : State) (p : Nat) : State :=
  let held (f : Flight) : Bool := f.heldBy == some p
  let s := { s with net := s.net.filter (fun f => !held f) ++ (s.net.filter held).map (fun (f : Flight) =>
    { f with heldBy := none, waits := f.packet && s.classClosed f.cls }) }
  let s := s.updHub (tileOf p) (fun h => { h with hires := h.hires.map (fun (r : Hire) =>
    if r.cell = p then { r with held := false } else r) })
  let n := s.pairCount p - (s.pair p).gone
  s.updPair p (fun q =>
    { q.keep (s.cell p) ((s.group (groupOf p)).walksOf p) n with
      checkpoints := q.checkpoints + 1
      lstrans := countMismatch q.lstrans q.mismatch.isSome })

/-- A pair comes to a checkpoint: twins that differ roll back. -/
def State.checkpointAt (s : State) (p : Nat) : State :=
  if (s.pair p).diverged then s.rollback p else s.checkpointOk p

/-- The checkpoint of the slot's pair; outside a lockstep team nothing (02 R48, 14 R282). -/
def State.checkpoint (s : State) (i : SlotId) : State :=
  if (s.strand i).lock then s.checkpointAt (pairOf i.cell) else s

/-- A read of n bytes by the slot's strand would wait for a write of its own that its pair holds (10 R182). -/
def State.awaitsHeld (s : State) (i : SlotId) (l : Loc) (n : Nat) (ea : Word) : Bool :=
  let t := s.strand i
  t.lock && s.net.any (fun f => f.heldBy == some (pairOf i.cell) && f.uid == t.uid && f.touches ea l n)

/-- Reads of n bytes each, at places and addresses, that wait: a checkpoint comes first when it is for what the pair holds, as the pair has the outcomes
of one strand running alone (15 R298; DESIGN CHOICE, log 9). -/
def State.sendHeld (s : State) (i : SlotId) (n : Nat) (ls : List (Loc × Word)) : State :=
  if ls.any (fun l => s.awaitsHeld i l.1 n l.2) then s.checkpoint i else s

/-- The twins of the slot's pair differ: the checkpoint it is about to take rolls back instead. -/
def State.mismatched (s : State) (i : SlotId) : Bool := (s.strand i).lock && (s.pair (pairOf i.cell)).diverged

/-- The number, no cell's, of a writer whose write a rollback of the pair that it reaches does not make again: another cell, or
an operation that the pair's last checkpoint found under way (02 R49). -/
def outside : Nat := 2 ^ 20

/-- A write to a lockstep cell's memory: the pair's own is logged first, with the old bytes at the place; what another cell
writes stands after a rollback too, so a logged byte takes the new value (02 R47, R49). The reserved area holds the log, so
it takes a checkpoint when its 2,048-byte half is full (log 9). -/
def State.logWrite (s : State) (src : Nat) (l : Loc) (bs : List Byte) : State :=
  if l.space = .local ∧ ((s.recOf l.unit).map (·.lock)).getD false then
    if src = l.unit then
      s.updPair (pairOf l.unit) (fun q => { q with
        log := ((List.range bs.length).map (fun j => ((l.add j).key, Memory.get s.mem (l.add j).key))) ++ q.log })
    else
      s.updPair (pairOf l.unit) (fun q => { q with
        log := q.log.map (fun (e : Nat × Byte) => (e.1, if l.key ≤ e.1 then bs.getD (e.1 - l.key) e.2 else e.2)) })
  else s

end Sys2Proof.Machine
end

