-- ==== Sys2Proof/Machine/Release.lean ====
section
/-! DEFINITION. Releases: what they wait for (10 R196) and what the releasing instructions do once they are over (14 R262,
R264, R267, R271, R273, R278; 12 R238; 13 R243; 10 R198; 02 R41). -/

namespace Sys2Proof.Machine

open Sys2Proof

/-- A release awaits replicas at `mod` and `sys` (07 R138, 10 R196). -/
def Scope.awaitsReplicas : Scope → Bool
  | .mod | .sys => true
  | _ => false

/-- The waits of a release by a strand are over: results, the port count of its slot, the slices of the mask, and the replicas
of every write that it has made or read (15 R291). At `self` nothing is awaited. -/
def State.released (s : State) (i : SlotId) (sc : Scope) (mask : BitVec 51) : Bool :=
  let u := (s.strand i).uid
  sc == .self ||
    (!s.owes u && s.portCount i == 0 && (List.range 51).all (fun b => !(mask.getLsbD b && s.sliceOpen u b))
      && !(Scope.awaitsReplicas sc && s.forwards.any (fun f => f.seen.contains u)))

/-! ### Engines' operations at issue (12 R222, 13 R250, 15 R295) -/

/-- A write to memory not yet performed. -/
def Flight.toWrite (f : Flight) : Bool := match f.body with | .mem op _ _ _ => op.writes | _ => false

/-- A load of the strand before an ACQ or FENCE at `self` has not been performed (15 R292). -/
def State.acquiring (s : State) (i : SlotId) : Bool :=
  s.net.any (fun g => g.uid == (s.strand i).uid && g.loads && decide (g.acqs < (s.strand i).acqs))

/-- A copy, a hire or a walker operation waits at issue for its slot's port count, and for the loads that an acquire has ordered
before it; in a lockstep pair for every write of its strand, as what the pair holds has not left (15 R298; DESIGN CHOICE, log
9). -/
def State.engineWaits (s : State) (i : SlotId) : Bool :=
  s.portCount i != 0 || s.acquiring i || ((s.strand i).lock && s.net.any (fun f => f.uid == (s.strand i).uid && f.toWrite))

/-- What the pair holds of the waiting strand's writes goes out at a checkpoint. -/
def State.sendWrites (s : State) (i : SlotId) : State :=
  if s.net.any (fun f => f.uid == (s.strand i).uid && f.toWrite && f.heldBy == some (pairOf i.cell)) then s.checkpoint i else s

/-! ### Child records (14 R271) -/

def childBytes (c : Child) : List Byte :=
  leBytes 8 (c.entry.toNat + 2 ^ 32 * c.sidx.toNat + 2 ^ 46 * c.team.toNat + 2 ^ 62 * c.dom.toNat)
    ++ leBytes 8 c.join.toNat ++ (c.args.map (fun a => leBytes 8 a.toNat)).flatten

def dwords : Nat → List Byte → List Word
  | 0, _ => []
  | n + 1, bs => leWord (bs.take 8) :: dwords n (bs.drop 8)

def childOfBytes (bs : List Byte) : Child :=
  let d := leNat (bs.take 8)
  ⟨BitVec.ofNat 32 d, BitVec.ofNat 14 (d / 2 ^ 32), BitVec.ofNat 16 (d / 2 ^ 46), BitVec.ofNat 2 (d / 2 ^ 62),
    leWord ((bs.drop 8).take 8), dwords 6 (bs.drop 16)⟩

/-- The code 0 to 3 of a stealing domain (14 R271) from STEALDOM. -/
def domCode (d : BitVec 4) : BitVec 2 := match d.toNat with | 1 => 0#2 | 3 => 1#2 | 4 => 2#2 | _ => 3#2
def domScope (d : BitVec 2) : Scope := match d.toNat with | 0 => .cell | 1 => .tile | 2 => .group | _ => .sgrp

/-- The place of a byte of a handle that the hardware itself reads or writes. -/
def State.hwLoc (s : State) (h off : Nat) : Loc :=
  let z := pageSize (s.handle h).psz
  pageLoc (s.page h (off / z)) (off % z)

/-- A cell's number within its team (02 R37). -/
def teamCellIndex (r : BindRec) (c : Nat) : Nat :=
  let (x, y, k) := placeIn r c
  (y * (r.wm1.toNat + 1) + x) * 16 + k

/-- The place of record n of a cell's deque area (08 R155). -/
def State.dequeLoc (s : State) (c n : Nat) : Loc :=
  match s.recOf c with
  | none => ⟨.hbm, 0, 0⟩
  | some r => s.hwLoc r.dqh.toNat (65536 * teamCellIndex r c + 64 * (n % 1024))

/-- The first page of a range of a handle that is not present. -/
def State.hwAbsent (s : State) (h off n : Nat) : Option (Nat × Nat) :=
  let z := pageSize (s.handle h).psz
  ((List.range ((off + n - 1) / z + 1 - off / z)).find? (fun k => !(s.page h (off / z + k)).p)).map (fun k => (h, off / z + k))

/-- A page of a range of a handle moves or is being cleared: the hardware's writes to it wait (07 R134, R137, 00 R14). -/
def State.hwHeld (s : State) (h off n : Nat) : Bool :=
  let z := pageSize (s.handle h).psz
  (List.range ((off + n - 1) / z + 1 - off / z)).any (fun k =>
    let x := s.page h (off / z + k)
    x.transit || x.clear)

/-- The next spilled record of a full deque waits for its page. -/
def State.dequeHeld (s : State) (c : Nat) : Bool :=
  match s.recOf c with
  | none => false
  | some r =>
    let x := s.cell c
    decide (x.deque.length = 16) && s.hwHeld r.dqh.toNat (65536 * teamCellIndex r c + 64 * ((x.ahead + x.acnt) % 1024)) 64

/-- The page that the next spilled record of a full deque needs, when it is absent. -/
def State.dequeAbsent (s : State) (c : Nat) : Option (Nat × Nat) :=
  match s.recOf c with
  | none => none
  | some r =>
    let x := s.cell c
    if x.deque.length = 16 then
      s.hwAbsent r.dqh.toNat (65536 * teamCellIndex r c + 64 * ((x.ahead + x.acnt) % 1024)) 64
    else none

/-- The deque has no room for a record (08 R155). -/
def Cell.dequeFull (x : Cell) : Bool := x.deque.length == 16 && x.acnt == 1024

/-- The pair of a lockstep cell has pushed a child record since its checkpoint (02 R49). -/
def State.notePush (s : State) (c : Nat) : State :=
  if (s.recOf c).any (·.lock) then s.updPair (pairOf c) (fun q => { q with pushed := q.pushed + 1 }) else s

/-- A full deque's next spilled record would leave on a closed class (01 R30). -/
def State.dequeClosed (s : State) (i : SlotId) : Bool :=
  let x := s.cell i.cell
  decide (x.deque.length = 16) && s.blocked (s.strand i).dcls i.cell (s.dequeLoc i.cell (x.ahead + x.acnt))

/-- Pushes a child record; a full hardware deque first writes its oldest record, two whole columns, to the area. -/
def State.dequePush (s : State) (c : Nat) (r : Child) : State :=
  let x := s.cell c
  match x.deque with
  | [] => s.setCell c { x with deque := [r] }
  | old :: rest =>
    if x.deque.length = 16 then
      let s := s.writeFresh (s.dequeLoc c (x.ahead + x.acnt)) (childBytes old)
      s.setCell c { x with deque := rest ++ [r], acnt := x.acnt + 1 }
    else s.setCell c { x with deque := x.deque ++ [r] }

/-! ### GO (02 R41) -/

/-- The 128 bytes of a spilled window (06 R107). -/
def windowBytes (w : Window) : List Byte :=
  (w.a.toList.map (fun v => leBytes 8 v.toNat)).flatten ++ (w.l.toList.map (fun v => leBytes 8 v.toNat)).flatten

/-- Drops the monitors and held class masks of a slot (06 R120, 08 R153). -/
def Cell.dropSlot (x : Cell) (k : Fin 5) : Cell :=
  { x with monitors := x.monitors.filter (fun m => m.slot != k) }

def goPacketOf (i : SlotId) (t : Strand) : GoPacket where
  src := i
  uid := t.uid
  a := t.ra
  l := t.rl
  sp := t.sp
  pc := t.pc + 4#64
  sup := t.sup
  psup := t.psup
  sstep := t.sstep
  psstep := t.psstep
  dcls := t.dcls
  lock := t.lock
  wspill := t.wspill
  fmode := t.fmode
  rmode := t.rmode
  seed := t.seed
  tsm := t.tsm
  splh := t.splh
  sidx := t.sidx
  child := t.child
  team := t.team
  join := t.join
  spawnCell := t.spawnCell
  late := t.late

/-- The packet leaves, its lower windows spilled: monitors and masks dropped, the strand parked in its old slot. -/
def State.goDepart (s : State) (i : SlotId) (target : Nat) (hold : Bool) : State :=
  let t := s.strand i
  let s := s.updCell i.cell (·.dropSlot i.slot)
  let s := s.upd i (fun t => { t with clsmask := 0#8, status := .parked .goFlight })
  s.post i t.uid (.go (goPacketOf i t)) target t.dcls hold

/-! ### The end of a release -/

/-- Clears the TSM bits whose acknowledgements the release has collected. -/
def Strand.clearTsm (t : Strand) (mask : BitVec 51) : Strand := { t with tsm := t.tsm &&& ~~~mask }

/-- The RSEND packets of a cell on a class that are on their way to a target or wait for its inbox. -/
def State.rankPackets (s : State) (c : Nat) (k : Cls) (target : Nat) : Nat :=
  (s.net.filter (fun f => f.who.cell == c && decide (f.dstCell = some target) && f.cls.toNat == k.val
    && (match f.body with | .rank .. => true | _ => false))).length

/-- The cell's port has no free buffer of a class for another RSEND packet: packets for some target, this one or another, fill the
buffers on their path, back to the one at the port. Between a cell and itself there are none beyond the port's; how many the path
between two cells holds is a free value (13 R243). -/
def State.portFull (s : State) (i : SlotId) (k : Cls) : Bool :=
  s.net.any (fun f => f.who.cell == i.cell && f.cls.toNat == k.val
    && (match f.body, f.dstCell with
      | .rank .., some target =>
        decide ((if target = i.cell then 1 else Config.pathBuffers i.cell target + 1) ≤ s.rankPackets i.cell k target)
      | _, _ => false))

/-- A strand of the cell parked in TWWAIT on a counter takes a signal: the lowest slot (log 15). -/
def State.takeSignal (s : State) (c : Nat) (n : Fin 4) : State :=
  match (List.finRange 5).find? (fun k =>
      match ((s.cell c).strands[k] : Strand).status with | .parked (.twwait m _) => m == n | _ => false) with
  | none => s
  | some k =>
    match (s.strand ⟨c, k⟩).status with
    | .parked (.twwait _ d) =>
      let v := (s.cell c).sig[n]
      let s := s.updCell c (fun x => { x with sig := x.sig.set n (v - 1#8) })
      (s.writeReg ⟨c, k⟩ d (v.setWidth 64)).completeAcquire ⟨c, k⟩
    | _ => s

/-- What the releasing instruction does once its release is over: the TSM bits whose acknowledgements it has collected clear
(06 R119), which are none at `self`. -/
def State.releaseOp (s : State) (i : SlotId) (sc : Scope) (op : RelOp) : State :=
  let t := s.strand i
  let full := fun (s : State) => if sc = .self then s else s.upd i (·.clearTsm (BitVec.allOnes 51))
  match op with
  | .rel | .fence => (full s).complete i
  | .tsmr d mask =>
    let s := s.upd i (·.clearTsm mask)
    (s.writeReg i d ((s.strand i).tsm.setWidth 64)).complete i
  | .put m target v => ((full s).post i t.uid (.put m v sc) target t.dcls t.lock).complete i
  | .takefPut m target v => ((full s).post i t.uid (.put m v sc) target t.dcls t.lock).complete i
  | .send c target p =>
    ((full s).post i t.uid (.msg ⟨c, s.homeOf i.cell, p⟩) target (BitVec.ofNat 3 c.val) t.lock).complete i
  | .rsend c target l ea left st =>
    let s := full s
    match left with
    | 0 => s.complete i
    | n + 1 =>
      if s.portFull i c then s
      else match s.access i l 1 ea with
      | none => s.sendHeld i 1 [(l, ea)]
      | some s =>
        let (bs, bad, s) := s.readRaw l 1
        if !bad.isEmpty then
          (s.late i t.uid (poisonTrap i.cell l ea)).complete i
        else
          let s := s.post i t.uid (.rank (bs.headD 0#8) st) target (BitVec.ofNat 3 c.val) t.lock
          if n = 0 then s.complete i
          else s.upd i (fun t => { t with
            status := .parked (.release sc (.rsend c target (l.add 1) (ea + 1#64) n st)) })
  | .bararr ea l => ((full s).request i .barrier l 8 ea).complete i
  | .twsig n =>
    let p := twinOfCell i.cell
    if (s.cell p).sig[n] = 255#8 then s
    else
      let s := full s
      ((s.updCell p (fun x => { x with sig := x.sig.set n (x.sig[n] + 1#8) })).takeSignal p n).complete i
  | .spawn entry join =>
    if (s.cell i.cell).dequeFull then s
    else if (s.dequeAbsent i.cell).isSome then (s.dequeAbsent i.cell).elim s (fun q => s.askPager .host q.1 q.2)
    else if s.dequeHeld i.cell then s
    else
      let args := [t.rn[0], t.rn[1], t.rn[2], t.rn[3], t.rn[4], t.rn[5]]
      let args := if t.sup then [t.sn[0], t.sn[1], t.sn[2], t.sn[3], t.sn[4], t.sn[5]] else args
      (((full s).dequePush i.cell ⟨entry, t.sidx, t.team, domCode t.stealdom, join, args⟩).notePush i.cell).complete i
  | .launch d g =>
    let s := full s
    let s := s.upd i (·.setPend d true)
    ({ s with launches := s.launches ++ [DevLaunch.mk g] }).complete i
  | .goLocal => (full s).complete i
  | .goAway target => (full s).goDepart i target t.lock
  | .childEnd | .teamEnd => s

/-- The class and target cell of the packet that a releasing instruction sends. -/
def State.relTarget (s : State) (i : SlotId) (op : RelOp) : Option (BitVec 3 × Nat) :=
  let dcls := (s.strand i).dcls
  match op with
  | .put _ target _ | .takefPut _ target _ | .goAway target => some (dcls, target)
  | .send c target _ | .rsend c target _ _ _ _ => some (BitVec.ofNat 3 c.val, target)
  | .bararr _ l => match l.space with | .local => some (dcls, l.unit) | _ => none
  | _ => none

/-- The class of the packet is closed for reconfiguration, so the strand stalls (01 R30). -/
def State.relClosed (s : State) (i : SlotId) (op : RelOp) : Bool :=
  match s.relTarget i op with
  | some (c, target) => decide (sgOf i.cell ≠ sgOf target) && s.classClosed c
  | none =>
    match op with
    | .bararr _ l => s.blocked (s.strand i).dcls i.cell l
    | .spawn .. => s.dequeClosed i
    | _ => false

/-- `tile` and wider, where a release of a lockstep strand takes a checkpoint (02 R48). -/
def Scope.isWide : Scope → Bool
  | .self | .cell | .twin => false
  | _ => true

/-- The scope whose waits a releasing instruction has: TSMR awaits its slices at `self` too, and replicas at no scope (10
R196). -/
def RelOp.awaits (op : RelOp) (sc : Scope) : Scope :=
  match op with
  | .tsmr .. => .cell
  | _ => sc

/-- The slot's lockstep pair holds requests, packets or hires. -/
def State.holding (s : State) (i : SlotId) : Bool :=
  (s.strand i).lock && (s.net.any (fun f => f.heldBy == some (pairOf i.cell))
    || (s.hub (tileOf i.cell)).hires.any (fun r => r.held && r.cell == i.cell))

/-- The release takes a checkpoint in a lockstep pair: it is at `tile` or wider (02 R48), or its packet is for the pair itself,
which would wait for it (15 R298; DESIGN CHOICE, log 9). -/
def State.relChecks (s : State) (i : SlotId) (sc : Scope) (op : RelOp) : Bool :=
  Scope.isWide sc || (match op with | .bararr .. => false | _ => (s.relTarget i op).any (fun q => q.2 == i.cell))

/-- Tries to end the release that a strand is parked on. One that takes a checkpoint lets what the pair holds go out before its
waits, and its own effect with a checkpoint after them; twins that differ roll back instead (02 R48, 15 R298). -/
def State.tryRelease (s : State) (i : SlotId) : State :=
  match (s.strand i).status with
  | .parked (.release sc op) =>
    let mask := match op with
      | .tsmr _ m => (s.strand i).tsm &&& m
      | _ => (s.strand i).tsm
    if s.relChecks i sc op && (s.mismatched i || s.holding i) then s.checkpoint i
    else if !s.released i (op.awaits sc) mask || s.relClosed i op then s
    else
      let r := s.releaseOp i sc op
      match (r.strand i).status with
      | .parked (.release _ _) => r
      | _ => if s.relChecks i sc op then r.checkpoint i else r
  | _ => s

/-- Parks the issuing strand on a release and ends it at once when nothing is awaited. -/
def State.release (s : State) (sc : Scope) (op : RelOp) (words : Nat) (sw : Bool) : Out :=
  .next ((s.upd s.cur (fun t => { t with status := .parked (.release sc op), words := words, marker := sw })).tryRelease
    s.cur)

end Sys2Proof.Machine
end

