-- ==== Sys2Proof/Machine/Bank.lean ====
section
/-! DEFINITION. What happens at a memory: the delivery of requests, the column write, the monitors of the cell that owns
the bank, and loads, stores and atomics as they are performed (01 R20, R29; 07 R129, R130, R138; 08 R153; 10 R181-R192). -/

namespace Sys2Proof.Machine

open Sys2Proof

/-! ### Wakes -/

/-- A SLEEP of a saved context ends: it goes on past it, when its results have returned if the SLEEP had a switch marker. -/
def Strand.endSleep (t : Strand) : Strand :=
  match t.status with
  | .parked (.sleep _) => if t.marker then { t.retire t.words with status := .parked .results, words := 0 } else t.retire t.words
  | _ => t

/-- A SLEEP of the slot ends (10 R199), in what a rollback restores too, as the event does not come again. -/
def State.wakeSleep (s : State) (i : SlotId) : State :=
  let s := s.updKept i (s.strand i).uid (·.endSleep)
  match (s.strand i).status with
  | .parked (.sleep _) => s.complete i
  | _ => s

/-- Every SLEEP of the cell ends: a post register is present, a handler entered, or a monitor fired. -/
def State.wakeSleepers (s : State) (c : Nat) : State :=
  (List.finRange 5).foldl (fun (s : State) k => s.wakeSleep ⟨c, k⟩) s

/-- A WAITA of the slot ends with v in its register (10 R199). -/
def State.wakeWaita (s : State) (i : SlotId) (addr : Word) (v : Word) : State :=
  match (s.strand i).status with
  | .parked (.waita ea d) => if ea = addr then (s.writeReg i d v).complete i else s
  | _ => s

/-- A monitor fires, and wakes its owner with 0 in D (08 R153). -/
def State.fire (s : State) (c : Nat) (m : Monitor) : State :=
  let s := s.updCell c (fun x => { x with monitors := x.monitors.map (fun (y : Monitor) =>
    if y.slot = m.slot ∧ y.addr = m.addr then { y with fired := true, wait := false } else y) })
  let s := if m.wait then s.wakeWaita ⟨c, m.slot⟩ m.addr 0#64 else s
  s.wakeSleepers c

/-- The offsets of the bytes that a write changes. -/
def changedBytes : Nat → List Byte → List Byte → List Nat
  | a, x :: xs, y :: ys => if x = y then changedBytes (a + 1) xs ys else a :: changedBytes (a + 1) xs ys
  | _, _, _ => []

/-- A JOIN of the cell on a word in its own banks that a write has made zero ends with the write (14 R272), once the
strand's own accesses to the word are performed. -/
def State.wakeJoin (s : State) (l : Loc) (i : SlotId) : State :=
  match (s.strand i).status with
  | .parked (.join ea m) =>
    if m.space = .local ∧ m.unit = i.cell ∧ m.addr / 32 = l.addr / 32 ∧ s.peek m 8 = List.replicate 8 0#8
        ∧ s.mayAccess i m 8 ea then s.completeAcquire i
    else s
  | _ => s

/-- A watched word written with its own value wakes the owner of its monitor spuriously, with 2 in D (10 R199). -/
def State.wakeSame (s : State) (c : Nat) (m : Monitor) : State :=
  if m.wait then
    (s.updCell c (fun x => { x with monitors := x.monitors.map (fun (y : Monitor) =>
      if y.slot = m.slot ∧ y.addr = m.addr then { y with wait := false } else y) })).wakeWaita ⟨c, m.slot⟩ m.addr 2#64
  else s

/-- The waits of the owning cell on words in its own banks that a write of n bytes has touched: a monitor fires when a byte
of its word has changed (08 R153), and JOINs end. -/
def State.fireAll (s : State) (l : Loc) (n : Nat) (changed : List Nat) : State :=
  match l.space with
  | .local =>
    let s := ((s.cell l.unit).monitors.filter (fun m => m.loc.space == .local && m.hit l n)).foldl
      (fun (s : State) m =>
        if changed.any (fun a => decide (m.loc.addr ≤ a ∧ a < m.loc.addr + 8)) then s.fire l.unit m
        else s.wakeSame l.unit m) s
    (List.finRange 5).foldl (fun (s : State) k => s.wakeJoin l ⟨l.unit, k⟩) s
  | _ => s

/-! ### Writing -/

/-- Bytes written at a place: logged for a lockstep rollback, stored, and seen by the monitors of the cell. -/
def State.storeBytes (s : State) (src : Nat) (l : Loc) (bs : List Byte) : State :=
  let old := s.peek l bs.length
  ((s.logWrite src l bs).poke l bs).fireAll l bs.length (changedBytes l.addr old bs)

/-- A write of a cell, or of an engine for it, inside one column: a whole column is replaced, a part of one is merged, and a
poisoned column keeps its data unless it is written whole (07 R130). True: nothing was written. -/
def State.writeColumn (s : State) (src : Nat) (l : Loc) (bs : List Byte) : Bool × State :=
  let (bad, s) := if l.addr % 32 = 0 ∧ bs.length = 32 then (false, s) else s.checkColumn l
  if bad then (true, s) else (false, (s.storeBytes src l bs).freshColumn l.column)

/-! ### Performing -/

/-- A request that stands at its memory can be performed now: at a bank when it is its turn. -/
def State.due (s : State) (f : Flight) : Bool :=
  s.came f && s.peerTakes f && (match f.bank with | some (c, b) => s.bankTurn c b f.port | none => true)

/-- The state in which a due request is performed. -/
def State.served (s : State) (f : Flight) : State :=
  match f.bank with
  | some (c, b) => s.serveBank c b f.port
  | none => s

/-- The turn of flight k, of a kind: it comes to its memory, or is performed there once it is due. -/
def atMemory (s : State) (k : Nat) (kind : Flight → Bool) (go : Flight → State → Out) : Out :=
  match listGet s.net k with
  | none => idle s
  | some f =>
    if !kind f then idle s
    else if s.delivers k f then .next (s.arrive k f)
    else if s.due f then go f (s.served f)
    else idle s

/-- The flight taken out of the network. -/
def State.without (s : State) (k : Nat) : State := { s with net := listErase s.net k }

/-- The result of a request on its way back; it carries the slice that it acknowledges. -/
def State.answer (s : State) (f : Flight) (d : Dest) (data : List Byte) (late : Option LateTrap) : State :=
  { s with net := s.net ++ [{ f with body := .reply d data late, packet := false, heldBy := none }] }

/-- The acknowledgement of a performed write on its way back, for a slice that TSM names. -/
def State.acknowledge (s : State) (f : Flight) : State :=
  if f.slice.isSome then { s with net := s.net ++ [{ f with body := .ack, packet := false, heldBy := none }] } else s

/-! ### Reading typed elements (07 R130, 10 R183) -/

/-- What a poisoned element of a format reads as. -/
def poisonElem (fmt : Nat) : Nat :=
  match fmt with
  | 0 => 0x7FE00000 | 1 => 0x7F00 | 2 => 0x7FE0 | 3 => 0x7F | 4 => 0x7E | _ => 0

/-- Byte j of an element sequence of a format, with poison. -/
def poisonByte (fmt j : Nat) : Byte :=
  let n := elemBits fmt / 8
  if n = 0 then 0#8 else BitVec.ofNat 8 (poisonElem fmt / 256 ^ (j % n))

/-- Reads n bytes as elements of a format; poisoned columns read as its poison. -/
def State.readTyped (s : State) (fmt : Nat) (l : Loc) (n : Nat) : List Byte × List Loc × State :=
  let (bad, s) := s.checkColumns (columnsOf l n)
  let byte (j : Nat) : Byte :=
    if bad.any (fun b => b.addr / 32 == (l.addr + j) / 32) then poisonByte fmt j else Memory.get s.mem (l.add j).key
  ((List.range n).map byte, bad, s)

/-- The scale bytes at their places; a poisoned one marks its block NaN. -/
def State.readScales (s : State) : List (Loc × Word) → List Byte × List (Loc × Word) × State
  | [] => ([], [], s)
  | m :: ms =>
    let (bad, s) := s.checkColumn m.1
    let b := if bad then 0x3F#8 else Memory.get s.mem m.1.key
    let (bs, bads, s) := s.readScales ms
    (b :: bs, if bad then m :: bads else bads, s)

/-- The strand has read scale bytes (15 R291). -/
def State.seesScales (s : State) (uid : Nat) (ms : List (Loc × Word)) : State := ms.foldl (fun s m => s.sees uid m.1 m.2 1) s

/-- A poisoned column among those of an access at a place and address: its place, and the address in it that was read. -/
def poisonedAt (l : Loc) (ea : Word) (b : Loc) : Loc × Word :=
  if b.addr ≤ l.addr then (l, ea) else (b, ea + BitVec.ofNat 64 (b.addr - l.addr))

/-- Element e of a byte sequence: its bits. -/
def elemAt (fmt : Nat) (data : List Byte) (e : Nat) : Nat :=
  let w := elemBits fmt
  if w = 4 then (data.getD (e / 2) 0#8).toNat / 16 ^ (e % 2) % 16
  else leNat ((data.drop (e * (w / 8))).take (w / 8))

/-- The data and scale bytes of LDF, with the first poisoned column that it read. A q4 element that a poisoned column holds has the
scale byte of a NaN block. -/
def State.loadLdf (s : State) (fmt : Nat) (l : Loc) (n : Nat) (ea : Word) (scales : List (Loc × Word)) :
    List Byte × Option (Loc × Word) × State :=
  let (data, bad, s) := s.readTyped fmt l n
  let (sb, badSb, s) := s.readScales scales
  let sb := if fmt = 7 ∧ ¬ bad.isEmpty then sb.map (fun _ => 0x3F#8) else sb
  (data ++ sb, (bad.head?.map (poisonedAt l ea)).or badSb.head?, s)

/-- The 16 lanes of LDF, f16, and SEED after its draws (10 R183, 05 R92). -/
def ldfLanes (fmt : Nat) (scl : Bool) (fm : BitVec 8) (mode : Nat) (data : List Byte) (seed : BitVec 32) :
    List Nat × BitVec 32 :=
  let n := elemBits fmt * 2
  let (rs, seed) := draws mode 16 seed
  let lane (t : Nat) : Nat :=
    let sb := if scl then some (data.getD (n + t) 0#8).toNat else none
    fmtF16.wr mode fm (rs.getD t 0) (decodeElem fm fmt sb (elemAt fmt data t))
  ((List.range 16).map lane, seed)

/-- Lanes of 16 bits as a vector register. -/
def packLanes (w : Nat) : List Nat → Nat
  | [] => 0
  | x :: xs => x % 2 ^ w + 2 ^ w * packLanes w xs

/-- Lanes of w bits of a vector register, n of them. -/
def lanesOf (w : Nat) : Nat → Nat → List Nat
  | 0, _ => []
  | n + 1, v => v % 2 ^ w :: lanesOf w n (v / 2 ^ w)

/-- Elements packed into bytes: two 4-bit codes to a byte (05 R88). -/
def packElems (fmt : Nat) : List Nat → List Byte
  | [] => []
  | [x] => if elemBits fmt = 4 then [BitVec.ofNat 8 x] else leBytes (elemBits fmt / 8) x
  | x :: y :: r =>
    if elemBits fmt = 4 then BitVec.ofNat 8 (x + 16 * y) :: packElems fmt r
    else leBytes (elemBits fmt / 8) x ++ packElems fmt (y :: r)

/-! ### Results landing (02 R34, 17 R313) -/

def extend (e : Ext) (data : List Byte) : Word :=
  match e with
  | .zext => leWord data
  | .sext => BitVec.ofInt 64 (toSigned (8 * data.length) (leNat data))

/-- A result in a strand's own registers; y0-y3 are the twin store's. -/
def Strand.landed (t : Strand) (d : Dest) (data : List Byte) : Strand :=
  match d with
  | .none => t
  | .reg r sup e => t.setWin sup r (extend e data)
  | .vec r => { t with v := t.v.set r (BitVec.ofNat 128 (leNat data)) }
  | .ldf r fmt scl fm mode =>
    let (lanes, seed) := ldfLanes fmt scl fm mode.toNat data t.seed
    { t with
      v := (t.v.set r (BitVec.ofNat 128 (packLanes 16 (lanes.take 8)))).set (Fin.ofNat 16 (r.val + 8))
        (BitVec.ofNat 128 (packLanes 16 (lanes.drop 8)))
      seed := seed }

def State.land (s : State) (i : SlotId) (d : Dest) (data : List Byte) : State :=
  match d with
  | .reg (.y n) _ e => s.setY i.cell n (extend e data)
  | d => s.upd i (·.landed d data)

/-- A request of a lockstep strand that its pair's last checkpoint found under way: its result and its late trap are the saved
context's too, as a rollback does not send it again (02 R49). -/
def State.keptBy (s : State) (f : Flight) : Bool :=
  (s.strand f.who).lock && decide (f.epoch < (s.pair (pairOf f.who.cell)).checkpoints)

/-- The change of a strand that such a request makes in its saved context. -/
def State.updSaved (s : State) (f : Flight) (g : Strand → Strand) : State :=
  if s.keptBy f then s.updKept f.who f.uid g else s

/-- The writer that a request's write is logged for. -/
def State.writer (s : State) (f : Flight) : Nat := if s.keptBy f then outside else f.srcCell

/-- A result lands in its strand's registers, and in what a rollback restores. -/
def State.landFlight (s : State) (f : Flight) (d : Dest) (data : List Byte) : State :=
  let s := s.land f.who d data
  match d with
  | .reg (.y n) _ e =>
    if s.keptBy f then
      s.updPair (pairOf f.who.cell) (fun q => { q with savedY := q.savedY.set n (extend e data) })
    else s
  | d => s.updSaved f (·.landed d data)

/-- A request's late trap reaches its strand, and what a rollback restores. -/
def State.lateFlight (s : State) (f : Flight) : Option LateTrap → State
  | none => s
  | some l => (s.late f.who f.uid l).updSaved f (fun t => { t with late := t.late ++ [l] })

/-- A late trap of an operation of a strand; kept: its pair's last checkpoint found the operation under way, so what a rollback
restores has it too. -/
def State.lateFor (s : State) (i : SlotId) (uid : Nat) (kept : Bool) (l : LateTrap) : State :=
  let s := s.late i uid l
  if kept then s.updKept i uid (fun t => { t with late := t.late ++ [l] }) else s

/-- A trap of KIND 2 waits at its source while the slot holds another (17 R316). -/
def State.lateHeld (s : State) (i : SlotId) (l : Option LateTrap) : Bool :=
  match l with
  | some l => l.ehseq.extractLsb' 16 2 == 2#2 && !(s.strand i).late.isEmpty
  | none => false

/-- LOAD_DATA_RETURN (02 R34): a result lands in the register it was issued for, and the last one ends a switch
marker. -/
def execLoadDataReturn (k : Nat) (s : State) : Out :=
  match listGet s.net k with
  | some f =>
    match f.body with
    | .reply d data late =>
      if s.lateHeld f.who late then idle s
      else
        let s := s.without k
        if (s.strand f.who).uid = f.uid then
          .next (((s.landFlight f d data).lateFlight f late).wakeResults f.who)
        else .next s
    | _ => idle s
  | none => idle s

/-- SLICE_ACK (10 R196): the write no longer holds its slice. -/
def execSliceAck (k : Nat) (s : State) : Out :=
  match listGet s.net k with
  | some f =>
    match f.body with
    | .ack => .next (s.without k)
    | _ => idle s
  | none => idle s

/-! ### Loads and stores (10 R181, R183) -/

/-- The poison trap of a request for its strand. -/
def Flight.poison (f : Flight) (l : Loc) (ea : Word) : LateTrap := poisonTrap f.srcCell l ea

/-- The bytes STF writes against the scale bytes in place (10 R183). -/
def stfBytes (fmt : Nat) (lanes : List (BitVec 16)) (fm : BitVec 8) (mode : Nat) (rs : List Nat)
    (sb : List Byte) : List Byte :=
  let one (t : Nat) : Nat :=
    encodeElem mode fm (rs.getD t 0) fmt ((sb[t]?).map (·.toNat)) (fmtF16.rd fm (lanes.getD t 0#16).toNat)
  packElems fmt ((List.range lanes.length).map one)

/-- A store of the strand is performed. -/
def State.performStore (s : State) (f : Flight) (l : Loc) (ea : Word) (bs : List Byte) (late : Option LateTrap) : State :=
  let (bad, s) := s.writeColumn (s.writer f) l bs
  let s := if bad then s.lateFlight f (some (f.poison l ea)) else (s.forward f.uid false ea bs).lateFlight f late
  s.acknowledge f

/-- A store of up to 64 bytes, column by column: STF to an f32 or i32 handle covers two. -/
def State.performStores (s : State) (f : Flight) (l : Loc) (ea : Word) (bs : List Byte) (late : Option LateTrap) : State :=
  if bs.length ≤ 32 then s.performStore f l ea bs late
  else
    let g := { f with slice := none }
    (s.performStore g l ea (bs.take 32) late).performStore f (l.add 32) (ea + 32#64) (bs.drop 32) none

def State.performFlight (s : State) (k : Nat) (f : Flight) (op : MemOp) (l : Loc) (n : Nat) (ea : Word) : State :=
  match op with
  | .load d scales =>
    let s := ((s.without k).sees f.uid l ea n).seesScales f.uid scales
    match d with
    | .ldf _ fmt _ _ _ =>
      let (data, bad, s) := s.loadLdf fmt l n ea scales
      s.answer f d data (bad.map (fun b => f.poison b.1 b.2))
    | _ =>
      let (data, bad, s) := s.readRaw l n
      s.answer f d data (bad.head?.map (fun _ => f.poison l ea))
  | .store bs => (s.without k).performStore f l ea bs none
  | .stf fmt lanes fm mode rs scales =>
    let (sb, badSb, s) := ((s.without k).seesScales f.uid scales).readScales scales
    let late := badSb.head?.map (fun b => f.poison b.1 b.2)
    s.performStores f l ea (stfBytes fmt lanes fm mode.toNat rs sb) late
  | _ => s

/-! ### Atomics (10 R189, R190) -/

/-- The value an atomic writes, on w bits. -/
def atomicNew (member w : Nat) (fm : BitVec 8) (old b expected : Nat) : Nat :=
  let so := toSigned w old
  let sb := toSigned w b
  let f32 (x : FVal) : Nat := fmtF32.wr 0 fm 0 x
  match member with
  | 0 => (old + b) % 2 ^ w
  | 1 => if so ≤ sb then old else b
  | 2 => if so ≤ sb then b else old
  | 3 => Min.min old b
  | 4 => Max.max old b
  | 5 => old &&& b
  | 6 => old ||| b
  | 7 => old ^^^ b
  | 8 => b
  | 9 => if old = expected then b else old
  | 10 => f32 (FVal.add false (fmtF32.rd fm old) (fmtF32.rd fm b))
  | 11 => fmtF16.wr 0 fm 0 (FVal.add false (fmtF16.rd fm old) (fmtF16.rd fm b))
  | _ => f32 (FVal.max (fmtF32.rd fm old) (fmtF32.rd fm b))

/-- The width in bits of an atomic member. -/
def atomicWidth (member : Nat) (wide : Bool) : Nat := if member = 11 then 16 else if wide then 64 else 32

/-- The bytes of the pattern that an atomic on a poisoned column returns: every 32-bit word of the column reads as it (07
R130). -/
def poisonPattern (addr n : Nat) : List Byte := (List.range n).map (fun j => poisonBytes (addr + j))

/-- The write of an indivisible read and write whose column has been read: the old bytes. -/
def State.replace (s : State) (src uid : Nat) (l : Loc) (ea : Word) (n : Nat) (f : Nat → Nat) : List Byte × State :=
  let old := s.peek l n
  let new := leBytes n (f (leNat old))
  (old, (((s.sees uid l ea n).storeBytes src l new).freshColumn l.column).forward uid false ea new)

/-- An indivisible read and write of n bytes by a strand of a cell: the old bytes, and whether the column is poisoned, in
which case nothing is written. -/
def State.modify (s : State) (src uid : Nat) (l : Loc) (ea : Word) (n : Nat) (f : Nat → Nat) : List Byte × Bool × State :=
  let (bad, s) := s.checkColumn l
  if bad then (poisonPattern l.addr n, true, s)
  else
    let (old, s) := s.replace src uid l ea n f
    (old, false, s)

/-- BARARR's effect on the word (10 R198). -/
def barrierArrive (w : Nat) : Nat :=
  let count := w % 2 ^ 20
  let arrived := w / 2 ^ 20 % 2 ^ 20 + 1
  let top := w / 2 ^ 60 * 2 ^ 60
  if arrived = count then top + count * 2 ^ 40 + count
  else top + w / 2 ^ 40 % 2 ^ 20 * 2 ^ 40 + arrived % 2 ^ 20 * 2 ^ 20 + count

def barrierDepart (w : Nat) : Nat := w / 2 ^ 40 % 2 ^ 20
def barrierScope (w : Nat) : Scope := (Scope.ofCode (w / 2 ^ 60)).getD .sys

/-- The requests that ATOMIC_EXECUTE performs. -/
def Flight.isAtomic (f : Flight) : Bool :=
  match f.body with
  | .mem (.atomic ..) _ _ _ | .mem (.barinit _) _ _ _ | .mem .barrier _ _ _ => true
  | _ => false

/-- An arrival is held at the word. -/
def State.heldAt (s : State) (l : Loc) : Bool :=
  s.net.any (fun g => match g.body with | .arrival m _ => decide (m = l) | _ => false)

/-- A barrier arrival at its word: performed when DEPART is 0 and no earlier arrival is held there, else held. The word is
read with its check; what a poisoned word would hold the arrival for is not known, so the arrival is an atomic on it, which writes
nothing and raises POISON (07 R130). -/
def State.arriveBarrier (s : State) (k : Nat) (f : Flight) (l : Loc) (ea : Word) : State :=
  let (bad, t) := s.checkColumn l
  if bad then ((t.without k).lateFlight f (some (f.poison l ea))).acknowledge f
  else if barrierDepart (leNat (t.peek l 8)) == 0 && !t.heldAt l then
    ((t.without k).replace (s.writer f) f.uid l ea 8 barrierArrive).2.acknowledge f
  else
    let held : Flight := { f with body := .arrival l ea, packet := false, slice := none }
    ({ t with net := listSet t.net k held } : State).acknowledge f

/-- ATOMIC_EXECUTE (10 R190): an atomic, BARINIT or barrier arrival is performed at its memory. -/
def execAtomicExecute (k : Nat) (s : State) : Out :=
  atMemory s k (·.isAtomic) (fun f s =>
    match f.body with
    | .mem (.atomic m wide p q d fm) l _ ea =>
      let w := atomicWidth m wide
      let (old, bad, s) := (s.without k).modify (s.writer f) f.uid l ea (w / 8) (fun old =>
        atomicNew m w fm old (p.toNat % 2 ^ w) (q.toNat % 2 ^ w))
      let late := if bad then some (f.poison l ea) else none
      if d.owed then .next (s.answer f d old late)
      else .next ((s.lateFlight f late).acknowledge f)
    | .mem (.barinit v) l _ ea =>
      let (_, bad, s) := (s.without k).modify (s.writer f) f.uid l ea 8 (fun _ => v.toNat)
      .next ((s.lateFlight f (if bad then some (f.poison l ea) else none)).acknowledge f)
    | .mem .barrier l _ ea => .next (s.arriveBarrier k f l ea)
    | _ => idle s)

/-- BARRIER_ARRIVAL_PERFORMED (10 R198): a held arrival is performed once DEPART is 0, in the order of arrival. -/
def execBarrierArrivalPerformed (k : Nat) (s : State) : Out :=
  match listGet s.net k with
  | some f =>
    match f.body with
    | .arrival l ea =>
      let first := !(s.net.take k).any (fun g => match g.body with | .arrival m _ => decide (m = l) | _ => false)
      if first && barrierDepart (leNat (s.peek l 8)) == 0 then
        match s.atTurn f.srcCell l with
        | none => idle s
        | some s =>
          let (_, bad, s) := (s.without k).modify (s.writer f) f.uid l ea 8 barrierArrive
          .next (s.lateFlight f (if bad then some (f.poison l ea) else none))
      else idle s
    | _ => idle s
  | none => idle s

end Sys2Proof.Machine
end

