-- ==== Sys2Proof/Machine/Memory.lean ====
section
/-! DEFINITION. Loads, stores, LDF and STF, LDX, STX, PREF and HINT (10 R181-R185), atomics and FSHIP as they issue (10
R189, R191). -/

namespace Sys2Proof.Machine

open Sys2Proof

/-- The pc does not move past a stalled instruction; otherwise the request leaves and the strand goes on. A load that would wait
for what its lockstep pair holds has a checkpoint before it (log 9). -/
def sendOn (s : State) (op : MemOp) (l : Loc) (n : Nat) (ea : Word) (words : Nat) (sw : Bool) : Out :=
  if s.blocked s.me.dcls s.cur.cell l then .next s
  else if !op.writes && (s.awaitsHeld s.cur l n ea || op.scales.any (fun m => s.awaitsHeld s.cur m.1 1 m.2)) then
    .next (s.checkpoint s.cur)
  else (s.request s.cur op l n ea).finish words sw

/-- A naturally aligned access of n bytes (10 R181). -/
def accessOp (s : State) (reads : List SReg) (ea : Word) (n : Nat) (p : Perm) (op : MemOp) (words : Nat) (sw : Bool) :
    Out :=
  if s.me.anyPending reads then .next s
  else withAccess s ea n n p noPromote (fun l s => sendOn s op l n ea words sw)

/-- A load of n bytes into a scalar register. -/
def loadOp (s : State) (d a : SReg) (off : Imm) (n : Nat) (e : Ext) (sw : Bool) : Out :=
  accessOp s [d, a] (s.reg a + off.offset n) n .read (.load (.reg d s.me.sup e) []) off.words sw

/-- A store of the low n bytes of a scalar register. -/
def storeOp (s : State) (d a : SReg) (off : Imm) (n : Nat) (sw : Bool) : Out :=
  accessOp s [d, a] (s.reg a + off.offset n) n .write (.store (leBytes n (s.reg d).toNat)) off.words sw

/-- LDB (10 R181). -/
def execLdb (d a : SReg) (off : Imm) (sw : Bool) (s : State) : Out := loadOp s d a off 1 .sext sw
/-- LDBN (10 R181). -/
def execLdbn (d a : SReg) (off : Imm) (sw : Bool) (s : State) : Out := loadOp s d a off 1 .zext sw
/-- LDH (10 R181). -/
def execLdh (d a : SReg) (off : Imm) (sw : Bool) (s : State) : Out := loadOp s d a off 2 .sext sw
/-- LDHN (10 R181). -/
def execLdhn (d a : SReg) (off : Imm) (sw : Bool) (s : State) : Out := loadOp s d a off 2 .zext sw
/-- LDW (10 R181). -/
def execLdw (d a : SReg) (off : Imm) (sw : Bool) (s : State) : Out := loadOp s d a off 4 .sext sw
/-- LDWN (10 R181). -/
def execLdwn (d a : SReg) (off : Imm) (sw : Bool) (s : State) : Out := loadOp s d a off 4 .zext sw
/-- LDD (10 R181). -/
def execLdd (d a : SReg) (off : Imm) (sw : Bool) (s : State) : Out := loadOp s d a off 8 .zext sw
/-- STB (10 R181). -/
def execStb (d a : SReg) (off : Imm) (sw : Bool) (s : State) : Out := storeOp s d a off 1 sw
/-- STH (10 R181). -/
def execSth (d a : SReg) (off : Imm) (sw : Bool) (s : State) : Out := storeOp s d a off 2 sw
/-- STW (10 R181). -/
def execStw (d a : SReg) (off : Imm) (sw : Bool) (s : State) : Out := storeOp s d a off 4 sw
/-- STD (10 R181). -/
def execStd (d a : SReg) (off : Imm) (sw : Bool) (s : State) : Out := storeOp s d a off 8 sw

/-- LDV (10 R181). -/
def execLdv (d : VReg) (a : SReg) (off : Imm) (sw : Bool) (s : State) : Out :=
  accessOp s [a] (s.reg a + off.offset 16) 16 .read (.load (.vec d) []) off.words sw
/-- STV (10 R181). -/
def execStv (d : VReg) (a : SReg) (off : Imm) (sw : Bool) (s : State) : Out :=
  accessOp s [a] (s.reg a + off.offset 16) 16 .write (.store (leBytes 16 s.me.v[d].toNat)) off.words sw

/-- LDX (10 R184): LDD at a + b. -/
def execLdx (d a : SReg) (b : Src) (sw : Bool) (s : State) : Out :=
  accessOp s (d :: a :: b.regs) (s.reg a + s.src b) 8 .read (.load (.reg d s.me.sup .zext) []) b.words sw
/-- STX (10 R184): STD at a + b. -/
def execStx (d a : SReg) (b : Src) (sw : Bool) (s : State) : Out :=
  accessOp s (d :: a :: b.regs) (s.reg a + s.src b) 8 .write (.store (leBytes 8 (s.reg d).toNat)) b.words sw

/-! ### LDF and STF (10 R183) -/

/-- The format of the elements at an address; none for class 3. Of a handle whose entry has V = 0 it is the entry's FMT, so an
access there can find ALIGN before PROT (DESIGN CHOICE, log 51). -/
def State.formatAt (s : State) (ea : Word) : Option Nat :=
  match addrClass ea with
  | 2 => some (s.handle (ea.extractLsb' 36 24).toNat).fmt.toNat
  | 3 => none
  | _ => some 1

/-- The handle of an address, when its elements have a scale plane. -/
def State.scaledHandle (s : State) (ea : Word) : Option Handle :=
  if addrClass ea = 2 then
    let h := s.handle (ea.extractLsb' 36 24).toNat
    if h.scl then some h else none
  else none

/-- The index of the block of element e in the scale plane (05 R90). -/
def blockIndex (h : Handle) (e : Nat) : Nat :=
  let w := h.wid.toNat
  let i := e / w
  let j := e % w
  match h.geo.toNat with
  | 0 => i * (w / 256) + j / 256
  | 1 => i / 16 * (w / 16) + j / 16
  | _ => i / 256 * w + j

/-- The class 2 address of the scale byte of element e. -/
def scaleAddr (h : Handle) (e : Nat) : Word := h.ext + BitVec.ofNat 64 (blockIndex h e)

/-- The first element of an address in a format. -/
def elemIndex (fmt : Nat) (ea : Word) : Nat := (ea.extractLsb' 0 36).toNat * 8 / elemBits fmt

/-- The places of the scale bytes of n elements from e on; with a check that failed, those before it. -/
def State.scalePlaces (s : State) (w : Who) (h : Handle) : Nat → Nat → List (Loc × Word) × Option Chk × State
  | _, 0 => ([], none, s)
  | e, n + 1 =>
    match s.check w (scaleAddr h e) 1 1 .read noPromote with
    | .ok l s =>
      let (ls, r, s) := s.scalePlaces w h (e + 1) n
      ((l, scaleAddr h e) :: ls, r, s)
    | r => ([], some r, s)

/-- The scale bytes of n elements at an address, when it has a scale plane. -/
def State.scalesAt (s : State) (w : Who) (fmt : Nat) (ea : Word) (start n : Nat) :
    List (Loc × Word) × Option Chk × State :=
  match s.scaledHandle ea with
  | none => ([], none, s)
  | some h => s.scalePlaces w h (elemIndex fmt ea + start) n

/-- A raw-bytes handle raises PROT once the checks before that of the permission have passed (10 R183). -/
def rawFormat (s : State) (ea : Word) (p : Perm) : Out :=
  if ea.extractLsb' 36 24 = 0#24 then s.trap .addr ea
  else match s.checkHandle (s.whoAt s.cur) (ea.extractLsb' 36 24).toNat (ea.extractLsb' 0 36).toNat 1 p with
  | some c => s.trap c ea
  | none => s.trap .prot ea

/-- A long instruction is complete: PROG.VALID clears (06 R119). -/
def State.endProg (s : State) (i : SlotId) : State := s.upd i (fun t => { t with progValid := false })

/-- A long instruction stops part way (06 R119). -/
def State.setProg (s : State) (i : SlotId) (n : Nat) : State :=
  s.upd i (fun t => { t with progIndex := BitVec.ofNat 48 n, progValid := true })

/-- LDF (10 R183): one load of the elements and their scale bytes. -/
def execLdf (d : VReg) (a : SReg) (off : Imm) (sw : Bool) (s : State) : Out :=
  let ea := s.reg a + off.offset 1
  if s.me.anyPending [a] then .next s
  else match s.formatAt ea with
  | none => s.trap .addr ea
  | some fmt =>
    if 9 ≤ fmt then rawFormat s ea .read
    else
      let n := elemBits fmt * 2
      withAccess s ea n n .read noPromote (fun l s =>
        match s.scalesAt (s.whoAt s.cur) fmt ea 0 16 with
        | (_, some r, s) => afterCheck r (fun _ _ => .next s)
        | (scales, none, s) =>
          let t := s.me
          let dest := Dest.ldf d fmt (s.scaledHandle ea).isSome t.fmode t.rmode
          sendOn (s.endProg s.cur) (.load dest scales) l n ea off.words sw)

/-- The 16 lanes that STF stores. -/
def stfLanes (t : Strand) (d : VReg) : List (BitVec 16) :=
  ((lanesOf 16 8 t.v[d].toNat) ++ (lanesOf 16 8 (t.v[(Fin.ofNat 16 (d.val + 8) : Fin 16)]).toNat)).map
    (BitVec.ofNat 16)

/-- The elements start to stop of STF leave as one store. -/
def State.sendStf (s : State) (d : VReg) (fmt start stop : Nat) (scales : List (Loc × Word)) (l : Loc) (ea : Word) : State :=
  let t := s.me
  if stop ≤ start then s
  else
    let k := stop - start
    let (rs, seed) := draws t.rmode.toNat k t.seed
    let o := start * elemBits fmt / 8
    let op := MemOp.stf fmt (((stfLanes t d).drop start).take k) t.fmode t.rmode rs scales
    (s.upd s.cur (fun t => { t with seed := seed })).request s.cur op (l.add o) ((k * elemBits fmt + 7) / 8)
      (ea + BitVec.ofNat 64 o)

/-- The elements whose scale bytes were found leave before an absent scale page, and PROG counts them; q4 elements are written in
pairs. -/
def State.partStf (s : State) (d : VReg) (fmt start : Nat) (scales : List (Loc × Word)) (l : Loc) (ea : Word) : State :=
  let stop := if fmt = 7 then (start + scales.length) / 2 * 2 else start + scales.length
  (s.sendStf d fmt start stop (scales.take (stop - start)) l ea).setProg s.cur stop

/-- STF (10 R183): posted. On an absent scale page it waits with the elements before it stored (17 R318), and when the pager
cannot fill the page, PAGE is precise. -/
def execStf (d : VReg) (a : SReg) (off : Imm) (sw : Bool) (s : State) : Out :=
  let ea := s.reg a + off.offset 1
  if s.me.anyPending [a] then .next s
  else match s.formatAt ea with
  | none => s.trap .addr ea
  | some fmt =>
    if 9 ≤ fmt then rawFormat s ea .write
    else
      let n := elemBits fmt * 2
      let start := if s.me.progValid then Min.min s.me.progIndex.toNat 16 else 0
      withAccess s ea n n .write noPromote (fun l s =>
        if s.blocked s.me.dcls s.cur.cell l then .next s
        else match s.scalesAt (s.whoAt s.cur) fmt ea start (16 - start) with
        | (scales, none, s) =>
          ((s.endProg s.cur).sendStf d fmt start 16 scales l ea).finish off.words sw
        | (scales, some (.bad .page ev s), _) =>
          (s.partStf d fmt start scales l ea).trap .page ev
        | (scales, some (.absent h q s), _) =>
          let s := if scales.length < (if fmt = 7 then 2 else 1) then s else s.partStf d fmt start scales l ea
          s.park (.page h q) 0 false
        | (_, some r, s) => afterCheck r (fun _ _ => .next s))

/-! ### Prefetch and hints (10 R184, R185) -/

/-- The pages of a handle from offset lo to hi that are not present, or lie in LPDDR when promote holds. -/
def State.askPages (s : State) (h : Nat) (promote : Bool) : Nat → Nat → State
  | _, 0 => s
  | p, n + 1 =>
    let x := s.page h p
    let s := if !x.p || (promote && x.layer == 2#2) then s.askPager .host h p else s
    s.askPages h promote (p + 1) n

/-- PREF (10 R184): starts the translation and asks the pager for an absent page; anything that would fault does nothing. The access
that it checks is a read of one byte (DESIGN CHOICE, log 52). -/
def execPref (a : SReg) (b : Src) (sw : Bool) (s : State) : Out :=
  if s.me.anyPending (a :: b.regs) then .next s
  else
    let ea := s.reg a + s.src b
    match parseAddr s.cur.cell ea with
    | some (.handle h off) =>
      let w := s.whoAt s.cur
      if (s.checkHandle w h off 1 .read).isSome then s.finish b.words sw
      else
        let e := s.handle h
        let p := off / pageSize e.psz
        if (s.page h p).p then ((s.translate w.agent (tileOf s.cur.cell) w.part h p e.psz.toNat).2).finish b.words sw
        else (s.askPager .host h p).finish b.words sw
    | _ => s.finish b.words sw

/-- HINT (10 R185): every page of the range that is absent or in LPDDR is asked for. -/
def State.hintRange (s : State) (part h off len : Nat) : State :=
  let e := s.handle h
  if ¬ (e.v ∧ e.tenant.toNat = part) ∨ len = 0 ∨ e.limit.toNat < off then s
  else
    let z := pageSize e.psz
    let top := Min.min (off + len - 1) e.limit.toNat
    s.askPages h true (off / z) (top / z - off / z + 1)

def execHint (a : SReg) (len : BitVec 36) (sw : Bool) (s : State) : Out :=
  if s.me.anyPending [a] then .next s
  else
    let ea := s.reg a
    if addrClass ea ≠ 2 then s.trap .addr ea
    else
      (s.hintRange (s.partAt s.cur.cell) (ea.extractLsb' 36 24).toNat (ea.extractLsb' 0 36).toNat len.toNat).finish 3 sw

/-! ### Atomics (10 R189, R190) -/

/-- Pages that an atomic brings to HBM first: those in LPDDR. -/
def atomicPromote : Nat → Bool := fun layer => layer == 2

/-- The outcome with a checkpoint of the issuing slot's pair after it. -/
def thenCheckpoint (i : SlotId) : Out → Out
  | .next t => .next (t.checkpoint i)
  | r => r

/-- A request of a lockstep strand that returns a value after changing memory forces a checkpoint and is issued once (02 R47):
the pair's held effects go out before it, and the registers that the checkpoint saves stand after it, so that no rollback
issues it again. -/
def checkpointed (s : State) (returns : Bool) (k : State → Out) : Out :=
  if returns && s.me.lock then
    if s.mismatched s.cur then .next (s.checkpoint s.cur)
    else thenCheckpoint s.cur (k (s.checkpoint s.cur))
  else k s

/-- An ATOM member (10 R189). -/
def atomOp (s : State) (member : Nat) (wide : Bool) (d a : SReg) (b : Src) (sw : Bool) : Out :=
  if s.me.anyPending (d :: a :: b.regs) then .next s
  else
    let ea := s.reg a
    let n := atomicWidth member wide / 8
    let dest := if d = .zr then Dest.none else .reg d s.me.sup (if 10 ≤ member then .zext else .sext)
    let op := MemOp.atomic member wide (s.src b) (s.reg d) dest s.me.fmode
    if addrClass ea = 3 then s.trap .addr ea
    else withAccess s ea n n .write atomicPromote (fun l s =>
      if s.blocked s.me.dcls s.cur.cell l then .next s
      else checkpointed s dest.owed (fun s => sendOn s op l n ea b.words sw))

/-- AADD (10 R189). -/
def execAadd (w : Bool) (d a : SReg) (b : Src) (sw : Bool) (s : State) : Out := atomOp s 0 w d a b sw
/-- AMIN (10 R189). -/
def execAmin (w : Bool) (d a : SReg) (b : Src) (sw : Bool) (s : State) : Out := atomOp s 1 w d a b sw
/-- AMAX (10 R189). -/
def execAmax (w : Bool) (d a : SReg) (b : Src) (sw : Bool) (s : State) : Out := atomOp s 2 w d a b sw
/-- AMINU (10 R189). -/
def execAminu (w : Bool) (d a : SReg) (b : Src) (sw : Bool) (s : State) : Out := atomOp s 3 w d a b sw
/-- AMAXU (10 R189). -/
def execAmaxu (w : Bool) (d a : SReg) (b : Src) (sw : Bool) (s : State) : Out := atomOp s 4 w d a b sw
/-- AAND (10 R189). -/
def execAand (w : Bool) (d a : SReg) (b : Src) (sw : Bool) (s : State) : Out := atomOp s 5 w d a b sw
/-- AOR (10 R189). -/
def execAor (w : Bool) (d a : SReg) (b : Src) (sw : Bool) (s : State) : Out := atomOp s 6 w d a b sw
/-- AXOR (10 R189). -/
def execAxor (w : Bool) (d a : SReg) (b : Src) (sw : Bool) (s : State) : Out := atomOp s 7 w d a b sw
/-- AXCHG (10 R189). -/
def execAxchg (w : Bool) (d a : SReg) (b : Src) (sw : Bool) (s : State) : Out := atomOp s 8 w d a b sw
/-- ACAS (10 R189): D read at issue is the expected value. -/
def execAcas (w : Bool) (d a : SReg) (b : Src) (sw : Bool) (s : State) : Out := atomOp s 9 w d a b sw
/-- AFADD32 (10 R189). -/
def execAfadd32 (d a : SReg) (b : Src) (sw : Bool) (s : State) : Out := atomOp s 10 false d a b sw
/-- AFADD16 (10 R189). -/
def execAfadd16 (d a : SReg) (b : Src) (sw : Bool) (s : State) : Out := atomOp s 11 false d a b sw
/-- AFMAX32 (10 R189). -/
def execAfmax32 (d a : SReg) (b : Src) (sw : Bool) (s : State) : Out := atomOp s 12 false d a b sw

/-! ### FSHIP (10 R191, R192) -/

/-- The place of a class 2 address in HBM; the column's own stack while the page is not in HBM yet (log 12). -/
def State.muslinLoc (s : State) (col h off : Nat) : Loc :=
  let e := s.handle h
  let x := s.page h (off / pageSize e.psz)
  if x.p ∧ x.layer = 1#2 then pageLoc x (off % pageSize e.psz) else ⟨.hbm, col, 0⟩

/-- FSHIP (10 R191): checks 1 to 7 of R127 are precise, and the page is found at the muslin core (17 R318). -/
def execFship (routine : BitVec 6) (nr : Bool) (d a : SReg) (b : Src) (sw : Bool) (s : State) : Out :=
  if s.me.anyPending (d :: a :: b.regs) then .next s
  else
    let ea := s.reg a
    match parseAddr s.cur.cell ea with
    | some (.handle h off) =>
      if !isAligned ea 8 then s.trap .align ea
      else match s.checkHandle (s.whoAt s.cur) h off 8 .write with
      | some c => s.trap c ea
      | none =>
        let p := off / pageSize (s.handle h).psz
        -- an absent page has no translation; the muslin core asks the pager for it
        let found := if (s.page h p).p then
            s.translate (.slot s.cur) (tileOf s.cur.cell) (s.partAt s.cur.cell) h p (s.handle h).psz.toNat
          else (true, s)
        match found with
        | (false, s) => .next s
        | (true, s) =>
          let dest := if nr then Dest.none else .reg d s.me.sup (if 10 ≤ routine.toNat ∧ routine.toNat ≤ 12 then .zext else .sext)
          let l := s.muslinLoc (columnOf s.cur.cell) h off
          let x := s.page h p
          let op := MemOp.fship routine.toNat (s.src b) (s.reg d) dest s.me.fmode d.code
            (x.p && x.layer == 1#2 && !x.transit && !x.clear)
          if s.blocked s.me.dcls s.cur.cell l then .next s
          else checkpointed s (!nr) (fun s => sendOn s op l 8 ea b.words sw)
    | _ => s.trap .addr ea

/-- A routine's micro-registers: OLD, P, Q, T0-T2, NEW, RES (10 R192). -/
def uopStep (wide : Bool) (fm : BitVec 8) (r : List Word) (u : BitVec 32) : List Word :=
  let mask : Word := if wide then BitVec.allOnes 64 else 0xFFFFFFFF#64
  let get (k : Nat) : Word := r.getD k 0#64
  let x := get (u.extractLsb' 7 3).toNat
  let y := get (u.extractLsb' 10 3).toNat
  let sx := if wide then x.toInt else (x.setWidth 32).toInt
  let sy := if wide then y.toInt else (y.setWidth 32).toInt
  let c := y.toNat % (if wide then 64 else 32)
  let fx := f32Of fm (x.setWidth 32)
  let fy := f32Of fm (y.setWidth 32)
  let v : Word := match (u.extractLsb' 0 4).toNat with
    | 0 => x + y
    | 1 => x - y
    | 2 => x &&& y
    | 3 => x ||| y
    | 4 => x ^^^ y
    | 5 => x <<< c
    | 6 => x >>> c
    | 7 => if sx ≤ sy then x else y
    | 8 => if sx ≤ sy then y else x
    | 9 => if x.toNat ≤ y.toNat then x else y
    | 10 => if x.toNat ≤ y.toNat then y else x
    | 11 => (f32Rne fm (FVal.add false fx fy)).setWidth 64
    | 12 => (f32Rne fm (FVal.max fx fy)).setWidth 64
    | 13 => boolWord (x == y)
    | 14 => if get 3 ≠ 0#64 then x else y
    | _ => (u.extractLsb' 13 19).signExtend 64
  listSet r (u.extractLsb' 4 3).toNat (v &&& mask)

/-- Runs a routine on an old word: the new word and the result. -/
def runRoutine (q : Routine) (fm : BitVec 8) (old p v : Word) : Word × Word :=
  let mask : Word := if q.w64 then BitVec.allOnes 64 else 0xFFFFFFFF#64
  let r := (q.uops.take q.len.toNat).foldl (uopStep q.w64 fm)
    [old &&& mask, p &&& mask, v &&& mask, 0#64, 0#64, 0#64, old &&& mask, old &&& mask]
  (r.getD 6 0#64, r.getD 7 0#64)

/-- The built-in routines are usable from the start (08 R162). -/
def State.routine (s : State) (n : Nat) : Routine := s.muslin.get Routine.zero n

/-- The strand's partition may ship the routine. -/
def State.mayShip (s : State) (part n : Nat) : Bool :=
  decide (n < 13) || ((s.routine n).v && ((s.routine n).tenant == 0#5 || (s.routine n).tenant.toNat == part))

/-- The width in bytes a routine acts on. -/
def State.shipWidth (s : State) (n : Nat) : Nat :=
  if n < 10 then 8 else if n = 11 then 2 else if n < 13 then 4 else if (s.routine n).w64 then 8 else 4

/-- FSHIP ends without its operation: the status in D, or a late trap of KIND 2 (08 R162, 17 R318). -/
def State.shipFails (s : State) (f : Flight) (d : Dest) (code : BitVec 5) (c : Cause) (ea : Word) (always : Bool) :
    State :=
  let late : LateTrap := ⟨c, ea, 2#2 ++ code.setWidth 16⟩
  let status := leBytes 8 c.code
  match d with
  | .none => (s.answer f .none [] (some late))
  | d => s.answer f d status (if always then some late else none)

/-- The requests that FSHIP_EXECUTE performs. -/
def Flight.isShip (f : Flight) : Bool :=
  match f.body with
  | .mem (.fship ..) _ _ _ => true
  | _ => false

/-- FSHIP_EXECUTE (10 R191, R192): it comes to the muslin core of its stack, and is performed there as one indivisible read
and write once its page is in HBM. -/
def execFshipExecute (k : Nat) (s : State) : Out :=
  atMemory s k (·.isShip) (fun f s =>
    match f.body with
    | .mem (.fship n p q d fm code placed) _ _ ea =>
      let h := (ea.extractLsb' 36 24).toNat
      let off := (ea.extractLsb' 0 36).toNat
      let z := pageSize (s.handle h).psz
      let x := s.page h (off / z)
      if !(s.mayShip f.part n) then .next ((s.without k).shipFails f d code .prot ea false)
      else if !x.p || x.layer != 1#2 then
        match s.pageFailed (.muslin f.uid) h (off / z) with
        | some s => .next ((s.without k).shipFails f d code .page ea true)
        | none => .next (s.askPager (.muslin f.uid) h (off / z))
      else if !placed && (x.transit || x.clear) then idle s
      else
        let l := pageLoc x (off % z)
        let w := s.shipWidth n
        let r := s.routine n
        let res (old : Nat) : Word × Word := runRoutine r fm (BitVec.ofNat 64 old) p q
        let new (old : Nat) : Nat :=
          if n < 13 then atomicNew n (8 * w) fm old (p.toNat % 2 ^ (8 * w)) (q.toNat % 2 ^ (8 * w))
          else (res old).1.toNat
        let (old, bad, s) := (s.without k).modify (s.writer f) f.uid l ea w new
        let late : Option LateTrap := if bad then some ⟨.poison, ea, 2#2 ++ code.setWidth 16⟩ else none
        let back := if bad ∨ n < 13 then old else leBytes w (res (leNat old)).2.toNat
        if d.owed ∨ bad then .next (s.answer f d back late) else .next (s.acknowledge f)
    | _ => idle s)

end Sys2Proof.Machine
end

