-- ==== Sys2Proof/Machine/Copy.lean ====
section
/-! DEFINITION. The copy family: issue, the units that the copy engine performs, completion and faults (10 R186-R188). -/

namespace Sys2Proof.Machine

open Sys2Proof

/-! ### Issue -/

/-- The units of a contiguous destination: the part of unit u of n bytes at dst, aligned to 32 bytes: offset and length. -/
def unitSpan (dst n u : Nat) : Nat × Nat :=
  let head := 32 - dst % 32
  let off := if u = 0 then 0 else head + 32 * (u - 1)
  (off, Min.min (n - off) (if u = 0 then head else 32))

def unitCount (dst n : Nat) : Nat :=
  let head := 32 - dst % 32
  if n = 0 then 0 else if n ≤ head then 1 else 1 + (n - head + 31) / 32

/-- The most units that a row of len bytes has at any alignment. -/
def rowUnits (len : Nat) : Nat := len / 32 + 2

/-- The units of a copy, numbered in address order: of a strided copy unit j of row r is r * rowUnits + j; of CPYC a unit
is one element, or the pair of 4-bit codes in one byte. -/
def unitsOf (shape : CopyShape) (dst : Word) (dstFmt : Nat) : List Nat :=
  match shape with
  | .bytes n => List.range (unitCount dst.toNat n)
  | .strided len rows _ dstr =>
    (List.range (rows * rowUnits len)).filter (fun u =>
      decide (u % rowUnits len < unitCount (dst.toNat + u / rowUnits len * dstr) len))
  | .gather n _ | .scatter n _ => List.range n
  | .convert n => List.range (if dstFmt = 7 then (n + 1) / 2 else n)

/-- The copy, when its destination lies in a reduction window, is the next contribution to it (18 R344). -/
def State.openReduction (s : State) (c : Nat) (k : Fin 8) (dst : Word) : State :=
  let p := s.partAt c
  match s.redAt p dst with
  | none => s
  | some (n, e) =>
    let m := s.redCounts.get 0 (32 * p + n)
    { s with reductions := s.reductions ++ [⟨c, k, n, e, m, []⟩], redCounts := s.redCounts.set (32 * p + n) (m + 1) }

def Cell.freeCopy (x : Cell) : Option (Fin 8) := (List.finRange 8).find? (fun k => x.copies[k].isNone)

/-- A copy instruction (10 R187, 15 R295): it stalls while its token is pending, its slot's port counts writes, or eight
copies are in flight. The supervisor bank has no pending bits to take a token (log 13). -/
def copyOp (i : Instr) (s : State) (d a : SReg) (b : Src) (member : Nat) (shape : CopyShape) (ext : Word) (words : Nat)
    (sw : Bool) : Out :=
  let t := s.me
  if t.sup then s.ill i
  else if t.anyPending (d :: a :: b.regs) then .next s
  else if s.engineWaits s.cur then .next (s.sendWrites s.cur)
  else match (s.cell s.cur.cell).freeCopy with
  | none => .next s
  | some k =>
    let dst := s.reg a
    let c : Copy := {
      slot := s.cur.slot, uid := t.uid, token := d, member := member, shape := shape, dst := dst, src := s.src b,
      ext := ext, fmode := t.fmode, rmode := if t.rmode = 5#3 then 0#3 else t.rmode, sup := t.sup,
      todo := unitsOf shape dst ((s.formatAt dst).getD 15), poison := none, fault := none }
    let s := s.updCell s.cur.cell (fun x => { x with copies := x.copies.set k (some c) })
    let s := if member ≤ 5 then s.openReduction s.cur.cell k dst else s
    (s.upd s.cur (·.setPend d true)).finish words sw

/-- CPY (10 R186). -/
def execCpy (d a : SReg) (b : Src) (n : BitVec 32) (sw : Bool) (s : State) : Out :=
  copyOp (.cpy d a b n sw) s d a b 4 (.bytes n.toNat) (n.setWidth 64) (b.words + 2) sw
/-- CPYS (10 R186). -/
def execCpys (d a : SReg) (b : Src) (len rows sstr dstr : BitVec 16) (sw : Bool) (s : State) : Out :=
  copyOp (.cpys d a b len rows sstr dstr sw) s d a b 5 (.strided len.toNat rows.toNat sstr.toNat dstr.toNat)
    (dstr ++ sstr ++ rows ++ len) (b.words + 2) sw
/-- GATH (10 R186). -/
def execGath (d a : SReg) (b : Src) (n : BitVec 16) (sz : Fin 6) (sw : Bool) (s : State) : Out :=
  copyOp (.gath d a b n sz sw) s d a b 6 (.gather n.toNat (2 ^ sz.val))
    (BitVec.ofNat 64 (n.toNat + 65536 * sz.val)) (b.words + 2) sw
/-- SCAT (10 R186). -/
def execScat (d a : SReg) (b : Src) (n : BitVec 16) (sz : Fin 6) (sw : Bool) (s : State) : Out :=
  copyOp (.scat d a b n sz sw) s d a b 7 (.scatter n.toNat (2 ^ sz.val))
    (BitVec.ofNat 64 (n.toNat + 65536 * sz.val)) (b.words + 2) sw
/-- CPYC (10 R186). -/
def execCpyc (d a : SReg) (b : Src) (n : BitVec 32) (sw : Bool) (s : State) : Out :=
  copyOp (.cpyc d a b n sw) s d a b 8 (.convert n.toNat) (n.setWidth 64) (b.words + 2) sw

/-! ### The engine's accesses -/

/-- What an engine's access finds: something, a wait, or a fault. A wait says whether it is for the pager, and what is asked for it
of the state that the whole unit began in: a unit that waits has done nothing. -/
inductive Eng (α : Type) where
  | ok (a : α) (s : State)
  | wait (page : Bool) (ask : State → State)
  | fault (c : Cause) (ev : Word) (s : State)

def Eng.bind {α β : Type} (r : Eng α) (k : α → State → Eng β) : Eng β :=
  match r with
  | .ok a s => k a s
  | .wait p ask => .wait p ask
  | .fault c ev s => .fault c ev s

/-- What an access that waits asks for: a walk, the pager, or its place among the held writes. -/
def State.askFor (w : Who) (ea : Word) (n al : Nat) (p : Perm) (s : State) : State :=
  match s.check w ea n al p noPromote with
  | .stall s => s
  | .absent _ _ s => s
  | _ => s

/-- The checks of R127 for an engine: a fault is late (07 R127), and an engine waits while its master's class is closed
(01 R30). -/
def State.engineLoc (s : State) (w : Who) (ea : Word) (n al : Nat) (p : Perm) : Eng Loc :=
  match s.check w ea n al p noPromote with
  | .ok l s => if s.blocked (s.strand w.slot).dcls w.slot.cell l then .wait false id else .ok l s
  | .stall _ => .wait false (State.askFor w ea n al p)
  | .absent _ _ _ => .wait true (State.askFor w ea n al p)
  | .bad c ev s => .fault c ev s

/-- An engine's access at a place, for its master, takes its turn at the bank (01 R20). -/
def Eng.atBank {α : Type} (s : State) (w : Who) (l : Loc) (k : State → Eng α) : Eng α :=
  match s.takeTurn w.slot.cell l with
  | none => .wait false id
  | some s => k s

/-- The place that an engine reads n bytes at, at its turn: after the writes that its master has made or seen (15 R287, R291). -/
def State.engineRead (s : State) (w : Who) (ea : Word) (n al : Nat) : Eng Loc :=
  (s.engineLoc w ea n al .read).bind (fun l s =>
    if s.behind w.uid l ea n then .wait false id
    else Eng.atBank s w l (fun s => .ok l (s.sees w.uid l ea n)))

/-- Bytes that an engine read, none where a column was poisoned, and the record of the first such column (07 R129). -/
structure Fetched where
  bytes : List (Option Byte)
  poison : Option LateTrap

/-- Reads n bytes inside one column. -/
def State.fetchColumn (s : State) (w : Who) (ea : Word) (n al : Nat) : Eng Fetched :=
  (s.engineRead w ea n al).bind (fun l s =>
    let (bad, s) := s.checkColumn l
    if bad then .ok ⟨List.replicate n none, some (poisonTrap w.slot.cell l ea)⟩ s
    else .ok ⟨(s.peek l n).map some, none⟩ s)

/-- Reads up to 32 bytes at any alignment: one column or two. -/
def State.fetch (s : State) (w : Who) (ea : Word) (n : Nat) : Eng Fetched :=
  let k := 32 - ea.toNat % 32
  if n ≤ k then s.fetchColumn w ea n 1
  else
    (s.fetchColumn w ea k 1).bind (fun x s =>
      (s.fetchColumn w (ea + BitVec.ofNat 64 k) (n - k) 1).bind (fun y s =>
        .ok ⟨x.bytes ++ y.bytes, x.poison <|> y.poison⟩ s))

/-- The format whose poison a raw copy delivers at an address: that of a handle; class 0 and 1 memory has none, and takes the
words of 07 R130. -/
def State.rawFormatAt (s : State) (ea : Word) : Nat := if addrClass ea = 2 then (s.formatAt ea).getD 15 else 15

/-- The bytes that a raw copy delivers for poisoned ones. -/
def rawBytes (dstFmt dst src : Nat) : Nat → List (Option Byte) → List Byte
  | _, [] => []
  | j, some b :: r => b :: rawBytes dstFmt dst src (j + 1) r
  | j, none :: r =>
    (if dstFmt ≤ 2 then poisonByte dstFmt (dst + j) else poisonBytes (src + j)) ::
      rawBytes dstFmt dst src (j + 1) r

/-- The TSM bit of an engine's write on behalf of a strand (06 R119). -/
def State.touchSlice (s : State) (i : SlotId) (uid : Nat) (l : Loc) : State :=
  match sliceOf i.cell l with
  | none => s
  | some b =>
    if (s.strand i).uid = uid then s.upd i (fun t => { t with tsm := t.tsm ||| BitVec.ofNat 51 (2 ^ b) }) else s

/-- An engine's write inside one column; true when the column was poisoned and kept. -/
def State.putColumn (s : State) (w : Who) (uid : Nat) (ea : Word) (l : Loc) (bs : List Byte) : Bool × State :=
  let (bad, s) := s.writeColumn w.writer l bs
  if bad then (true, s) else (false, (s.forward uid false ea bs).touchSlice w.slot uid l)

/-- An engine's write at its turn, with the record of a poisoned column that it met. -/
def State.putAt (s : State) (w : Who) (uid : Nat) (ea : Word) (l : Loc) (bs : List Byte) : Eng (Option LateTrap) :=
  Eng.atBank s w l (fun s =>
    let (bad, s) := s.putColumn w uid ea l bs
    .ok (if bad then some (poisonTrap w.slot.cell l ea) else none) s)

/-- An element of a conversion: the format, the element's address and its number within the byte. -/
def State.fetchElem (s : State) (w : Who) (fm : BitVec 8) (ea : Word) (nibble : Nat) : Eng (FVal × Option LateTrap) :=
  match s.formatAt ea with
  | none => .fault .addr ea s
  | some fmt =>
    if 9 ≤ fmt then
      match s.checkHandle w (ea.extractLsb' 36 24).toNat (ea.extractLsb' 0 36).toNat 1 .read with
      | some c => .fault c ea s
      | none => .fault .prot ea s
    else
      let n := (elemBits fmt + 7) / 8
      (s.engineRead w ea n n).bind (fun l s =>
        let (data, bad, s) := s.readTyped fmt l n
        let p := bad.head?.map (fun _ => poisonTrap w.slot.cell l ea)
        let bits := elemAt fmt data (if fmt = 7 then nibble else 0)
        match s.scaledHandle ea with
        | none => .ok (decodeElem fm fmt none bits, p) s
        | some h =>
          let sa := scaleAddr h (elemIndex fmt ea + nibble)
          (s.engineRead w sa 1 1).bind (fun m s =>
            let (sb, badSb, s) := s.readScales [(m, sa)]
            let b := if fmt = 7 ∧ ¬ bad.isEmpty then 0x3F else (sb.headD 0#8).toNat
            .ok (decodeElem fm fmt (some b) bits, p <|> badSb.head?.map (fun _ => poisonTrap w.slot.cell m sa)) s))

/-- The scale byte of a destination element, when there is one. -/
def State.destScale (s : State) (w : Who) (fmt : Nat) (ea : Word) (nibble : Nat) : Eng (Option Nat × Option LateTrap) :=
  match s.scaledHandle ea with
  | none => .ok (none, none) s
  | some h =>
    let sa := scaleAddr h (elemIndex fmt ea + nibble)
    (s.engineRead w sa 1 1).bind (fun m s =>
      let (sb, bad, s) := s.readScales [(m, sa)]
      .ok (some (sb.headD 0#8).toNat, bad.head?.map (fun _ => poisonTrap w.slot.cell m sa)) s)

/-! ### Units -/

/-- The last checkpoint of the cell's lockstep pair found the copy under way. -/
def Copy.kept (k : Copy) (s : State) (c : Nat) : Bool := (s.savedOf ⟨c, k.slot⟩ k.uid).any (·.tokenOpen k.token)

def Copy.who (k : Copy) (s : State) (c : Nat) (i : Fin 8) : Who :=
  let slot : SlotId := ⟨c, k.slot⟩
  let t := s.strand slot
  ⟨.copy c i, slot, k.uid, if k.kept s c then outside else c, s.partAt c, k.sup, t.splh, t.lock⟩

/-- Fetched bytes written at an address; answers the poison that was met. -/
def State.deliver (s : State) (k : Copy) (w : Who) (dst src : Word) (al : Nat) (x : Fetched) : Eng (Option LateTrap) :=
  (s.engineLoc w dst x.bytes.length al .write).bind (fun l s =>
    let bs := rawBytes (s.rawFormatAt dst) dst.toNat src.toNat 0 x.bytes
    (s.putAt w k.uid dst l bs).bind (fun p s => .ok (x.poison <|> p) s))

/-- Moves an element of n bytes, naturally aligned. -/
def State.moveRaw (s : State) (k : Copy) (w : Who) (dst src : Word) (n al : Nat) : Eng (Option LateTrap) :=
  (s.fetchColumn w src n al).bind (fun x s => s.deliver k w dst src al x)

/-- Moves up to 32 bytes of any alignment to one aligned unit. -/
def State.moveBytes (s : State) (k : Copy) (w : Who) (dst src : Word) (n : Nat) : Eng (Option LateTrap) :=
  (s.fetch w src n).bind (fun x s => s.deliver k w dst src 1 x)

/-- A contribution to a reduction (18 R344): the unit is read and leaves for the switch, with its place in the contribution. Its
bytes are a multiple of 4, and the window's end and W are checked. -/
def State.contribute (s : State) (w : Who) (e : WindowEntry) (dst src : Word) (n total place : Nat) : Eng (Option LateTrap) :=
  if total % 4 ≠ 0 ∨ !e.canWrite ∨ e.base + e.size < (dst.extractLsb' 0 56).toNat + n then .fault .prot dst s
  else (s.fetch w src n).bind (fun x s =>
    let bs := (rawBytes 15 0 src.toNat 0 x.bytes).zipIdx.map (fun (b : Byte × Nat) => (place + b.2, b.1))
    .ok x.poison { s with reductions := s.reductions.map (fun (r : Reduction) =>
      if w.agent = .copy r.cell r.copy then { r with data := r.data ++ bs } else r) })

/-- A unit of CPY or CPYS, of n bytes at a place in the copy. A contribution is one to the window as it was when the copy began: a
window that has been changed or taken away admits nothing more (18 R342). -/
def State.moveUnit (s : State) (k : Copy) (w : Who) (dst src : Word) (n total place : Nat) : Eng (Option LateTrap) :=
  match s.reductions.find? (fun (r : Reduction) => w.agent == .copy r.cell r.copy) with
  | some r =>
    if (s.redAt w.part k.dst).any (fun e => e.2 == r.entry) then s.contribute w r.entry dst src n total place
    else .fault .prot dst s
  | none => s.moveBytes k w dst src n

/-- An entry of an address list. -/
def State.listEntry (s : State) (w : Who) (list : Word) (u : Nat) : Eng (Word × Option LateTrap) :=
  (s.fetchColumn w (list + BitVec.ofNat 64 (8 * u)) 8 8).bind (fun x s =>
    .ok (leWord (rawBytes 15 0 0 0 x.bytes), x.poison) s)

/-- The byte address of element e of a format at a base, and the code within the byte. -/
def elemPlace (fmt : Nat) (base : Word) (e : Nat) : Word × Nat :=
  if fmt = 7 then (base + BitVec.ofNat 64 (e / 2), e % 2)
  else (base + BitVec.ofNat 64 (e * (elemBits fmt / 8)), 0)

/-- Converts the elements e, e + 1, … (n of them, one byte's or one element's worth) of CPYC. -/
def State.convertElems (s : State) (k : Copy) (w : Who) (n e : Nat) : Eng (Option LateTrap) :=
  let sfmt := (s.formatAt k.src).getD 15
  match s.formatAt k.dst with
  | none => .fault .addr k.dst s
  | some dfmt =>
    if 9 ≤ dfmt then .fault .prot k.dst s
    else
      let (da, dn) := elemPlace dfmt k.dst e
      let size := (elemBits dfmt + 7) / 8
      let one (j : Nat) (s : State) : Eng (Nat × Option LateTrap) :=
        let (sa, sn) := elemPlace sfmt k.src (e + j)
        (s.fetchElem w k.fmode sa sn).bind (fun x s =>
          (s.destScale w dfmt da (dn + j)).bind (fun b s =>
            .ok (encodeElem k.rmode.toNat k.fmode 0 dfmt b.1 x.1, x.2 <|> b.2) s))
      (one 0 s).bind (fun x s =>
        let second : Eng (Option Nat × Option LateTrap) :=
          if dfmt = 7 ∧ 2 ≤ n then (one 1 s).bind (fun y s => .ok (some y.1, y.2) s) else .ok (none, none) s
        second.bind (fun y s =>
          (s.engineLoc w da size size .write).bind (fun l s =>
            let high := (Memory.get s.mem l.key).toNat / 16
            let v := if dfmt = 7 then x.1 + 16 * (y.1.getD high) else x.1
            (s.putAt w k.uid da l (leBytes size v)).bind (fun p s => .ok (x.2 <|> y.2 <|> p) s))))

/-- One unit of a copy. -/
def State.copyUnit (s : State) (k : Copy) (w : Who) (u : Nat) : Eng (Option LateTrap) :=
  match k.shape with
  | .bytes n =>
    let (off, len) := unitSpan k.dst.toNat n u
    s.moveUnit k w (k.dst + BitVec.ofNat 64 off) (k.src + BitVec.ofNat 64 off) len n off
  | .strided len _ sstr dstr =>
    let r := u / rowUnits len
    let dst := k.dst + BitVec.ofNat 64 (r * dstr)
    let (off, m) := unitSpan dst.toNat len (u % rowUnits len)
    s.moveUnit k w (dst + BitVec.ofNat 64 off) (k.src + BitVec.ofNat 64 (r * sstr + off)) m len (r * len + off)
  | .gather _ sz =>
    (s.listEntry w k.src u).bind (fun a s =>
      (s.moveRaw k w (k.dst + BitVec.ofNat 64 (u * sz)) a.1 sz sz).bind (fun p s => .ok (a.2 <|> p) s))
  | .scatter _ sz =>
    (s.listEntry w k.dst u).bind (fun a s =>
      (s.moveRaw k w a.1 (k.src + BitVec.ofNat 64 (u * sz)) sz sz).bind (fun p s => .ok (a.2 <|> p) s))
  | .convert n =>
    if (s.formatAt k.dst).getD 15 = 7 then s.convertElems k w (Min.min 2 (n - 2 * u)) (2 * u)
    else s.convertElems k w 1 u

/-- BANK_ACCESS of a unit of a copy (10 R187, R188): performed, or the copy stops on a fault. -/
def copyAccess (c : Nat) (i : Fin 8) (u : Nat) (s : State) : Out :=
  match (s.cell c).copies[i] with
  | none => idle s
  | some k =>
    if k.fault.isSome || !k.todo.contains u then idle s
    else
      let put (s : State) (k : Copy) : State := s.updCell c (fun x => { x with copies := x.copies.set i (some k) })
      match s.copyUnit k (k.who s c i) u with
      | .wait _ ask => .next (ask s)
      | .fault _ ev s => .next (put s { k with fault := some ev })
      | .ok p s => .next (put s { k with todo := k.todo.filter (fun v => v != u), poison := k.poison <|> p })

/-- A strand's token has its status. -/
def Strand.tokenDone (t : Strand) (d : SReg) (status : Nat) : Strand := (t.setWin false d (BitVec.ofNat 64 status)).setPend d false

/-- The engine writes the status into the token and clears its pending bit (06 R113), in what a rollback restores too; a SLEEP of
the strand ends. -/
def State.endToken (s : State) (i : SlotId) (uid : Nat) (d : SReg) (status : Nat) : State :=
  let s := if (s.savedOf i uid).any (·.tokenOpen d) then s.updKept i uid (fun t => t.tokenDone d status) else s
  if (s.strand i).uid = uid then
    ((s.writeRegIn i false d (BitVec.ofNat 64 status)).upd i (·.setPend d false)).wakeSleep i
  else s

/-- A copy, which is a long instruction (17 R319), is complete: PROG.VALID clears with the token (06 R119). -/
def State.endCopy (s : State) (i : SlotId) (uid : Nat) (d : SReg) (status : Nat) : State :=
  let s := if (s.savedOf i uid).any (·.tokenOpen d) then s.updKept i uid (fun t => { t with progValid := false }) else s
  let s := s.endToken i uid d status
  if (s.strand i).uid = uid then s.endProg i else s

def State.dropCopy (s : State) (c : Nat) (i : Fin 8) : State :=
  { s with reductions := s.reductions.filter (fun (r : Reduction) => !(r.cell == c && r.copy == i)) }.updCell c
    (fun x => { x with copies := x.copies.set i none })

/-- The copy is a contribution to a reduction, which ends it (18 R344, R345). -/
def State.contributes (s : State) (c : Nat) (i : Fin 8) : Bool :=
  s.reductions.any (fun (r : Reduction) => r.cell == c && r.copy == i)

/-- COPY_COMPLETION (10 R187 step 4): 0, or 0x08 with a late POISON; a trap waits while the slot holds another (17 R316). -/
def execCopyCompletion (c : Nat) (i : Fin 8) (s : State) : Out :=
  match (s.cell c).copies[i] with
  | none => idle s
  | some k =>
    let id : SlotId := ⟨c, k.slot⟩
    if k.fault.isSome || !k.todo.isEmpty || s.contributes c i then idle s
    else match k.poison with
    | none => .next ((s.dropCopy c i).endCopy id k.uid k.token 0)
    | some l =>
      if !(s.strand id).late.isEmpty then idle s
      else .next (((s.dropCopy c i).endCopy id k.uid k.token 8).lateFor id k.uid (k.kept s c) l)

/-- COPY_FAULT (10 R188): status 0x0D and a late COPYF of KIND 2. -/
def execCopyFault (c : Nat) (i : Fin 8) (s : State) : Out :=
  match (s.cell c).copies[i] with
  | none => idle s
  | some k =>
    let id : SlotId := ⟨c, k.slot⟩
    match k.fault with
    | none => idle s
    | some ev =>
      if !(s.strand id).late.isEmpty || s.contributes c i then idle s
      else
        .next (((s.dropCopy c i).endToken id k.uid k.token 0x0D).lateFor id k.uid (k.kept s c)
          ⟨.copyf, ev, 2#2 ++ k.token.code.setWidth 16⟩)

end Sys2Proof.Machine
end

