-- ==== Sys2Proof/Machine/Near.lean ====
section
/-! DEFINITION. Near-bank reductions (10 R193, R194). -/

namespace Sys2Proof.Machine

open Sys2Proof

/-- The float format of an FTy. -/
def ftyFmt : FTy → FFmt
  | .f32 => fmtF32
  | .f16 => fmtF16
  | .bf16 => fmtBf16
/-- The element format code of an FTy. -/
def ftyCode : FTy → Nat
  | .f32 => 0 | .f16 => 1 | .bf16 => 2

/-- The offset of an address in the issuing strand's own cell: class 0, or class 1 with its own number. -/
def State.ownOffset (s : State) (c : Nat) (ea : Word) : Option Nat :=
  match parseAddr c ea with
  | some (.local _ off) => some off
  | some (.home id off) => if s.teamCell c id = some c then some off else none
  | _ => none

/-- The cause of a vector's violation, or its offset: own cell, alignment, one bank (the bank of A's first byte). With a count of 0
B's address still lies in that bank (DESIGN CHOICE, log 53). -/
def State.nearCheck (s : State) (c : Nat) (ea : Word) (n size bank : Nat) (lock : Bool) : Except Cause Nat :=
  match s.ownOffset c ea with
  | none => .error .addr
  | some off =>
    if !isAligned ea size then .error .align
    else if bankOf off ≠ bank ∨ (0 < n ∧ bankOf (off + n * size - 1) ≠ bank) then .error .addr
    else if lock && decide (0xB000 < off + Nat.max 1 (n * size)) then .error .prot
    else .ok off

/-- A near-bank member (10 R193): it parks until D is written; with PROG.VALID it resumes (R194). -/
def nearOp (s : State) (kind : Fin 3) (ty : FTy) (d a : SReg) (b : Option Src) (n : Nat) (words : Nat) (sw : Bool) :
    Out :=
  let t := s.me
  let c := s.cur.cell
  let size := elemBits (ftyCode ty) / 8
  let ea := s.reg a
  let eb := (b.map s.src).getD ea
  let bank := ((s.ownOffset c ea).map bankOf).getD 0
  if t.anyPending (d :: a :: ((b.map Src.regs).getD [])) then .next s
  else match s.nearCheck c ea n size bank t.lock with
  | .error e => s.trap e ea
  | .ok _ =>
    match s.nearCheck c eb n size bank t.lock with
    | .error e => s.trap e eb
    | .ok _ =>
      let start := if t.progValid then Min.min t.progIndex.toNat n else 0
      let first : BitVec 32 := if kind = 2 then 0xFF800000#32 else 0#32
      let run : NearRun := {
        slot := s.cur.slot, kind := kind, ty := ty, d := d, a := ea, b := eb, n := n, done := start,
        acc := if t.progValid then (s.reg d).setWidth 32 else first, fmode := t.fmode, rmode := t.rmode, poison := none }
      (s.updCell c (fun x => { x with near := x.near ++ [run] })).park .near words sw

/-- NDOT (10 R193). -/
def execNdot (ty : FTy) (d a : SReg) (b : Src) (n : BitVec 32) (sw : Bool) (s : State) : Out :=
  nearOp s 0 ty d a (some b) n.toNat (b.words + 2) sw
/-- NSUM (10 R193). -/
def execNsum (ty : FTy) (d a : SReg) (n : BitVec 32) (sw : Bool) (s : State) : Out :=
  nearOp s 1 ty d a none n.toNat 3 sw
/-- NMAX (10 R193). -/
def execNmax (ty : FTy) (d a : SReg) (n : BitVec 32) (sw : Bool) (s : State) : Out :=
  nearOp s 2 ty d a none n.toNat 3 sw

/-- The accumulator after one element. -/
def nearStep (kind : Fin 3) (fm : BitVec 8) (acc : BitVec 32) (x y : FVal) : BitVec 32 :=
  match kind.val with
  | 0 => f32Rne fm (FVal.add false (fmtF32.decode false acc.toNat) (x.mul y))
  | 1 => f32Rne fm (FVal.add false (fmtF32.decode false acc.toNat) x)
  | _ => BitVec.ofNat 32 (fmtF32.encode 0 false false 0 (FVal.max (fmtF32.decode false acc.toNat) x))

/-- Elements of a vector up to the end of its current column. -/
def columnLeft (off size : Nat) : Nat := (32 - off % 32) / size

def nearFold (kind : Fin 3) (fm : BitVec 8) (f : FFmt) (fmt : Nat) (xs ys : List Byte) : Nat → Nat → BitVec 32 → BitVec 32
  | 0, _, acc => acc
  | n + 1, e, acc =>
    nearFold kind fm f fmt xs ys n (e + 1) (nearStep kind fm acc (f.rd fm (elemAt fmt xs e)) (f.rd fm (elemAt fmt ys e)))

/-- BANK_ACCESS of a near-bank operation: a column of its vector, or of both, enters the unit. -/
def nearAccess (c : Nat) (k : Fin 5) (s : State) : Out :=
  match (s.cell c).near.find? (fun r => r.slot == k) with
  | none => idle s
  | some r =>
    if r.n ≤ r.done then idle s
    else
      let fmt := ftyCode r.ty
      let size := elemBits fmt / 8
      let oa := (r.a.extractLsb' 0 16).toNat + r.done * size
      let ob := (r.b.extractLsb' 0 16).toNat + r.done * size
      let m := Min.min (r.n - r.done) (Min.min (columnLeft oa size) (columnLeft ob size))
      let la : Loc := ⟨.local, c, oa⟩
      let lb : Loc := ⟨.local, c, ob⟩
      let ea := r.a + BitVec.ofNat 64 (r.done * size)
      let eb := r.b + BitVec.ofNat 64 (r.done * size)
      match s.accessAll ⟨c, k⟩ (m * size) ((la, ea) :: if r.kind = 0 then [(lb, eb)] else []) with
      | none => idle s
      | some s =>
      let (xs, bx, s) := s.readTyped fmt la (m * size)
      let (ys, by', s) := if r.kind = 0 then s.readTyped fmt lb (m * size) else (xs, [], s)
      let acc := nearFold r.kind r.fmode (ftyFmt r.ty) fmt xs ys m 0 r.acc
      let late :=
        if !bx.isEmpty then some (poisonTrap c la ea)
        else if !by'.isEmpty then some (poisonTrap c lb eb)
        else none
      let r' : NearRun := { r with done := r.done + m, acc := acc, poison := if r.poison.isSome then r.poison else late }
      .next (s.updCell c (fun x => { x with near := x.near.map (fun (q : NearRun) => if q.slot = k then r' else q) }))

/-- NEAR_BANK_COMPLETION (10 R193): D is written, and a late POISON is then pending. -/
def execNearBankCompletion (c : Nat) (k : Fin 5) (s : State) : Out :=
  match (s.cell c).near.find? (fun r => r.slot == k) with
  | none => idle s
  | some r =>
    if r.done < r.n then idle s
    else
      let i : SlotId := ⟨c, k⟩
      let s := s.updCell c (fun x => { x with near := x.near.filter (fun q => q.slot != k) })
      let s := ((s.writeReg i r.d (r.acc.setWidth 64)).endProg i).complete i
      .next (s.lateOpt i (s.strand i).uid r.poison)

end Sys2Proof.Machine
end

