-- ==== Sys2Proof/Machine/Sync.lean ====
section
/-! DEFINITION. Releases, acquires and fences (10 R195, R196), barrier words (R197, R198), the waits (R199), twin signals
(12 R238), post registers (06 R111, 14 R261-R265), messages and handlers (02 R44, R45, 14 R266-R269). -/

namespace Sys2Proof.Machine

open Sys2Proof

/-! ### SYNC (10 R196) -/

/-- REL (10 R196). -/
def execRel (sc : Scope) (sw : Bool) (s : State) : Out := s.release sc .rel 1 sw
/-- At `self` an acquire completes at once, and the strand's later accesses are performed after its earlier loads (15 R292). -/
def State.selfAcquire (s : State) (i : SlotId) (sc : Scope) : State :=
  if sc = .self then s.upd i (fun t => { t with acqs := t.acqs + 1 }) else s

/-- ACQ (10 R196): the strand goes on when every result has returned; at `self` at once. -/
def execAcq (sc : Scope) (sw : Bool) (s : State) : Out := (s.selfAcquire s.cur sc).finish 1 (sc != .self || sw)
/-- FENCE (10 R196): the release has already awaited what the acquire awaits. -/
def execFence (sc : Scope) (sw : Bool) (s : State) : Out := (s.selfAcquire s.cur sc).release sc .fence 1 sw
/-- TSMR (10 R196): only the slices named in A. -/
def execTsmr (sc : Scope) (d a : SReg) (sw : Bool) (s : State) : Out :=
  if s.me.anyPending [d, a] then .next s else s.release sc (.tsmr d ((s.reg a).setWidth 51)) 1 sw

/-- RELEASE_COMPLETE (10 R196). -/
def execReleaseComplete (c : Nat) (k : Fin 5) (s : State) : Out := .next (s.tryRelease ⟨c, k⟩)

/-! ### Barrier words (10 R197, R198) -/

/-- An access of a barrier or monitored word: class 3 raises ADDR. -/
def wordAccess (s : State) (ea : Word) (p : Perm) (promote : Nat → Bool) (k : Loc → State → Out) : Out :=
  if addrClass ea = 3 then s.trap .addr ea else withAccess s ea 8 8 p promote k

/-- The word BARINIT writes. -/
def barrierWord (sc : Scope) (count : Nat) : Word := BitVec.ofNat 64 (count + sc.code * 2 ^ 60)

/-- BARINIT (10 R198): a count outside 1 to 1,048,575 raises ILL. -/
def execBarinit (sc : Scope) (a : SReg) (b : Src) (sw : Bool) (s : State) : Out :=
  if s.me.anyPending (a :: b.regs) then .next s
  else
    let v := (s.src b).toNat
    if v = 0 ∨ 2 ^ 20 ≤ v then s.ill (.barinit sc a b sw)
    else
      wordAccess s (s.reg a) .write atomicPromote (fun l t =>
        sendOn t (.barinit (barrierWord sc v)) l 8 (s.reg a) b.words sw)

/-- BARARR (10 R198): a release at the word's scope, then the arrival. The scope is read after the strand's own accesses to the
word (15 R287), as an untyped read of it (07 R130). -/
def execBararr (a : SReg) (sw : Bool) (s : State) : Out :=
  if s.me.anyPending [a] then .next s
  else
    wordAccess s (s.reg a) .write atomicPromote (fun l t =>
      match t.access t.cur l 8 (s.reg a) with
      | none => .next (t.sendHeld t.cur 8 [(l, s.reg a)])
      | some t =>
        let (data, bad, t) := t.readRaw l 8
        let t := t.lateOpt t.cur t.me.uid (bad.head?.map (fun _ => poisonTrap t.cur.cell l (s.reg a)))
        t.release (barrierScope (leNat data)) (.bararr (s.reg a) l) 1 sw)

/-- A BARWAIT takes a departure from the word that it has read. -/
def State.depart (s : State) (i : SlotId) (ea : Word) (l : Loc) : State :=
  ((s.replace i.cell (s.strand i).uid l ea 8 (fun w => w - 2 ^ 40)).2.touchSlice i (s.strand i).uid l).completeAcquire i

/-- A poll of a BARWAIT: takes a departure, if there is one, after the strand's own accesses to the word. A poisoned word reads
as the pattern of 07 R130, whose DEPART is not 0: the departure writes nothing and the wait is over, with a late POISON (log
44). In a lockstep pair it stands between checkpoints, as a returning atomic does (02 R47, R49; DESIGN CHOICE, log 9). -/
def State.pollBarwait (s : State) (i : SlotId) (ea : Word) (l : Loc) : State :=
  match s.access i l 8 ea with
  | none => s.sendHeld i 8 [(l, ea)]
  | some s =>
    let (bad, s) := s.checkColumn l
    if bad then (s.late i (s.strand i).uid (poisonTrap i.cell l ea)).completeAcquire i
    else if barrierDepart (leNat (s.peek l 8)) = 0 then s
    else if s.mismatched i then s.checkpoint i
    else ((s.checkpoint i).depart i ea l).checkpoint i

/-- BARWAIT (10 R198): parks until DEPART > 0. ILL in the handler slot. -/
def execBarwait (a : SReg) (sw : Bool) (s : State) : Out :=
  if s.inHandler then s.ill (.barwait a sw)
  else if s.me.anyPending [a] then .next s
  else
    wordAccess s (s.reg a) .write atomicPromote (fun l t => t.park (.barwait (s.reg a) l) 1 sw)

/-- BARTEST (10 R198): the word as a variable-latency result, read where an atomic on it is performed (R197). -/
def execBartest (d a : SReg) (sw : Bool) (s : State) : Out :=
  if s.me.anyPending [d, a] then .next s
  else
    wordAccess s (s.reg a) .readHome atomicPromote (fun l t =>
      sendOn t (.load (.reg d s.me.sup .zext) []) l 8 (s.reg a) 1 sw)

/-- A parked wait reads its word again: it is translated again, and a page that cannot be filled ends the wait with a
precise trap at the waiting instruction (07 R137). -/
def State.repoll (s : State) (i : SlotId) (ea : Word) (p : Perm) (promote : Nat → Bool) (k : Loc → State → State) : State :=
  match s.check (s.whoAt i) ea 8 8 p promote with
  | .ok l s => k l s
  | .stall s => s
  | .absent _ _ s => s
  | .bad c ev s => s.trapAt i c ev

/-- BARWAIT_POLL (10 R198). -/
def execBarwaitPoll (c : Nat) (k : Fin 5) (s : State) : Out :=
  let i : SlotId := ⟨c, k⟩
  match (s.strand i).status with
  | .parked (.barwait ea _) => .next (s.repoll i ea .write atomicPromote (fun l s => s.pollBarwait i ea l))
  | _ => idle s

/-! ### Waits (10 R199) -/

/-- The number of the slot's monitor on an address. -/
def Cell.monitorOf (x : Cell) (k : Fin 5) (ea : Word) : Option Nat :=
  listFind (fun (m : Monitor) => m.slot == k && m.addr == ea) x.monitors

/-- Room for one monitor: with 8 entries the oldest is evicted, and its parked owner wakes with 1 (08 R153). -/
def State.evictMonitor (s : State) (c : Nat) : State :=
  match (s.cell c).monitors with
  | [] => s
  | m :: ms =>
    if ms.length + 1 < 8 then s
    else
      let s := s.updCell c (fun x => { x with monitors := ms })
      if m.wait then s.wakeWaita ⟨c, m.slot⟩ m.addr 1#64 else s

/-- The monitor of a WAITA is armed: an entry of the strand on the same address is used again. -/
def State.armMonitor (s : State) (c : Nat) (m : Monitor) : State :=
  match (s.cell c).monitorOf m.slot m.addr with
  | some n => s.updCell c (fun x => { x with monitors := listSet x.monitors n m })
  | none => (s.evictMonitor c).updCell c (fun x => { x with monitors := x.monitors ++ [m] })

/-- WAITA (10 R199). After a restore it wakes spuriously, its monitor gone (17 R324). -/
def execWaita (d a : SReg) (b : Src) (sw : Bool) (s : State) : Out :=
  if s.inHandler then s.ill (.waita d a b sw)
  else if s.me.anyPending (d :: a :: b.regs) then .next s
  else
    let ea := s.reg a
    let v := s.src b
    wordAccess s ea .read noPromote (fun l t =>
      if t.me.woken then
        ((t.upd t.cur (fun x => { x with woken := false })).writeReg t.cur d 2#64).finish b.words sw
      else match t.access t.cur l 8 ea with
      | none => .next (t.sendHeld t.cur 8 [(l, ea)])
      | some t =>
        let (data, bad, t) := t.readRaw l 8
        let t := t.lateOpt t.cur t.me.uid (bad.head?.map (fun _ => poisonTrap t.cur.cell l ea))
        let same := leWord data == v
        let t := t.armMonitor t.cur.cell ⟨t.cur.slot, false, same, ea, l, v⟩
        if same then t.park (.waita ea d) b.words sw else (t.writeReg t.cur d 0#64).finish b.words sw)

/-- MONITOR_POLL (08 R153): an armed monitor on a word outside the cell's banks fires when it differs from EXP. -/
def execMonitorPoll (c : Nat) (n : Fin 8) (s : State) : Out :=
  match listGet (s.cell c).monitors n.val with
  | none => idle s
  | some m =>
    let i : SlotId := ⟨c, m.slot⟩
    if m.fired || (m.loc.space == .local && m.loc.unit == c) then idle s
    else match s.check (s.whoAt i) m.addr 8 8 .read noPromote with
    | .ok l s =>
      match s.access i l 8 m.addr with
      | none => .next (s.sendHeld i 8 [(l, m.addr)])
      | some s =>
        let (data, bad, s) := s.readRaw l 8
        let s := s.lateOpt i (s.strand i).uid (bad.head?.map (fun _ => poisonTrap c l m.addr))
        if leWord data = m.exp then .next s else .next (s.fire c m)
    | .stall s => .next s
    | .absent _ _ s => .next s
    | .bad e ev s =>
      if m.wait then
        let s := s.updCell c (fun x => { x with monitors := listSet x.monitors n.val { m with wait := false } })
        .next (s.trapAt i e ev)
      else .next s

/-- WAITT (10 R199): at once when CYCLE has reached A. -/
def execWaitt (d a : SReg) (sw : Bool) (s : State) : Out :=
  if s.inHandler then s.ill (.waitt d a sw)
  else if s.me.anyPending [d, a] then .next s
  else if (s.reg a).toNat ≤ s.cycle.toNat then (s.writeReg s.cur d s.cycle).finish 1 sw
  else s.park (.waitt (s.reg a) d) 1 sw

/-- WAITT_EXPIRY (10 R199). -/
def execWaittExpiry (c : Nat) (k : Fin 5) (s : State) : Out :=
  match (s.strand ⟨c, k⟩).status with
  | .parked (.waitt limit d) =>
    if limit.toNat ≤ s.cycle.toNat then .next ((s.writeReg ⟨c, k⟩ d s.cycle).complete ⟨c, k⟩) else idle s
  | _ => idle s

/-- YIELD (10 R199): the other Ready slots are noted, and the slot is passed over until each has issued or left Ready. -/
def execYield (sw : Bool) (s : State) : Out :=
  let c := s.cur.cell
  let noted := (List.finRange 5).filter (fun k =>
    k != s.cur.slot && decide (((s.cell c).strands[k] : Strand).status = .ready))
  (s.updCell c (fun x => { x with yields := (s.cur.slot, noted) :: x.yields.filter (fun y => y.1 != s.cur.slot) })).finish
    1 sw

/-- SLEEP (10 R199): 0 for no limit. -/
def execSleep (a : SReg) (sw : Bool) (s : State) : Out :=
  if s.inHandler then s.ill (.sleep a sw)
  else if s.me.anyPending [a] then .next s
  else
    let v := (s.reg a).toNat
    s.park (.sleep (if v = 0 then none else some (s.cycle.toNat + v))) 1 sw

/-- SLEEP_EXPIRY (10 R199). -/
def execSleepExpiry (c : Nat) (k : Fin 5) (s : State) : Out :=
  match (s.strand ⟨c, k⟩).status with
  | .parked (.sleep (some limit)) => if limit ≤ s.cycle.toNat then .next (s.complete ⟨c, k⟩) else idle s
  | _ => idle s

/-! ### Twin signals (12 R238) -/

/-- TWSIG (12 R238): ILL in lockstep, PROT with the twin's number when the twin is away. -/
def execTwsig (n : Fin 4) (sw : Bool) (s : State) : Out :=
  if s.me.lock then s.ill (.twsig n sw)
  else if !s.twinPresent s.cur.cell then s.trap .prot (BitVec.ofNat 64 (twinOfCell (s.homeOf s.cur.cell)))
  else s.release .twin (.twsig n) 1 sw

/-- TWWAIT (12 R238): the value before the subtraction; in a handler it does not park. -/
def execTwwait (d : SReg) (n : Fin 4) (sw : Bool) (s : State) : Out :=
  let v := (s.cell s.cur.cell).sig[n]
  if s.me.lock then s.ill (.twwait d n sw)
  else if s.me.anyPending [d] then .next s
  else if v = 0#8 then
    (if s.inHandler then (s.writeReg s.cur d 0#64).finish 1 sw else s.park (.twwait n d) 1 sw)
  else
    ((s.updCell s.cur.cell (fun x => { x with sig := x.sig.set n (v - 1#8) })).writeReg s.cur d (v.setWidth 64)).finish 1
      true

/-! ### Post registers (06 R111, 14 R262-R265) -/

/-- The module cell id that a target operand names, in the team's home column. -/
def State.namedCell (s : State) (c : Nat) (v : Word) : Word :=
  BitVec.ofNat 64 (columnOf (s.homeOf c) * 65536 + v.toNat % 65536)

/-- PUT (14 R262). -/
def execPut (m : PostIx) (a : SReg) (b : Src) (sw : Bool) (s : State) : Out :=
  if s.me.anyPending (a :: b.regs) then .next s
  else match s.targetCell s.cur.cell (s.reg a) with
  | none => s.trap .prot (s.namedCell s.cur.cell (s.reg a))
  | some target => s.release (commonScope s.cur.cell target) (.put m target (s.src b)) b.words sw

/-- A value is taken from a post register of a lockstep cell: a rollback puts it back (02 R49). -/
def State.noteTaken (s : State) (i : SlotId) (m : PostIx) (p : Post) : State :=
  if (s.strand i).lock then
    s.updPair (pairOf i.cell) (fun q => { q with taken := q.taken ++ [⟨m, i.cell, p.value, p.scope⟩] })
  else s

/-- A value goes to the taker parked in slot k: TAKE and TAKEF clear presence, TAKEF forwards behind its release. -/
def State.serveTake (s : State) (i : SlotId) (kind : TakeKind) (m : PostIx) (d : SReg) : State :=
  let p := (s.cell i.cell).posts[m]
  let clear (s : State) : State :=
    (s.noteTaken i m p).updCell i.cell (fun x => { x with posts := x.posts.set m { p with present := false } })
  let s := s.writeReg i d p.value
  match kind with
  | .peek => s.completeAcquire i
  | .take => (clear s).completeAcquire i
  | .takef =>
    let t := s.strand i
    if t.chainEn then
      match s.targetCell i.cell (t.chainCell.setWidth 64) with
      | none => (clear s).completeAcquire i
      | some target =>
        let sc := commonScope i.cell target
        ((clear s).upd i (fun t => { t with status := .parked (.release sc (.takefPut m target p.value)) })).tryRelease i
    else (clear s).completeAcquire i

/-- The slots of the cell parked on a register in a kind of take, with the count of steps when they parked. -/
def Cell.takers (x : Cell) (m : PostIx) (peek : Bool) : List (Fin 5 × TakeKind × SReg × Nat) :=
  (List.finRange 5).filterMap (fun k =>
    match (x.strands[k] : Strand).status with
    | .parked (.take kind n d since) =>
      if n = m ∧ (kind = .peek ↔ peek = true) then some (k, kind, d, since) else none
    | _ => none)

/-- The entry parked longest. -/
def oldest : List (Fin 5 × TakeKind × SReg × Nat) → Option (Fin 5 × TakeKind × SReg × Nat)
  | [] => none
  | x :: xs =>
    match oldest xs with
    | none => some x
    | some y => if y.2.2.2 < x.2.2.2 then some y else some x

/-- A present register serves its waiters: every PEEK first, then the oldest TAKE or TAKEF; while that leaves it clear,
the next held value of the register becomes present. The count bounds the held values. -/
def State.settle (s : State) (c : Nat) (m : PostIx) : Nat → State
  | 0 => s
  | n + 1 =>
    let p := (s.cell c).posts[m]
    if p.present then
      let s := ((s.cell c).takers m true).foldl (fun (s : State) e => s.serveTake ⟨c, e.1⟩ .peek m e.2.2.1) s
      match oldest ((s.cell c).takers m false) with
      | none => s
      | some e => (s.serveTake ⟨c, e.1⟩ e.2.1 m e.2.2.1).settle c m n
    else
      match listFind (fun (h : HeldPost) => h.m == m) (s.cell c).held with
      | none => s
      | some k =>
        match listGet (s.cell c).held k with
        | none => s
        | some h =>
          let s := s.updCell c (fun x =>
            { x with held := listErase x.held k, posts := x.posts.set m ⟨h.value, true, h.scope⟩ })
          (s.wakeSleepers c).settle c m n

/-- Enough for the value in the register and the eight held. -/
def settleBound : Nat := 18

/-- A take that finds or awaits the register (14 R263). -/
def takeOp (s : State) (kind : TakeKind) (m : PostIx) (d : SReg) (sw : Bool) : Out :=
  if s.me.anyPending [d] then .next s
  else
    let c := s.cur.cell
    let present := (s.cell c).posts[m].present
    let s := s.upd s.cur (fun t => { t with status := .parked (.take kind m d s.tick), words := 1, marker := sw })
    if present then .next ((s.serveTake s.cur kind m d).settle c m settleBound) else .next s

/-- TAKE (14 R263). -/
def execTake (d : SReg) (m : PostIx) (sw : Bool) (s : State) : Out :=
  if s.inHandler then s.ill (.take d m sw) else takeOp s .take m d sw
/-- PEEK (14 R263). -/
def execPeek (d : SReg) (m : PostIx) (sw : Bool) (s : State) : Out :=
  if s.inHandler then s.ill (.peek d m sw) else takeOp s .peek m d sw
/-- TAKEF (14 R264): a chain outside the team raises PROT; in a handler it does not park. -/
def execTakef (d : SReg) (m : PostIx) (sw : Bool) (s : State) : Out :=
  let t := s.me
  let named : Word := t.chainCell.setWidth 64
  if t.chainEn && (s.targetCell s.cur.cell named).isNone then s.trap .prot (s.namedCell s.cur.cell named)
  else if s.inHandler && !(s.cell s.cur.cell).posts[m].present then
    (if t.anyPending [d] then .next s else (s.writeReg s.cur d 0#64).finish 1 sw)
  else takeOp s .takef m d sw

/-- The presence bits of a cell as a mask (14 R265). -/
def presenceMask (x : Cell) : Word := BitVec.ofNat 64 ((List.finRange 32).foldl (fun (n : Nat) (m : Fin 32) =>
  if x.posts[m].present then n + 2 ^ m.val else n) 0)

/-- PRES (14 R265). -/
def execPres (d : SReg) (m : PostIx) (sw : Bool) (s : State) : Out :=
  let x := s.cell s.cur.cell
  scalarOp s [] d (presenceMask x + (if x.posts[m].present then BitVec.ofNat 64 (2 ^ 63) else 0#64)) 1 sw

/-- g, of index j, has come to the cell of f, of index k, before it: in an earlier cycle, or in the same one from a lower cell
number, or after an earlier packet of its cell. -/
def Flight.camebefore (g f : Flight) (j k : Nat) : Bool :=
  match g.reached, f.reached with
  | some x, some y => g.dstCell == f.dstCell && decide (x < y ∨ x = y ∧ (g.srcCell < f.srcCell ∨ g.srcCell = f.srcCell ∧ j < k))
  | _, _ => false

/-- A packet at its cell's port that goes before flight k of the same kind. -/
def State.first (s : State) (k : Nat) (f : Flight) (rival : Body → Bool) : Bool :=
  !(List.range s.net.length).any (fun j =>
    (listGet s.net j).any (fun g => g.camebefore f j k && rival g.body))

/-- A packet comes to its cell's port, where it fills a buffer of its own class alone, or is taken there in a later cycle (02
R44, 06 R111, 08 R151). -/
def atPort (s : State) (k : Nat) (kind : Body → Bool) (go : Flight → Nat → Out) : Out :=
  match listGet s.net k with
  | none => idle s
  | some f =>
    match f.dstCell with
    | none => idle s
    | some c =>
      if !kind f.body then idle s
      else if s.delivers k f then .next (s.arrive k f)
      else if s.came f then go f c
      else idle s

/-- A PUT at the port goes before another of the same register, or of any register when both find theirs present. -/
def Cell.putRival (x : Cell) (m : PostIx) (b : Body) : Bool :=
  match b with
  | .put n _ _ => n == m || (x.posts[n].present && x.posts[m].present)
  | _ => false

/-- PUT_ARRIVAL (06 R111). -/
def execPutArrival (k : Nat) (s : State) : Out :=
  atPort s k (fun b => match b with | .put .. => true | _ => false) (fun f c =>
    match f.body with
    | .put m v sc =>
      if !s.first k f ((s.cell c).putRival m) then idle s
      else if (s.cell c).posts[m].present then
        (if (s.cell c).held.length < 8 then
          .next ((s.without k).updCell c (fun x => { x with held := x.held ++ [⟨m, f.srcCell, v, sc⟩] }))
        else idle s)
      else
        let s := (s.without k).updCell c (fun x => { x with posts := x.posts.set m ⟨v, true, sc⟩ })
        .next ((s.wakeSleepers c).settle c m settleBound)
    | _ => idle s)

/-! ### Messages (14 R267, R268; 02 R44) -/

/-- The payload registers n0 to n(w-1). -/
def payload (s : State) (w : Nat) : List Word :=
  ((List.finRange 8).take w).map (fun (k : Fin 8) => s.reg (.n k))

/-- SEND (14 R267). -/
def execSend (c : Cls) (a : SReg) (n : Fin 8) (sw : Bool) (s : State) : Out :=
  if s.me.anyPending (a :: ((List.finRange 8).take n.val).map SReg.n) then .next s
  else match s.targetCell s.cur.cell (s.reg a) with
  | none => s.trap .prot (s.namedCell s.cur.cell (s.reg a))
  | some target => s.release (commonScope s.cur.cell target) (.send c target (payload s n.val)) 1 sw

/-- MASKC (14 R268). -/
def execMaskc (c : Cls) (sw : Bool) (s : State) : Out :=
  if s.inHandler then s.ill (.maskc c sw)
  else (s.upd s.cur (fun t => { t with clsmask := t.clsmask ||| BitVec.ofNat 8 (2 ^ c.val) })).finish 1 sw
/-- UNMASKC (14 R268). -/
def execUnmaskc (c : Cls) (sw : Bool) (s : State) : Out :=
  if s.inHandler then s.ill (.unmaskc c sw)
  else (s.upd s.cur (fun t => { t with clsmask := t.clsmask &&& ~~~(BitVec.ofNat 8 (2 ^ c.val)) })).finish 1 sw
/-- CLSR (14 R268). -/
def execClsr (d : SReg) (c : Cls) (sw : Bool) (s : State) : Out :=
  let e := (s.cell s.cur.cell).classes[c]
  scalarOp s [] d (e.entry ++ 0#1 ++ BitVec.ofBool e.perm) 1 sw

/-- DONE (14 R269): ILL in a strand slot; the handler ends at HANDLER_END. -/
def execDone (sw : Bool) (s : State) : Out :=
  if !s.inHandler then s.ill (.done sw) else s.park .done 1 sw

/-- MESSAGE_ARRIVAL (02 R44): discarded without permission, else buffered while there is room. -/
def execMessageArrival (k : Nat) (s : State) : Out :=
  atPort s k (fun b => match b with | .msg _ => true | _ => false) (fun f c =>
    match f.body with
    | .msg m =>
      if !s.first k f (fun b => match b with | .msg n => n.cls == m.cls | _ => false) then idle s
      else if !((s.cell c).classes[m.cls]).perm then
        .next ((s.without k).updCell c (fun x => { x with msgdisc := countUp x.msgdisc }))
      else if (s.cell c).inbox.length < 8 then .next ((s.without k).updCell c (fun x => { x with inbox := x.inbox ++ [m] }))
      else idle s
    | _ => idle s)

/-- The cell holds a class while one of its strands does. -/
def Cell.holdsClass (x : Cell) (c : Nat) : Bool := x.strands.toList.any (fun t => t.clsmask.getLsbD c)

/-- The message that enters next: the oldest of the lowest class that is not held. -/
def Cell.nextMessage (x : Cell) : Option Nat :=
  let ready (c : Nat) : Option Nat := if x.holdsClass c then none else listFind (fun (m : Msg) => m.cls.val == c) x.inbox
  (List.range 8).findSome? ready

/-- A strand with fresh registers (00 R14), with the fields that the bind record gives (06 R117-R119). -/
def freshStrand (r : BindRec) (uid : Nat) : Strand :=
  { Strand.zero with status := .ready, uid := uid, dcls := r.dcls, lock := r.lock, tvec := r.tvec.extractLsb' 2 62 }

/-- The number of a partition's grid in the table of grids. -/
def gridKey (part id : Nat) : Nat := part * 65536 + id
def BindRec.gridKey (r : BindRec) : Nat := Machine.gridKey r.part.toNat r.grid.toNat

/-- A field of a grid image's header (18 R339). -/
def Image.field (x : Image) (off n : Nat) : Nat := leNat ((x.header.drop off).take n)
def Image.code (x : Image) : BitVec 24 := BitVec.ofNat 24 (x.field 8 3)
def Image.shape (x : Image) : Nat := x.field 0x20 8
/-- Bytes of a stack and of a spill handle; 0 gives 64 KiB. -/
def Image.stackSize (x : Image) : Nat := if x.field 0x30 4 = 0 then 65536 else x.field 0x30 4
def Image.spillSize (x : Image) : Nat := if x.field 0x34 4 = 0 then 65536 else x.field 0x34 4

/-- The image of a bind record's grid. -/
def State.imageOf (s : State) (r : BindRec) : Image := s.images.get Image.zero (s.grid r.gridKey).image
/-- The code handle of a bind record's grid. -/
def State.codeHandle (s : State) (r : BindRec) : BitVec 24 := (s.imageOf r).code

/-- The class 2 address of an offset in a handle. -/
def handleAddr (h : BitVec 24) (off : Nat) : Word := 0x2#4 ++ h ++ BitVec.ofNat 36 off

/-- The window registers that hold a list of arguments, a0 first; the rest read zero. -/
def argRegs (args : List Word) : Vector Word 8 := Vector.ofFn (fun (k : Fin 8) => args.getD k.val 0#64)

/-- HANDLER_ENTRY (02 R44, 14 R267). SPLH and sp, which come from no bind record here, are 0 (DESIGN CHOICE, log 4). -/
def execHandlerEntry (c : Nat) (s : State) : Out :=
  let x := s.cell c
  match x.nextMessage, s.recOf c with
  | some k, some r =>
    if (x.strands[(4 : Fin 5)] : Strand).status ≠ .free ∨ s.saving c 2 then idle s
    else match listGet x.inbox k with
    | none => idle s
    | some m =>
      let regs := argRegs (m.payload ++ List.replicate (7 - m.payload.length) 0#64 ++ [BitVec.ofNat 64 m.sender])
      let t : Strand := { freshStrand r (s.uids + 1) with
        ra := regs
        mcls := BitVec.ofNat 3 m.cls.val
        pc := handleAddr (s.codeHandle r) (4 * (x.classes[m.cls]).entry.toNat) }
      let s := { s with uids := s.uids + 1 }
      let s := s.updCell c (fun x => { x with inbox := listErase x.inbox k, strands := x.strands.set (4 : Fin 5) t })
      let s := if r.lock then s.updPair (pairOf c) (fun q => { q with entered := q.entered ++ [m] }) else s
      .next (s.wakeSleepers c)
  | _, _ => idle s

/-- The handler slot becomes Free. -/
def State.freeHandler (s : State) (c : Nat) : State := (s.leaveCount ⟨c, 4⟩).upd ⟨c, 4⟩ (·.ended)

/-- The handler is about to issue its 2,049th instruction (02 R45). -/
def Strand.tooLong (t : Strand) : Bool := decide (t.status = .ready) && decide (2048 ≤ t.instret.toNat) && !t.sup

/-- HANDLONG (02 R45, 17 R314): the handler takes the trap at its 2,049th instruction, after a late trap and SSTEP (R315), and the supervisor's action on it ends
the handler and counts it in HLONG. -/
def execHandlong (c : Nat) (s : State) : Out :=
  let i : SlotId := ⟨c, 4⟩
  let t := s.strand i
  if t.tooLong && !t.takesLate && !t.stepDue then .next (s.trapAt i .handlong (t.mcls.setWidth 64))
  else if t.status ≠ .free ∧ t.sup ∧ t.ecause = BitVec.ofNat 9 Cause.handlong.code then
    .next ((s.freeHandler c).updCell c (fun x => { x with hlong := countUp x.hlong }))
  else idle s

/-- HANDLER_END (14 R269): after DONE, once every result has returned and no register is pending. A late trap comes first (R260). -/
def execHandlerEnd (c : Nat) (s : State) : Out :=
  let t := s.strand ⟨c, 4⟩
  if t.status = .parked .done ∧ s.windowFree ⟨c, 4⟩ ∧ t.late.isEmpty then .next (s.freeHandler c) else idle s

end Sys2Proof.Machine
end

