-- ==== Sys2Proof/Machine/Vector.lean ====
section
/-! DEFINITION. The vector unit: VFP, VINT, VMISC, VCVT and the block scales (11 R200-R214). -/

namespace Sys2Proof.Machine

open Sys2Proof

/-! ### Lanes -/

def Strand.setV (t : Strand) (r : VReg) (v : Nat) : Strand := { t with v := t.v.set r (BitVec.ofNat 128 v) }
def Strand.setK (t : Strand) (r : KReg) (m : BitVec 32) : Strand := { t with k := t.k.set r m }

/-- Writes a vector register and ends the instruction. -/
def finishV (s : State) (d : VReg) (v : Nat) (words : Nat) (sw : Bool) : Out :=
  (s.upd s.cur (·.setV d v)).finish words sw
def finishK (s : State) (d : KReg) (m : BitVec 32) (words : Nat) (sw : Bool) : Out :=
  (s.upd s.cur (·.setK d m)).finish words sw

/-- The lanes of a vector register, w bits each. -/
def Strand.lanes (t : Strand) (w : Nat) (r : VReg) : List Nat := lanesOf w (128 / w) (t.v[r]).toNat

/-- The lanes of a vector register as values, input-flushed (11 R200). -/
def Strand.floats (t : Strand) (f : FFmt) (r : VReg) : List FVal := (t.lanes f.width r).map (f.rd t.fmode)

/-- Takes n draws from SEED: the values, one for each rounded lane (05 R92). -/
def State.draw (s : State) (n : Nat) : List Nat × State :=
  let t := s.me
  let (rs, seed) := draws t.rmode.toNat n t.seed
  (rs, s.upd s.cur (fun t => { t with seed := seed }))

/-- Rounds lane values into a format, drawing for each. -/
def roundLanes (f : FFmt) (mode : Nat) (fm : BitVec 8) : List FVal → List Nat → List Nat
  | [], _ => []
  | x :: xs, rs => f.wr mode fm (rs.headD 0) x :: roundLanes f mode fm xs rs.tail

/-- Writes rounded lanes: those of a member that draws, or exact ones. -/
def writeLanes (s : State) (f : FFmt) (d : VReg) (xs : List FVal) (drawn : Bool) (words : Nat) (sw : Bool) : Out :=
  let t := s.me
  let (rs, s) := if drawn then s.draw xs.length else ([], s)
  finishV s d (packLanes f.width (roundLanes f t.rmode.toNat t.fmode xs rs)) words sw

/-! ### VFP (11 R202, R203) -/

/-- A VFP instruction of the issuing strand's cell would come fewer than VSP cycles after the last (18 R355). -/
def State.vfpHeld (s : State) : Bool :=
  match (s.cell s.cur.cell).lastVfp with
  | some n => decide (s.cycle.toNat < n + s.vsp)
  | none => false

/-- A VFP instruction issues, and its cell notes the cycle; or it stalls (18 R355). -/
def vfpIssue (s : State) (go : State → Out) : Out :=
  if s.vfpHeld then .next s else go (s.updCell s.cur.cell (fun x => { x with lastVfp := some s.cycle.toNat }))

def vfp1 (s : State) (ty : FTy) (d a : VReg) (drawn : Bool) (sw : Bool) (g : FVal → FVal) : Out :=
  let f := ftyFmt ty
  vfpIssue s (fun s => writeLanes s f d ((s.me.floats f a).map g) drawn 1 sw)
def vfp2 (s : State) (ty : FTy) (d a b : VReg) (drawn : Bool) (sw : Bool) (g : FVal → FVal → FVal) : Out :=
  let f := ftyFmt ty
  vfpIssue s (fun s => writeLanes s f d (List.zipWith g (s.me.floats f a) (s.me.floats f b)) drawn 1 sw)
def vfpCmp (s : State) (ty : FTy) (d : KReg) (a b : VReg) (sw : Bool) (g : FVal → FVal → Bool) : Out :=
  let f := ftyFmt ty
  vfpIssue s (fun s => finishK s d (predicate (List.zipWith g (s.me.floats f a) (s.me.floats f b))) 1 sw)

/-- The mode rounds down, which decides the sign of an exact zero sum (05 R91). -/
def Strand.rdn (t : Strand) : Bool := t.rmode == 2#3

/-- VFP VADD (11 R202). -/
def execVfpVadd (ty : FTy) (d a b : VReg) (sw : Bool) (s : State) : Out := vfp2 s ty d a b true sw (FVal.add s.me.rdn)
/-- VFP VSUB (11 R202). -/
def execVfpVsub (ty : FTy) (d a b : VReg) (sw : Bool) (s : State) : Out :=
  vfp2 s ty d a b true sw (fun x y => FVal.add s.me.rdn x y.neg)
/-- VFP VMUL (11 R202). -/
def execVfpVmul (ty : FTy) (d a b : VReg) (sw : Bool) (s : State) : Out := vfp2 s ty d a b true sw FVal.mul
/-- VFMA (11 R202): D is the addend; one rounding. -/
def execVfma (ty : FTy) (d a b : VReg) (sw : Bool) (s : State) : Out :=
  let f := ftyFmt ty
  let ps := List.zipWith FVal.mul (s.me.floats f a) (s.me.floats f b)
  vfpIssue s (fun s => writeLanes s f d (List.zipWith (FVal.add s.me.rdn) ps (s.me.floats f d)) true 1 sw)
/-- VFP VMIN (11 R202). -/
def execVfpVmin (ty : FTy) (d a b : VReg) (sw : Bool) (s : State) : Out := vfp2 s ty d a b false sw FVal.min
/-- VFP VMAX (11 R202). -/
def execVfpVmax (ty : FTy) (d a b : VReg) (sw : Bool) (s : State) : Out := vfp2 s ty d a b false sw FVal.max
/-- VABS (11 R202). -/
def execVabs (ty : FTy) (d a : VReg) (sw : Bool) (s : State) : Out := vfp1 s ty d a false sw FVal.abs
/-- VNEG (11 R202). -/
def execVneg (ty : FTy) (d a : VReg) (sw : Bool) (s : State) : Out := vfp1 s ty d a false sw FVal.neg
/-- VDIV (11 R202). -/
def execVdiv (ty : FTy) (d a b : VReg) (sw : Bool) (s : State) : Out := vfp2 s ty d a b true sw FVal.div
/-- VSQRT (11 R202). -/
def execVsqrt (ty : FTy) (d a : VReg) (sw : Bool) (s : State) : Out := vfp1 s ty d a true sw FVal.sqrt
/-- VEXP2 (11 R202). -/
def execVexp2 (ty : FTy) (d a : VReg) (sw : Bool) (s : State) : Out := vfp1 s ty d a true sw FVal.exp2
/-- VFP VCMPEQ (11 R202). -/
def execVfpVcmpeq (ty : FTy) (d : KReg) (a b : VReg) (sw : Bool) (s : State) : Out := vfpCmp s ty d a b sw FVal.eq
/-- VFP VCMPLT (11 R202). -/
def execVfpVcmplt (ty : FTy) (d : KReg) (a b : VReg) (sw : Bool) (s : State) : Out := vfpCmp s ty d a b sw FVal.lt
/-- VCMPLE (11 R202). -/
def execVcmple (ty : FTy) (d : KReg) (a b : VReg) (sw : Bool) (s : State) : Out := vfpCmp s ty d a b sw FVal.le

/-! ### VINT (11 R204) -/

def ITy.width : ITy → Nat
  | .i8 | .n8 => 8
  | .i16 | .n16 => 16
  | .i32 | .n32 => 32
  | .i64 | .n64 => 64
def ITy.signed : ITy → Bool
  | .i8 | .i16 | .i32 | .i64 => true
  | _ => false

/-- A lane as the number the type reads. -/
def laneInt (signed : Bool) (w v : Nat) : Int := if signed then toSigned w v else (v % 2 ^ w : Nat)

def vint (s : State) (ty : ITy) (d a b : VReg) (sw : Bool) (g : Nat → Nat → Nat → Nat) : Out :=
  let w := ITy.width ty
  finishV s d (packLanes w (List.zipWith (g w) (s.me.lanes w a) (s.me.lanes w b))) 1 sw
def vintCmp (s : State) (ty : ITy) (d : KReg) (a b : VReg) (sw : Bool) (g : Nat → Nat → Nat → Bool) : Out :=
  let w := ITy.width ty
  finishK s d (predicate (List.zipWith (g w) (s.me.lanes w a) (s.me.lanes w b))) 1 sw

/-- VINT VADD (11 R204). -/
def execVintVadd (ty : ITy) (d a b : VReg) (sw : Bool) (s : State) : Out := vint s ty d a b sw (fun _ x y => x + y)
/-- VINT VSUB (11 R204). -/
def execVintVsub (ty : ITy) (d a b : VReg) (sw : Bool) (s : State) : Out :=
  vint s ty d a b sw (fun w x y => x + (2 ^ w - y))
/-- VINT VMUL (11 R204). -/
def execVintVmul (ty : ITy) (d a b : VReg) (sw : Bool) (s : State) : Out := vint s ty d a b sw (fun _ x y => x * y)
/-- VINT VMIN (11 R204). -/
def execVintVmin (ty : ITy) (d a b : VReg) (sw : Bool) (s : State) : Out :=
  vint s ty d a b sw (fun w x y => if laneInt (ITy.signed ty) w x ≤ laneInt (ITy.signed ty) w y then x else y)
/-- VINT VMAX (11 R204). -/
def execVintVmax (ty : ITy) (d a b : VReg) (sw : Bool) (s : State) : Out :=
  vint s ty d a b sw (fun w x y => if laneInt (ITy.signed ty) w x ≤ laneInt (ITy.signed ty) w y then y else x)
/-- VMINN (11 R204). -/
def execVminn (ty : ITy) (d a b : VReg) (sw : Bool) (s : State) : Out := vint s ty d a b sw (fun _ x y => Min.min x y)
/-- VMAXN (11 R204). -/
def execVmaxn (ty : ITy) (d a b : VReg) (sw : Bool) (s : State) : Out := vint s ty d a b sw (fun _ x y => Max.max x y)
/-- VAND (11 R204). -/
def execVand (ty : ITy) (d a b : VReg) (sw : Bool) (s : State) : Out := vint s ty d a b sw (fun _ x y => x &&& y)
/-- VOR (11 R204). -/
def execVor (ty : ITy) (d a b : VReg) (sw : Bool) (s : State) : Out := vint s ty d a b sw (fun _ x y => x ||| y)
/-- VXOR (11 R204). -/
def execVxor (ty : ITy) (d a b : VReg) (sw : Bool) (s : State) : Out := vint s ty d a b sw (fun _ x y => x ^^^ y)
/-- VSHL (11 R204): each lane by its own count. -/
def execVshl (ty : ITy) (d a b : VReg) (sw : Bool) (s : State) : Out :=
  vint s ty d a b sw (fun w x y => x * 2 ^ (y % w))
/-- VSHR (11 R204). -/
def execVshr (ty : ITy) (d a b : VReg) (sw : Bool) (s : State) : Out :=
  vint s ty d a b sw (fun w x y => x / 2 ^ (y % w))
/-- VSAR (11 R204). -/
def execVsar (ty : ITy) (d a b : VReg) (sw : Bool) (s : State) : Out :=
  vint s ty d a b sw (fun w x y => (toSigned w x / 2 ^ (y % w) % 2 ^ w).toNat)
/-- VINT VCMPEQ (11 R204). -/
def execVintVcmpeq (ty : ITy) (d : KReg) (a b : VReg) (sw : Bool) (s : State) : Out :=
  vintCmp s ty d a b sw (fun _ x y => x == y)
/-- VINT VCMPLT (11 R204). -/
def execVintVcmplt (ty : ITy) (d : KReg) (a b : VReg) (sw : Bool) (s : State) : Out :=
  vintCmp s ty d a b sw (fun w x y => decide (laneInt (ITy.signed ty) w x < laneInt (ITy.signed ty) w y))
/-- VCMPLTN (11 R204). -/
def execVcmpltn (ty : ITy) (d : KReg) (a b : VReg) (sw : Bool) (s : State) : Out :=
  vintCmp s ty d a b sw (fun _ x y => decide (x < y))

/-! ### VMISC (11 R205-R207) -/

def ElemTy.width : ElemTy → Nat
  | .i8 | .n8 | .e4m3 | .e5m2 => 8
  | .i16 | .n16 | .f16 | .bf16 => 16
  | .i32 | .n32 | .f32 => 32
  | .i64 | .n64 => 64
def ElemTy.signed : ElemTy → Bool
  | .i8 | .i16 | .i32 | .i64 => true
  | _ => false
def ElemTy.float : ElemTy → Option FFmt
  | .f32 => some fmtF32
  | .f16 => some fmtF16
  | .bf16 => some fmtBf16
  | .e4m3 => some fmtE4m3
  | .e5m2 => some fmtE5m2
  | _ => none

/-- A scalar result from vector sources: it stalls on a pending destination. -/
def scalarFromV (s : State) (d : SReg) (v : Word) (sw : Bool) : Out := scalarOp s [] d v 1 sw

/-- VBCAST (11 R205): raw bits. -/
def execVbcast (ty : ElemTy) (d : VReg) (a : SReg) (sw : Bool) (s : State) : Out :=
  let w := ElemTy.width ty
  if s.me.anyPending [a] then .next s
  else finishV s d (packLanes w (List.replicate (128 / w) (s.reg a).toNat)) 1 sw
/-- VMOVS (11 R205). -/
def execVmovs (d : SReg) (a : VReg) (lane : Fin 2) (sw : Bool) (s : State) : Out :=
  scalarFromV s d ((s.me.v[a]).extractLsb' (64 * lane.val) 64) sw
/-- VINS (11 R205). -/
def execVins (d : VReg) (a : SReg) (lane : Fin 2) (sw : Bool) (s : State) : Out :=
  if s.me.anyPending [a] then .next s
  else
    let ls := s.me.lanes 64 d
    finishV s d (packLanes 64 (listSet ls lane.val (s.reg a).toNat)) 1 sw
/-- VSHUF (11 R205). -/
def execVshuf (d a : VReg) (b : Src) (sw : Bool) (s : State) : Out :=
  if s.me.anyPending b.regs then .next s
  else
    let ls := s.me.lanes 8 a
    let sel := lanesOf 4 16 (s.src b).toNat
    finishV s d (packLanes 8 (sel.map (fun j => ls.getD j 0))) b.words sw
def LaneW.width : LaneW → Nat
  | .b8 => 8 | .b16 => 16 | .b32 => 32 | .b64 => 64
/-- Lane j from the first list where bit j of the mask is set, else from the second. -/
def mergeLanes : Nat → List Nat → List Nat → List Nat
  | m, x :: xs, y :: ys => (if m % 2 = 1 then x else y) :: mergeLanes (m / 2) xs ys
  | _, _, _ => []
/-- VSEL (11 R205). -/
def execVsel (d a : VReg) (k : KReg) (w : LaneW) (sw : Bool) (s : State) : Out :=
  let n := LaneW.width w
  finishV s d (packLanes n (mergeLanes (s.me.k[k]).toNat (s.me.lanes n a) (s.me.lanes n d))) 1 sw

/-- The sum, maximum and minimum of signed or unsigned lanes. -/
def intLanes (s : State) (ty : ElemTy) (a : VReg) : List Int :=
  (s.me.lanes (ElemTy.width ty) a).map (laneInt (ElemTy.signed ty) (ElemTy.width ty))
def foldLanes {α : Type} (f : α → α → α) (dflt : α) : List α → α
  | [] => dflt
  | x :: xs => xs.foldl f x

/-- VREDADD (11 R206): one rounding, and one draw, on float types. -/
def execVredadd (ty : ElemTy) (d : SReg) (a : VReg) (sw : Bool) (s : State) : Out :=
  if s.me.anyPending [d] then .next s
  else match ElemTy.float ty with
  | some f =>
    let t := s.me
    let x := foldLanes (FVal.add t.rdn) (.zero false) (t.floats f a)
    let (rs, s) := s.draw 1
    scalarFromV s d (BitVec.ofNat 64 (f.wr t.rmode.toNat t.fmode (rs.headD 0) x)) sw
  | none => scalarFromV s d (BitVec.ofInt 64 (intLanes s ty a).sum) sw
/-- A reduction that chooses a lane. -/
def redChoose (s : State) (ty : ElemTy) (d : SReg) (a : VReg) (sw : Bool) (g : FVal → FVal → FVal) (h : Int → Int → Int) :
    Out :=
  match ElemTy.float ty with
  | some f =>
    let t := s.me
    scalarFromV s d (BitVec.ofNat 64 (f.wr 0 t.fmode 0 (foldLanes g (.zero false) (t.floats f a)))) sw
  | none => scalarFromV s d (BitVec.ofInt 64 (foldLanes h 0 (intLanes s ty a))) sw
/-- VREDMAX (11 R206). -/
def execVredmax (ty : ElemTy) (d : SReg) (a : VReg) (sw : Bool) (s : State) : Out :=
  redChoose s ty d a sw FVal.max (fun x y => Max.max x y)
/-- VREDMIN (11 R206). -/
def execVredmin (ty : ElemTy) (d : SReg) (a : VReg) (sw : Bool) (s : State) : Out :=
  redChoose s ty d a sw FVal.min (fun x y => Min.min x y)

/-- KAND (11 R205). -/
def execKand (d a b : KReg) (sw : Bool) (s : State) : Out := finishK s d (s.me.k[a] &&& s.me.k[b]) 1 sw
/-- KOR (11 R205). -/
def execKor (d a b : KReg) (sw : Bool) (s : State) : Out := finishK s d (s.me.k[a] ||| s.me.k[b]) 1 sw
/-- KXOR (11 R205). -/
def execKxor (d a b : KReg) (sw : Bool) (s : State) : Out := finishK s d (s.me.k[a] ^^^ s.me.k[b]) 1 sw
/-- KNOT (11 R205). -/
def execKnot (d a : KReg) (sw : Bool) (s : State) : Out := finishK s d (~~~s.me.k[a]) 1 sw
/-- KMOV (11 R207). -/
def execKmov (f : KmovForm) (sw : Bool) (s : State) : Out :=
  match f with
  | .kk d a => finishK s d (s.me.k[a]) 1 sw
  | .sk d a => scalarFromV s d ((s.me.k[a]).setWidth 64) sw
  | .ks d a => if s.me.anyPending [a] then .next s else finishK s d ((s.reg a).setWidth 32) 1 sw
/-- VZERO (11 R205). -/
def execVzero (d : VorK) (sw : Bool) (s : State) : Out :=
  match d with
  | .v r => finishV s r 0 1 sw
  | .k r => finishK s r 0#32 1 sw
/-- VMOV (11 R205). -/
def execVmov (d a : VReg) (sw : Bool) (s : State) : Out := finishV s d (s.me.v[a]).toNat 1 sw

/-! ### VCVT (11 R208, R209) -/

/-- The least and greatest value of an integer type. -/
def ElemTy.range (ty : ElemTy) : Int × Int :=
  let w := ElemTy.width ty
  if ElemTy.signed ty then (-(2 ^ (w - 1)), 2 ^ (w - 1) - 1) else (0, 2 ^ w - 1)

/-- One element converted. -/
def convertElem (dt st : ElemTy) (sat : Bool) (mode : Nat) (fm : BitVec 8) (r v : Nat) : Nat :=
  let ws := ElemTy.width st
  let wd := ElemTy.width dt
  let (lo, hi) := ElemTy.range dt
  let wrap (x : Int) : Nat := (x % 2 ^ wd).toNat
  match ElemTy.float st, ElemTy.float dt with
  | some f, some g => g.encode mode (outFlush fm g) sat r (f.rd fm v)
  | some f, none => wrap (toInteger mode r lo hi (f.rd fm v))
  | none, some g => g.encode mode (outFlush fm g) sat r (FVal.ofInt (laneInt (ElemTy.signed st) ws v))
  | none, none => wrap (Max.max lo (Min.min hi (laneInt (ElemTy.signed st) ws v)))

def convertAll (dt st : ElemTy) (sat : Bool) (mode : Nat) (fm : BitVec 8) : List Nat → List Nat → List Nat
  | [], _ => []
  | v :: vs, rs => convertElem dt st sat mode fm (rs.headD 0) v :: convertAll dt st sat mode fm vs rs.tail

/-- VCVT (11 R208, R209). -/
def execVcvt (dt st : ElemTy) (sat : Bool) (d a : VReg) (sw : Bool) (s : State) : Out :=
  let t := s.me
  let n := 128 / Max.max (ElemTy.width dt) (ElemTy.width st)
  let vs := lanesOf (ElemTy.width st) n (t.v[a]).toNat
  let drawn := (ElemTy.float dt).isSome || (ElemTy.float st).isSome
  let (rs, s) := if drawn then s.draw n else ([], s)
  finishV s d (packLanes (ElemTy.width dt) (convertAll dt st sat t.rmode.toNat t.fmode vs rs)) 1 sw

/-! ### Block scales (11 R210-R214) -/

/-- VSCL (11 R213). -/
def execVscl (d a : VReg) (b : Src) (ty : FTy) (sw : Bool) (s : State) : Out :=
  if s.me.anyPending b.regs then .next s
  else
    let f := ftyFmt ty
    let e := (s.src b).toNat % 64
    let xs := s.me.floats f a
    if e = 63 then writeLanes s f d (xs.map (fun _ => FVal.nan false)) false (b.words + 2) sw
    else writeLanes s f d (xs.map (FVal.scale (e - 32))) true (b.words + 2) sw

/-- A range of a block-scale instruction in the strand's own cell, with its alignment (11 R214). -/
def State.blkCheck (s : State) (c : Nat) (ea : Word) (n al : Nat) (lock : Bool) : Except Cause Nat :=
  match s.ownOffset c ea with
  | none => .error .addr
  | some off =>
    if 0xC000 < off + n then .error .addr
    else if !isAligned ea al then .error .align
    else if lock && decide (0xB000 < off + n) then .error .prot
    else .ok off

/-- The bytes of n codes of a kind: q4 packed two to a byte. -/
def codeBytes (q4 : Bool) (n : Nat) : Nat := if q4 then (n + 1) / 2 else n

/-- A run starts once its source and destination have been checked, the source first with its alignment, so that its violation is the
one taken when both are bad (DESIGN CHOICE, log 36). EVAL of a violation is the range's first address, also where the
range starts inside the cell and runs past its end (DESIGN CHOICE, log 36). -/
def startBlk (s : State) (r : BlkRun) (na ala nb alb : Nat) (words : Nat) (sw : Bool) : Out :=
  let c := s.cur.cell
  match s.blkCheck c r.src na ala s.me.lock with
  | .error e => s.trap e r.src
  | .ok _ =>
    match s.blkCheck c r.dst nb alb s.me.lock with
    | .error e => s.trap e r.dst
    | .ok _ => (s.updCell c (fun x => { x with blk := x.blk ++ [r] })).park .blockScale words sw

def BlkKind.num : BlkKind → Fin 6
  | .qi => 0 | .qf => 1 | .qp => 2 | .qh => 3 | .e4m3 => 4 | .e5m2 => 5
def DqKind.num : DqKind → Fin 6
  | .q4 => 0 | .e4m3 => 4 | .e5m2 => 5

/-- VQBLK (11 R211, R214). -/
def execVqblk (d a : SReg) (b : Src) (st : FTy) (kind : BlkKind) (n : BitVec 9) (sw : Bool) (s : State) : Out :=
  let t := s.me
  if t.anyPending (d :: a :: b.regs) then .next s
  else
    let size := elemBits (ftyCode st) / 8
    let k := BlkKind.num kind
    let r : BlkRun := {
      slot := s.cur.slot, quant := true, ty := st, kind := k, d := d, src := s.reg a, dst := s.src b, scale := 0#8,
      n := n.toNat, read := [], bad := [], written := 0, out := [], result := 0#8, computed := false, fmode := t.fmode,
      rmode := t.rmode, poison := none }
    startBlk s r (n.toNat * size) size (codeBytes (decide (k.val < 4)) n.toNat) 1 (b.words + 2) sw

/-- VDQBLK (11 R212, R214): D is read as the destination address. -/
def execVdqblk (d a : SReg) (b : Src) (dt : FTy) (kind : DqKind) (n : BitVec 9) (sw : Bool) (s : State) : Out :=
  let t := s.me
  if t.anyPending (d :: a :: b.regs) then .next s
  else
    let size := elemBits (ftyCode dt) / 8
    let k := DqKind.num kind
    let r : BlkRun := {
      slot := s.cur.slot, quant := false, ty := dt, kind := k, d := d, src := s.reg a, dst := s.reg d,
      scale := (s.src b).setWidth 8, n := n.toNat, read := [], bad := [], written := 0, out := [], result := 0#8,
      computed := false, fmode := t.fmode, rmode := t.rmode, poison := none }
    startBlk s r (codeBytes (decide (k.val < 4)) n.toNat) 1 (n.toNat * size) size (b.words + 2) sw

/-- The element format of the codes: q4 or an 8-bit float. -/
def BlkRun.codeFmt (r : BlkRun) : Nat := if r.kind.val < 4 then 7 else r.kind.val - 1
def BlkRun.srcBytes (r : BlkRun) : Nat :=
  if r.quant then r.n * (elemBits (ftyCode r.ty) / 8) else codeBytes (decide (r.kind.val < 4)) r.n

/-- x fits the scale e of a kind: its rounding does not overflow (11 R211). Mode 5 takes hi. -/
def fitsScale (mode : Nat) (kind : Nat) (e : Nat) (x : FVal) : Bool :=
  let m := if mode = 5 then 6 else mode
  match x.scale (32 - (e : Int)) with
  | .nan _ => false
  | .inf _ => false
  | .fin neg v ex st =>
    if kind < 4 then decide (round4 m neg 0 kind v ex st ≤ top4 kind neg)
    else if v = 0 then true
    else
      let f := if kind = 4 then fmtE4m3 else fmtE5m2
      let q := Max.max ((bitLen v : Int) + ex - (f.frac + 1)) f.qMin
      !f.overflows (roundMag m neg 0 v ex st q) q

/-- The smallest scale from e on, of n candidates, that every element fits; 62 when none does. -/
def findScale (mode kind : Nat) (xs : List FVal) : Nat → Nat → Nat
  | _, 0 => 62
  | e, n + 1 => if xs.all (fitsScale mode kind e) then e else findScale mode kind xs (e + 1) n

/-- VQBLK's scale byte, bytes and SEED (11 R211). -/
def quantize (r : BlkRun) (seed : BitVec 32) : BitVec 8 × List Byte × BitVec 32 :=
  let f := ftyFmt r.ty
  let mode := r.rmode.toNat
  let kind := r.kind.val
  let xs := (List.range r.n).map (fun i => f.rd r.fmode (elemAt (ftyCode r.ty) r.read i))
  let top := if kind < 4 then kind * 64 else 0
  if xs.any FVal.isNan then (BitVec.ofNat 8 (top + 63), List.replicate (codeBytes (decide (kind < 4)) r.n) 0#8, seed)
  else
    let e := findScale mode kind xs 0 63
    let (rs, seed) := draws mode r.n seed
    let code (i : Nat) : Nat :=
      encodeElem mode r.fmode (rs.getD i 0) r.codeFmt (some (top + e)) (xs.getD i (.zero false))
    (BitVec.ofNat 8 (top + e), packElems r.codeFmt ((List.range r.n).map code), seed)

/-- VDQBLK's bytes and SEED (11 R212); the elements of a poisoned column are poison. -/
def dequantize (r : BlkRun) (seed : BitVec 32) : List Byte × BitVec 32 :=
  let f := ftyFmt r.ty
  let mode := r.rmode.toNat
  let (rs, seed) := draws mode r.n seed
  let one (i : Nat) : Nat :=
    let byte := if r.kind.val < 4 then i / 2 else i
    let x := if r.bad.contains byte then FVal.nan true
      else decodeElem r.fmode r.codeFmt (some r.scale.toNat) (elemAt r.codeFmt r.read i)
    f.wr mode r.fmode (rs.getD i 0) x
  (packElems (ftyCode r.ty) ((List.range r.n).map one), seed)

/-- BANK_ACCESS of a block-scale instruction: the next source column, then the next destination column (11 R214). -/
def blkAccess (c : Nat) (k : Fin 5) (s : State) : Out :=
  match (s.cell c).blk.find? (fun r => r.slot == k) with
  | none => idle s
  | some r =>
    let i : SlotId := ⟨c, k⟩
    let put (s : State) (q : BlkRun) : State :=
      s.updCell c (fun x => { x with blk := x.blk.map (fun (y : BlkRun) => if y.slot = k then q else y) })
    let off := (r.src.extractLsb' 0 16).toNat + r.read.length
    if r.read.length < r.srcBytes then
      let m := Min.min (r.srcBytes - r.read.length) (32 - off % 32)
      let l : Loc := ⟨.local, c, off⟩
      let pos := r.src.toNat + r.read.length
      match s.access i l m (BitVec.ofNat 64 pos) with
      | none => idle s
      | some s =>
      let (bad, s) := s.checkColumn l
      let data := if bad && r.quant then (List.range m).map (fun j => poisonByte (ftyCode r.ty) (r.read.length + j))
        else s.peek l m
      let late := if bad then some (poisonTrap c l (BitVec.ofNat 64 pos)) else none
      .next (put s { r with
        read := r.read ++ data
        bad := if bad then r.bad ++ (List.range m).map (· + r.read.length) else r.bad
        poison := if r.poison.isSome then r.poison else late })
    else if !r.computed then
      let t := s.strand i
      if r.quant then
        let (b, out, seed) := quantize r t.seed
        .next (put (s.upd i (fun t => { t with seed := seed })) { r with computed := true, result := b, out := out })
      else
        let (out, seed) := dequantize r t.seed
        .next (put (s.upd i (fun t => { t with seed := seed })) { r with computed := true, out := out })
    else if r.written < r.out.length then
      let o := (r.dst.extractLsb' 0 16).toNat + r.written
      let m := Min.min (r.out.length - r.written) (32 - o % 32)
      let l : Loc := ⟨.local, c, o⟩
      match s.access i l m (r.dst + BitVec.ofNat 64 r.written) with
      | none => idle s
      | some s =>
      let (bad, s) := s.writeColumn c l ((r.out.drop r.written).take m)
      let late := if bad then some (poisonTrap c l (r.dst + BitVec.ofNat 64 r.written)) else none
      .next (put s { r with written := r.written + m, poison := if r.poison.isSome then r.poison else late })
    else idle s

/-- BLOCK_SCALE_COMPLETION (11 R214). -/
def execBlockScaleCompletion (c : Nat) (k : Fin 5) (s : State) : Out :=
  match (s.cell c).blk.find? (fun r => r.slot == k) with
  | none => idle s
  | some r =>
    if !r.computed || r.written < r.out.length then idle s
    else
      let i : SlotId := ⟨c, k⟩
      let s := s.updCell c (fun x => { x with blk := x.blk.filter (fun q => q.slot != k) })
      let s := if r.quant then s.writeReg i r.d (r.result.setWidth 64) else s
      .next ((s.complete i).lateOpt i (s.strand i).uid r.poison)

end Sys2Proof.Machine
end

