-- ==== Sys2Proof/Machine/Hire.lean ====
section
/-! DEFINITION. Hiring the arrays: HIRE and MMA as they issue (12 R215-R222, 08 R146-R150), the operand reads, steps, D
writes, completion and cancellation of hires (12 R218-R226, 05 R102-R104), the ACC members and ACCSTM (12 R227-R233, 07
R131), heat (08 R163, 12 R234) and the twin licence (08 R164, 12 R235, R237). -/

namespace Sys2Proof.Machine

open Sys2Proof

/-! ### The licence and the heat bucket (08 R163, R164; 12 R234, R235) -/

/-- HOLDER's code of a tile's array: 1 lower, 2 upper. -/
def holderCode (t : Nat) : BitVec 2 := if t / 2048 % 2 = 0 then 1#2 else 2#2
def twinTile (t : Nat) : Nat := if t / 2048 % 2 = 0 then t + 2048 else t - 2048
def State.bondAt (s : State) (t : Nat) : Bond := s.bond (bondOf t)
def State.pinned (s : State) (t : Nat) : Bool := if t / 2048 % 2 = 0 then (s.bondAt t).pinl else (s.bondAt t).pinu
/-- A hub requests while its hire queue is non-empty or its pin is set. -/
def State.requests (s : State) (t : Nat) : Bool := !(s.hub t).hires.isEmpty || s.pinned t
def State.holds (s : State) (t : Nat) : Bool := (s.bondAt t).holder == holderCode t
/-- HOLD has reached 16,384 cycles. -/
def State.holdSpent (s : State) (t : Nat) : Bool := decide ((s.bondAt t).grantAt + 16384 ≤ s.cycle.toNat)

/-- The holder gives the licence up; a twin that waits is granted 64 cycles later. -/
def State.yieldLicence (s : State) (t : Nat) : State :=
  s.updBond (bondOf t) (fun b =>
    { b with
      holder := 0#2
      lastUpper := holderCode t == 2#2
      yieldAt := if s.requests (twinTile t) then some s.cycle.toNat else none })

/-- Rules 3 and 4 of R235 at a boundary of the holder. -/
def State.licenceBoundary (s : State) (t : Nat) : State :=
  if s.holds t && (!s.requests t || (s.holdSpent t && s.requests (twinTile t))) then s.yieldLicence t else s

/-- A request that drops with no step running gives the licence up at once. -/
def State.dropLicence (s : State) (t : Nat) : State :=
  if s.holds t && !s.requests t then s.yieldLicence t else s

/-- LICENCE_HOLD_EXPIRY (12 R235): between steps the array stands at a boundary. -/
def execLicenceHoldExpiry (b : Nat) (s : State) : Out :=
  let t := if (s.bond b).holder = 2#2 then b + 2048 else b
  .next (s.licenceBoundary t)

/-- LICENCE_GRANT (12 R235 rules 2 and 5): never in minimal mode (18 R354). -/
def execLicenceGrant (b : Nat) (s : State) : Out :=
  let x := s.bond b
  let ready : Bool := match x.yieldAt with
    | none => true
    | some y => decide (y + 64 ≤ s.cycle.toNat)
  let lower := s.requests b
  let upper := s.requests (b + 2048)
  if x.holder = 0#2 ∧ ready ∧ (lower ∨ upper) ∧ !s.minimal then
    let takesUpper := upper && (!lower || !x.lastUpper)
    .next (s.updBond b (fun x =>
      { x with
        holder := if takesUpper then 2#2 else 1#2, grantAt := s.cycle.toNat, lastUpper := takesUpper, yieldAt := none }))
  else idle s

/-- The refill of every bucket (08 R163). -/
def State.refill (s : State) : State :=
  let fill (v : BitVec 16) : BitVec 16 := BitVec.ofNat 16 (Min.min s.ceil.toNat (v.toNat + s.rate.toNat))
  { s with bonds := s.bonds.map (fun (e : Nat × Bond) => (e.1, { e.2 with tokens := fill e.2.tokens, dry := false }))
           level := fill s.level
           refillAt := some s.cycle.toNat }

/-- The refill of this cycle has not been made. -/
def State.refillDue (s : State) : Bool :=
  s.started && decide (s.cycle.toNat % 4096 = 0) && decide (s.refillAt ≠ some s.cycle.toNat)

/-- A commanded power state takes effect in this cycle: the first multiple of 65,536 after its acceptance (18 R356). -/
def State.powerDue (s : State) : Bool :=
  decide (s.cycle.toNat % 65536 = 0) && s.powerReq.any (fun q => decide (q.2 < s.cycle.toNat))

/-- HEAT_REFILL (08 R163): at each cycle that is a multiple of 4,096, once, after a start; a power state that takes effect
at that cycle comes first (18 R356). -/
def execHeatRefill (s : State) : Out := if s.refillDue && !s.powerDue then .next s.refill else idle s

/-- CAP_HOT (12 R234): the stop is reported to the physical function (18 R357, log 41). -/
def execCapHot (b : Nat) (s : State) : Out :=
  if (s.bond b).caphot then idle s
  else .next ((s.updBond b (fun x => { x with caphot := true, hotAt := s.cycle.toNat })).report 0 (.heat b true))

/-- CAPHOT_CLEAR (18 R357): the cap has been 10 °C below its critical temperature for 65,536 cycles. The model has no
temperature: the clearing comes at a free time from 65,536 cycles after the stop on, as cooling does (log 1). It is reported too. -/
def execCaphotClear (b : Nat) (s : State) : Out :=
  let x := s.bond b
  if x.caphot && decide (x.hotAt + 65536 ≤ s.cycle.toNat) then .next ((s.updBond b (fun x => { x with caphot := false })).report 0 (.heat b false)) else idle s

/-! ### Issue (08 R146-R150, 12 R217, R221) -/

/-- Entries of the hub's queue held by masters of a cell. -/
def Hub.heldBy (h : Hub) (c : Nat) : Nat := (h.hires.filter (fun r => r.cell == c)).length
/-- The cell holds a strand (08 R146). -/
def State.occupied (s : State) (c : Nat) : Bool :=
  (List.finRange 5).any (fun k => decide (k.val < 4) && decide (((s.cell c).strands[k] : Strand).status ≠ .free))

/-- R146: every other occupied cell of the tile keeps its two entries, and no higher cell has been admitted in this cycle. -/
def State.admits (s : State) (c : Nat) : Bool :=
  let h := s.hub (tileOf c)
  let free := 32 - h.hires.length
  let owed := ((List.range 16).map (fun k =>
    let x := 16 * tileOf c + k
    if x ≠ c ∧ s.occupied x then 2 - h.heldBy x else 0)).sum
  decide (0 < free) && (decide (h.heldBy c < 2) || decide (owed < free))
    && !h.admitted.any (fun a => decide (a.1 = s.cycle.toNat) && decide (c < a.2))

/-- The next sequence number (08 R148). -/
def nextSeq (n : BitVec 16) : BitVec 16 := if n + 1#16 = 0#16 then 1#16 else n + 1#16

/-- The ring entry of a new hire (08 R149). -/
def Cell.ringPush (x : Cell) (e : RingEntry) : Cell := { x with ring := (e :: x.ring).take 16 }

/-- Completion or cancellation of a hire in the ring. -/
def Cell.ringEnd (x : Cell) (seq : BitVec 16) (slot : Fin 5) (status : BitVec 2) (cause : BitVec 8) : Cell :=
  match listFind (fun (e : RingEntry) => e.seq == seq && e.slot == slot && e.status == 1#2) x.ring with
  | none => x
  | some k =>
    match listGet x.ring k with
    | none => x
    | some e => { x with ring := listSet x.ring k { e with status := status, cause := cause } }

/-- Takes the entry: the sequence number, the record at the queue's tail, the covered slots Busy, the ring entry. -/
def State.enqueue (s : State) (r : Hire) (blk : Word) : State :=
  let t := tileOf r.cell
  let s := s.upd r.master (fun x => { x with seqCtr := r.seq })
  let s := s.updHub t (fun h =>
    { h with
      hires := h.hires ++ [r]
      admitted := some (s.cycle.toNat, r.cell)
      owners := r.slots.foldl (fun (o : Table AccOwner) k =>
        let w := o.get AccOwner.zero k
        o.set k { w with state := 2#2, busy := w.busy + 1 }) h.owners })
  s.updCell r.cell (·.ringPush ⟨r.seq, r.slot, r.batch, 1#2, 0#8, blk⟩)

/-- A record of the issuing strand, before its block is known to be legal. A lockstep pair holds it (02 R47). -/
def State.newHire (s : State) (block : List Byte) (masks : BitVec 48) (batch : Fin 4) (z l o rk mma : Bool) : Hire :=
  let t := s.me
  let r : Hire := {
    block := block, masks := masks, seq := nextSeq t.seqCtr, batch := batch, z := z, l := l, o := o, rk := rk, mma := mma,
    cell := s.cur.cell, slot := s.cur.slot, uid := t.uid, prio := ((s.recOf s.cur.cell).map (·.prio)).getD false,
    state := .queued, done := 0, total := 0, fmode := t.fmode, rmode := t.rmode, sup := t.sup, fetched := [],
    writes := [], fault := none, poison := [], held := t.lock }
  { r with total := r.ti * r.tj * r.kb }

/-- The format pairs of R217 check 3. -/
def legalPair (a b : Nat) : Bool :=
  (a == b && (a == 1 || a == 2))
    || ((a == 3 || a == 4) && (b == 3 || b == 4))
    || (a == 7 && (b == 3 || b == 4 || b == 7)) || (b == 7 && (a == 3 || a == 4))
    || ((a == 5 || a == 6) && (b == 5 || b == 6))

/-- Check 4: FMTD of a pair. -/
def legalD (a d : Nat) : Bool := if a = 5 ∨ a = 6 then d == 8 else decide (d < 3)

/-- Check 7: class 3, and q4 outside class 2. -/
def operandClass (ea : Word) (fmt : Nat) : Bool := addrClass ea == 3 || (fmt == 7 && addrClass ea != 2)

/-- The first covered slot that the strand does not own (check 8). -/
def State.notOwned (s : State) (i : SlotId) (slots : List Nat) : Option Nat :=
  let h := s.hub (tileOf i.cell)
  slots.find? (fun k => decide (127 < k) || !(h.owner k).isOf i)

/-- Checks 2 to 6 of R217 (13 R248 with `.rk`): what raises ILL. The 64 bytes are those read. -/
def blockIllegal (b : List Byte) (r : Hire) : Bool :=
  let mbz := decide (leNat ((b.drop 0x38).take 8) ≠ 0) || decide (leNat ((b.drop 0x33).take 1) ≠ 0)
    || decide (7 < r.flags)
  let range := decide (r.rows = 0 ∨ 64 < r.rows) || decide (r.cols = 0 ∨ 128 < r.cols)
    || decide (r.depth = 0 ∨ 2 ^ 24 < r.depth)
  let codes := decide (8 < r.fmtA) || decide (8 < r.fmtB) || decide (8 < r.fmtD)
  let rank := if r.rk then
      decide (3 < r.rtab) || decide (r.rcount = 0 ∨ 256 < r.rcount) || decide (¬ (r.fmtA = 1 ∧ r.fmtB = 1)) || r.ta
        || decide (256 < r.depth)
    else decide (r.rtab ≠ 0 ∨ r.rcount ≠ 0)
  mbz || range || codes || !legalPair r.fmtA r.fmtB || !legalD r.fmtA r.fmtD || rank
    || decide (32 < r.slotCount) || decide (128 < r.slotBase + r.slotCount)

/-- Check 7 for a block: the address that raises ADDR. A rank stream lies in the master's own cell. -/
def State.blockAddr (s : State) (r : Hire) : Option Word :=
  if operandClass r.aaddr r.fmtA || (r.rk && (s.ownOffset r.cell r.aaddr).isNone) then some r.aaddr
  else if operandClass r.baddr r.fmtB then some r.baddr
  else if (r.l || r.o) && addrClass r.daddr == 3 then some r.daddr
  else none

/-- HIRE (12 R217): the block is read and checked, then an entry is taken. ILL in a handler (02 R45) and in minimal mode
(18 R354). -/
def execHire (batch : Fin 4) (z l o rk : Bool) (d a : SReg) (sw : Bool) (s : State) : Out :=
  let i : Instr := .hire batch z l o rk d a sw
  let ea := s.reg a
  if s.inHandler || s.minimal then s.ill i
  else if s.me.anyPending [d, a] then .next s
  else if s.engineWaits s.cur then .next (s.sendWrites s.cur)
  else if addrClass ea = 3 then s.trap .addr ea
  else
    withAccess s ea 64 64 .read noPromote (fun loc s =>
      match s.access s.cur loc 64 ea with
      | none => .next (s.sendHeld s.cur 64 [(loc, ea)])
      | some t =>
        let (data, bad, s') := t.readRaw loc 64
        match bad with
        | b :: _ =>
          ((s'.writeReg s'.cur d 0#64).late s'.cur s'.me.uid
            (poisonTrap s'.cur.cell loc (ea + BitVec.ofNat 64 (b.addr - loc.addr)))).finish 1 sw
        | [] =>
          let r := s'.newHire (data.take 56) 0#48 batch z l o rk false
          if blockIllegal data r then s'.ill i
          else match s'.blockAddr r with
          | some x => s'.trap .addr x
          | none =>
            match s'.notOwned s'.cur r.slots with
            | some k => s'.trap .prot (BitVec.ofNat 64 k)
            | none =>
              if !s'.admits s'.cur.cell then .next s
              else ((s'.enqueue r ea).writeReg s'.cur d (r.seq.setWidth 64)).finish 1 sw)

/-- The format codes of MMA's pairs (04 R77). -/
def MmaPair.codes : MmaPair → Nat × Nat
  | .f16 => (1, 1)
  | .bf16 => (2, 2)
  | .e4m3 => (3, 3)
  | .e5m2 => (4, 4)
  | .e4m3e5m2 => (3, 4)
  | .e5m2e4m3 => (4, 3)
  | .i8 => (5, 5)
  | .q4 => (7, 7)

/-- The record bytes of an MMA (08 R147). -/
def mmaBlock (pair : MmaPair) (a b : Word) (mstra mstrb : BitVec 32) (slot : Nat) : List Byte :=
  let p := MmaPair.codes pair
  leBytes 8 a.toNat ++ leBytes 8 b.toNat ++ leBytes 8 0 ++ leBytes 4 mstra.toNat ++ leBytes 4 mstrb.toNat ++ leBytes 4 0
    ++ leBytes 2 16 ++ leBytes 2 16 ++ leBytes 4 16 ++ leBytes 1 p.1 ++ leBytes 1 p.2
    ++ leBytes 1 (if p.1 = 5 then 8 else 0) ++ leBytes 1 0 ++ leBytes 2 slot ++ leBytes 1 0 ++ leBytes 1 0 ++ leBytes 4 0

/-- MMA (12 R221): one step on the slot in D. ILL in a handler and in minimal mode (18 R354). -/
def execMma (pair : MmaPair) (z : Bool) (batch : Fin 4) (d a : SReg) (b : Src) (rows cols depth : BitVec 16) (sw : Bool)
    (s : State) : Out :=
  let t := s.me
  let ea := s.reg a
  let eb := s.src b
  let slot := s.reg d
  let p := MmaPair.codes pair
  if s.inHandler || s.minimal then s.ill (.mma pair z batch d a b rows cols depth sw)
  else if t.anyPending (d :: a :: b.regs) then .next s
  else if s.engineWaits s.cur then .next (s.sendWrites s.cur)
  else if operandClass ea p.1 then s.trap .addr ea
  else if operandClass eb p.2 then s.trap .addr eb
  else if (s.notOwned s.cur [slot.toNat]).isSome then s.trap .prot slot
  else if !s.admits s.cur.cell then .next s
  else
    let r := s.newHire (mmaBlock pair ea eb t.mstra t.mstrb slot.toNat) (depth ++ cols ++ rows) batch z false false false
      true
    (s.enqueue r 0#64).finish (b.words + 2) sw

/-! ### Operands (12 R218, R219) -/

/-- An element that a load pipe fetches: its byte address, the code within the byte, its format, and the address of its
scale byte. Format 9 stands for a byte of a rank stream or a scale plane. -/
structure Operand where
  ea : Word
  nib : Nat
  fmt : Nat
  scale : Option Word
  deriving DecidableEq, Repr

def Operand.size (o : Operand) : Nat := if o.fmt = 9 then 1 else (elemBits o.fmt + 7) / 8

/-- The live rows, columns and depths of the tile of a step, as offsets within it (12 R218, R221). -/
def Hire.place (r : Hire) (step : Nat) : Nat × Nat × Nat :=
  let n := r.ti * r.tj
  (step / n, step % n / r.tj, step % r.tj)
def Hire.mask (r : Hire) (lo i : Nat) : Bool := !r.mma || r.masks.getLsbD (lo + i)
def Hire.liveRows (r : Hire) (step : Nat) : List Nat :=
  (List.range 16).filter (fun i => decide (16 * (r.place step).2.1 + i < r.rows) && r.mask 0 i)
def Hire.liveCols (r : Hire) (step : Nat) : List Nat :=
  (List.range 16).filter (fun j => decide (16 * (r.place step).2.2 + j < r.cols) && r.mask 16 j)
def Hire.liveDepths (r : Hire) (step : Nat) : List Nat :=
  (List.range 16).filter (fun k => decide (16 * (r.place step).1 + k < r.depth) && r.mask 32 k)

/-- An element at a place of a matrix: row x, column y as stored, rows ld bytes apart. -/
def State.operandAt (s : State) (base : Word) (ld fmt x y : Nat) : Operand :=
  let (ea, nib) := elemPlace fmt (base + BitVec.ofNat 64 (x * ld)) y
  let scale := match s.scaledHandle ea with
    | some h => if h.fmt.toNat = fmt then some (scaleAddr h (elemIndex fmt ea + nib)) else none
    | none => none
  ⟨ea, nib, fmt, scale⟩

def State.opA (s : State) (r : Hire) (i k : Nat) : Operand :=
  if r.ta then s.operandAt r.aaddr r.lda r.fmtA k i else s.operandAt r.aaddr r.lda r.fmtA i k
def State.opB (s : State) (r : Hire) (k j : Nat) : Operand :=
  if r.tb then s.operandAt r.baddr r.ldb r.fmtB j k else s.operandAt r.baddr r.ldb r.fmtB k j
def State.opD (s : State) (r : Hire) (i j : Nat) : Operand := s.operandAt r.daddr r.ldd r.fmtD i j
/-- Entry q of the rank stream of row i (13 R248). -/
def Hire.opStream (r : Hire) (i q : Nat) : Operand := ⟨r.aaddr + BitVec.ofNat 64 (i * r.lda + q), 0, 9, none⟩

/-- Every element of D, for `.l` before the first step. -/
def Hire.places (r : Hire) : List (Nat × Nat) :=
  (List.range r.rows).flatMap (fun i => (List.range r.cols).map (fun j => (i, j)))

/-- Elements with the scale bytes that they have. -/
def withScales (os : List Operand) : List Operand := os ++ os.filterMap (fun o => o.scale.map (fun e => ⟨e, 0, 9, none⟩))

/-- The elements that a load pipe fetches for a step, of A or of B; elements outside the result, the depth and the masks are
never fetched. The elements of D come by the pipe of A (DESIGN CHOICE, log 10). -/
def State.pipeOperands (s : State) (r : Hire) (step : Nat) (ofB : Bool) : List Operand :=
  let (kb, ti, tj) := r.place step
  let rows := (r.liveRows step).map (16 * ti + ·)
  let cols := (r.liveCols step).map (16 * tj + ·)
  let deps := (r.liveDepths step).map (16 * kb + ·)
  let a := if r.rk then rows.flatMap (fun i => (List.range r.rcount).map (r.opStream i))
    else rows.flatMap (fun i => deps.map (s.opA r i))
  let b := deps.flatMap (fun k => cols.map (s.opB r k))
  let d := if r.l ∧ step = 0 then r.places.map (fun p => s.opD r p.1 p.2) else []
  withScales (if ofB then b else a ++ d)

/-- The elements that a step fetches. -/
def State.operands (s : State) (r : Hire) (step : Nat) : List Operand :=
  s.pipeOperands r step false ++ s.pipeOperands r step true

def Operand.col (o : Operand) : Nat := o.ea.toNat / 32

/-- The columns of a list of elements, each once, in the order of first use. -/
def columnsUsed : List Operand → List Nat → List Nat
  | [], seen => seen.reverse
  | o :: os, seen => if seen.contains o.col then columnsUsed os seen else columnsUsed os (o.col :: seen)

/-- For whom a hire reads and writes. A lockstep pair's last checkpoint found every hire that runs issued, so no rollback makes its
writes again (02 R47, R49). -/
def Hire.who (r : Hire) (s : State) : Who :=
  let t := s.strand r.master
  ⟨.hire (tileOf r.cell) r.seq r.uid, r.master, r.uid, if t.lock then outside else r.cell, s.partAt r.cell, r.sup, t.splh, t.lock⟩
/-- For whom it writes D: a page that a write waits for parks no step (12 R224). -/
def Hire.whoWrites (r : Hire) (s : State) : Who := { r.who s with agent := .hireWrite (tileOf r.cell) r.seq r.uid }

/-- A format mismatch of a class 2 element (12 R219): the handle's format is neither the block's nor raw bytes, or a q4
operand is not in a q4 handle. -/
def State.formatClash (s : State) (o : Operand) : Bool :=
  if addrClass o.ea = 2 ∧ o.fmt ≠ 9 then
    let f := (s.handle (o.ea.extractLsb' 36 24).toNat).fmt.toNat
    f != o.fmt && (f != 15 || o.fmt == 7)
  else false

/-- The check of one element: its place, a wait or a fault. -/
def State.operandLoc (s : State) (w : Who) (o : Operand) : Eng Loc :=
  let n := o.size
  let early := (parseAddr w.slot.cell o.ea).isSome && isAligned o.ea n
    && (s.checkHandle w (o.ea.extractLsb' 36 24).toNat (o.ea.extractLsb' 0 36).toNat n .read).isNone
  if early && s.formatClash o then .fault .prot o.ea s else s.engineLoc w o.ea n n .read

/-- The elements of one column, checked in turn; the place of the last. -/
def State.operandLocs (s : State) (w : Who) : List Operand → Eng Loc
  | [] => .wait false id
  | [o] => s.operandLoc w o
  | o :: os => (s.operandLoc w o).bind (fun _ s => s.operandLocs w os)

/-- A hire of the hub is the oldest of its master: only it is fetched for and run (12 R222). -/
def Hub.oldest (h : Hub) (k : Nat) (r : Hire) : Bool := !(h.hires.take k).any (fun q => q.sameMaster r)

def State.putHire (s : State) (t k : Nat) (r : Hire) : State :=
  s.updHub t (fun h => { h with hires := listSet h.hires k r })

/-- Some element waits for the pager. -/
def State.waitsForPage (s : State) (a : Agent) : Bool := s.pageWaits.any (fun w => !w.failed && w.who == a)

/-! ### The order of steps (12 R223) -/

/-- The hires that the array may come to: the oldest of each master, not parked, held or faulted. A stop for tokens or licence
ends at the boundary that looks again, and a park that a save has ended asks the pager again. -/
def State.masters (s : State) (t : Nat) : List (Nat × Hire) :=
  let h := s.hub t
  (h.hires.zipIdx.map (fun (e : Hire × Nat) => (e.2, e.1))).filter (fun e =>
    h.oldest e.1 e.2 && !e.2.held && e.2.fault.isNone && !s.saving e.2.cell 2
      && (e.2.state == .queued || e.2.state == .running || e.2.state == .stopped
        || (e.2.state == .onPage && !s.waitsForPage (e.2.who s).agent)))

/-- The order of masters (cell, slot), counted from the pointer. -/
def Hire.turnFrom (r : Hire) (rr : Nat) : Nat := (4 * (r.cell % 16) + r.slot.val + 64 - rr % 64) % 64
def Hire.turnAfter (r : Hire) : Nat := (4 * (r.cell % 16) + r.slot.val + 1) % 64

def soonest (rr : Nat) : List (Nat × Hire) → Option (Nat × Hire)
  | [] => none
  | x :: xs =>
    match soonest rr xs with
    | none => some x
    | some y => if y.2.turnFrom rr < x.2.turnFrom rr then some y else some x

/-- The turn of a hub's array: the pointers of the classes, and the run of class 1. -/
structure ArrayTurn where
  rr0 : Nat
  rr1 : Nat
  run1 : Nat

def Hub.arrayTurn (h : Hub) : ArrayTurn := ⟨h.rr0, h.rr1, h.run1⟩

/-- The hire chosen: class 1 first, but class 0 after 16 steps of class 1 in a row while it was runnable. -/
def ArrayTurn.choose (a : ArrayTurn) (hs : List (Nat × Hire)) : Option (Nat × Hire) :=
  match soonest a.rr1 (hs.filter (·.2.prio)), soonest a.rr0 (hs.filter (!·.2.prio)) with
  | some x, some y => if 16 ≤ a.run1 then some y else some x
  | some x, none => some x
  | none, y => y

/-- The turn after a step of a hire, chosen among hires. -/
def ArrayTurn.after (a : ArrayTurn) (hs : List (Nat × Hire)) (r : Hire) : ArrayTurn :=
  if r.prio then { a with rr1 := r.turnAfter, run1 := if hs.any (!·.2.prio) then a.run1 + 1 else 0 }
  else { a with rr0 := r.turnAfter, run1 := 0 }

/-- The next n steps of hires in the order of the turns: the number of the hire and the step. -/
def ArrayTurn.plan (a : ArrayTurn) (hs : List (Nat × Hire)) : Nat → List (Nat × Nat)
  | 0 => []
  | n + 1 =>
    let open_ := hs.filter (fun e => decide (e.2.done < e.2.total))
    match a.choose open_ with
    | none => []
    | some (k, r) =>
      (k, r.done) :: (a.after open_ r).plan
        (hs.map (fun (e : Nat × Hire) => if e.1 = k then (k, { e.2 with done := e.2.done + 1 }) else e)) n

/-- The columns of a list of elements that a hire has not read for a step. -/
def Hire.unread (r : Hire) (step : Nat) (os : List Operand) : List Nat :=
  (columnsUsed os []).filter (fun c => !r.fetched.any (fun f => f.step == step && f.col == c))

/-- Every column of a step has been read. -/
def State.stepReady (s : State) (r : Hire) (step : Nat) : Bool := (r.unread step (s.operands r step)).isEmpty

/-- The steps of a hire that stand ready and unused. -/
def State.readySteps (s : State) (r : Hire) : Nat :=
  (((r.fetched.map (·.step)).eraseDups).filter (fun n => s.stepReady r n)).length

/-- The steps that the load pipes read for: the next in order, while fewer than four stand ready. A pipe reads ahead by four steps
(DESIGN CHOICE, log 10). -/
def State.stepsAhead (s : State) (t : Nat) : List (Nat × Nat) :=
  let h := s.hub t
  let hs := s.masters t
  if 4 ≤ (hs.map (fun e => s.readySteps e.2)).sum then [] else h.arrayTurn.plan hs 4

/-- The columns that a pipe reads next, in step order: those unread of its first step that has any, with the hire's number and
the step. -/
def State.pipeColumns (s : State) (t : Nat) (ofB : Bool) : List (Nat × Nat × Nat) :=
  ((s.stepsAhead t).findSome? (fun (e : Nat × Nat) =>
    match listGet (s.hub t).hires e.1 with
    | none => none
    | some r =>
      match r.unread e.2 (s.pipeOperands r e.2 ofB) with
      | [] => none
      | cs => some (cs.map (fun c => (e.1, e.2, c))))).getD []

/-- OPERAND_READ_RETURN (12 R218): a pipe reads the col-th of its next columns that is for hire k, its elements checked first. An
absent page parks the hire (R224); a fault is taken at the next boundary. -/
def execOperandReadReturn (t k col : Nat) (s : State) : Out :=
  match listGet (s.hub t).hires k, listGet ((s.pipeColumns t false ++ s.pipeColumns t true).filter (fun e => e.1 == k)) col with
  | some r, some (_, n, c) =>
    let ops := (s.operands r n).filter (fun o => o.col == c)
    let w := r.who s
    let first := BitVec.ofNat 64 (32 * c)
    let read := (s.operandLocs w ops).bind (fun l s =>
      let l : Loc := { l with addr := l.addr / 32 * 32 }
      if s.behind w.uid l first 32 then .wait false id else Eng.atBank s w l (fun s => .ok l (s.sees w.uid l first 32)))
    match read with
    | .wait page ask => .next (if page then (ask s).putHire t k { r with state := .onPage } else ask s)
    | .fault e ev s => .next (s.putHire t k { r with fault := some (e, ev) })
    | .ok l s =>
      let (bad, s) := s.checkColumn l
      let ev := ((ops.head?).map (·.ea)).getD 0#64
      let trap : LateTrap := ⟨.poison, ev, 1#2 ++ r.seq⟩
      .next (s.putHire t k { r with
        fetched := r.fetched ++ [⟨n, c, s.peek l 32, bad⟩]
        poison := if bad ∧ !r.poison.contains trap then r.poison ++ [trap] else r.poison })
  | _, _ => idle s

/-! ### The arithmetic of a step (05 R102-R104) -/

/-- The column of an element among those fetched for a step. -/
def Hire.column (r : Hire) (step : Nat) (o : Operand) : Option OperandCol :=
  r.fetched.find? (fun f => f.step == step && f.col == o.col)

/-- The bits of an element, none when its column was poisoned. -/
def Hire.bits (r : Hire) (step : Nat) (o : Operand) : Option Nat :=
  match r.column step o with
  | none => none
  | some f =>
    if f.bad then none
    else some (elemAt (if o.fmt = 9 then 6 else o.fmt) (f.bytes.drop (o.ea.toNat % 32)) o.nib)

/-- The value of an operand element: decoded, block-scaled and input-flushed (12 R219, 07 R130). -/
def Hire.value (r : Hire) (step : Nat) (o : Operand) : FVal :=
  match r.bits step o with
  | none => if o.fmt = 5 ∨ o.fmt = 6 ∨ o.fmt = 8 then .zero false else .nan (decide (o.fmt ≤ 2))
  | some v =>
    match o.scale with
    | none => decodeElem r.fmode o.fmt none v
    | some e =>
      match r.bits step ⟨e, 0, 9, none⟩ with
      | none => .nan false
      | some b => decodeElem r.fmode o.fmt (some b) v

/-- The largest rank at which a row's stream carries index k (13 R248). A poisoned byte reads as R130 gives it. -/
def Hire.rankOf (r : Hire) (step i k : Nat) : Option Nat :=
  ((List.range r.rcount).filter (fun q =>
    let o := r.opStream i q
    ((r.bits step o).getD (poisonBytes o.ea.toNat).toNat) == k)).getLast?

/-- A(i, k); none for a dead element. A rank table element of a poisoned column is poison. -/
def State.aValue (s : State) (bad : List Nat) (r : Hire) (step i k : Nat) : Option FVal :=
  if r.rk then
    (r.rankOf step i k).map (fun q => fmtF16.rd r.fmode ((s.cell r.cell).rankValue bad r.rtab q).toNat)
  else some (r.value step (s.opA r i k))

/-- The rank table columns that a step's elements come from, checked as the array consumes them (08 R152): the poisoned ones,
with a late trap for each (log 17). -/
def State.checkStepRanks (s : State) (r : Hire) (step : Nat) (rows deps : List Nat) : List Nat × List LateTrap × State :=
  if !r.rk then ([], [], s)
  else
    let used := rows.flatMap (fun i => deps.filterMap (fun k => (r.rankOf step i k).map (rankColumn r.rtab)))
    let (bad, s) := s.checkRankColumns r.cell used.dedup
    (bad, bad.map (fun col => ⟨.poison, Config.rankEval r.cell col, 1#2 ++ r.seq⟩), s)

def Hire.chunk (r : Hire) : Nat :=
  if r.rk ∨ r.fmtA = 1 ∨ r.fmtA = 2 then 1 else if r.fmtA = 7 ∨ r.fmtB = 7 then 4 else 2
def Hire.isInt (r : Hire) : Bool := r.fmtA == 5 || r.fmtA == 6

def FVal.toInt : FVal → Int
  | .fin neg m _ _ => if neg then -(m : Int) else m
  | _ => 0

/-- The exact sum of a chunk's products: +0 and each product in turn. -/
def chunkSum (ps : List FVal) : FVal := ps.foldl (FVal.add false) (.zero false)

/-- One element through a depth block: its products by depth, in chunks of c, each with one rounding. -/
def accumulate (int : Bool) (fm : BitVec 8) (c chunks : Nat) (ps : List (Nat × FVal)) (acc : BitVec 32) : BitVec 32 :=
  if int then acc + BitVec.ofInt 32 ((ps.map (fun p => p.2.toInt)).sum)
  else
    (List.range chunks).foldl (fun (acc : BitVec 32) q =>
      let chunk := (ps.filter (fun p => p.1 / c == q)).map Prod.snd
      f32Rne fm (FVal.add false (fmtF32.decode false acc.toNat) (chunkSum chunk))) acc

/-- A chunk of a depth block lies within the hire's depth: chunks beyond K do not exist. -/
def Hire.blockDepth (r : Hire) (step : Nat) : Nat := Min.min 16 (r.depth - 16 * (r.place step).1)

/-- The units of the slots that `.z` or `.l` writes: those written whole take fresh check bits, and those written in part are
read with their check first (07 R131). -/
def State.rewriteUnits (s : State) (t : Nat) (r : Hire) : List LateTrap × State :=
  (r.slots.zipIdx.flatMap (fun (e : Nat × Nat) => (List.range 32).map (fun u => (e.1, e.2, u)))).foldl
    (fun (p : List LateTrap × State) (x : Nat × Nat × Nat) =>
      let (slot, n, u) := x
      let i := 16 * (n / r.tj) + u / 2
      let cols := ((List.range 8).map (fun j => 16 * (n % r.tj) + 8 * (u % 2) + j)).filter (fun j =>
        decide (j < r.cols) && r.mask 16 j)
      if r.rows ≤ i ∨ !r.mask 0 i ∨ cols.isEmpty then p
      else if cols.length = 8 then
        (p.1, p.2.updHub t (fun h => { h with accBad := freshUnit h.accBad (32 * slot + u) }))
      else
        let (l, s) := p.2.checkUnit t slot u
        (p.1 ++ l.toList, s)) ([], s)

/-- The hire is the last that has written some slots (07 R131). -/
def State.wroteSlots (s : State) (t : Nat) (r : Hire) (slots : List Nat) : State :=
  slots.foldl (fun (s : State) k => s.updOwner t k (fun o => { o with lastSeq := r.seq })) s

/-- `.z` and `.l` before the first step (12 R220, R221): every slot of the hire is written. -/
def State.prepare (s : State) (t : Nat) (r : Hire) : List LateTrap × State :=
  if r.done ≠ 0 || !(r.z || r.l) then ([], s)
  else
    let (lates, s) := s.rewriteUnits t r
    let s := if r.places.any (fun p => r.mask 0 p.1 && r.mask 16 p.2) then s.wroteSlots t r r.slots else s
    (lates, r.places.foldl (fun (s : State) p =>
      let (i, j) := p
      let slot := r.slotBase + i / 16 * r.tj + j / 16
      if !(r.mask 0 i && r.mask 16 j) then s
      else if r.z then s.setAcc t slot (i % 16) (j % 16) 0#32
      else if r.l then
        let v := match r.bits 0 (s.opD r i j) with
          | none => if r.fmtD = 8 then 0 else 0x7FE00000
          | some b =>
            if r.fmtD = 1 then fmtF32.encode 0 false false 0 (fmtF16.decode false b)
            else if r.fmtD = 2 then fmtF32.encode 0 false false 0 (fmtBf16.decode false b)
            else b
        s.setAcc t slot (i % 16) (j % 16) (BitVec.ofNat 32 v)
      else s) s)

/-- An accumulator element as `.o` and ACCSTM convert it (12 R220): mode 5 acts as RNE. -/
def accConvert (fmt : Nat) (mode : Nat) (fm : BitVec 8) (sat : Bool) (v : BitVec 32) : Nat :=
  let m := if mode = 5 then 0 else mode
  if fmt = 1 then fmtF16.encode m (outFlush fm fmtF16) sat 0 (fmtF32.decode false v.toNat)
  else if fmt = 2 then fmtBf16.encode m (outFlush fm fmtBf16) sat 0 (fmtF32.decode false v.toNat)
  else v.toNat

/-- The aligned units of at most 32 bytes that bytes at an address fall into. -/
def spansOf (ea : Word) (data : List Byte) : List DWrite :=
  (List.range (unitCount ea.toNat data.length)).map (fun u =>
    let (off, n) := unitSpan ea.toNat data.length u
    ⟨ea + BitVec.ofNat 64 off, (data.drop off).take n⟩)

/-- The D writes of the tile of a step (12 R220). -/
def State.tileWrites (s : State) (t : Nat) (r : Hire) (step : Nat) : List DWrite :=
  let (_, ti, tj) := r.place step
  let slot := r.slotBase + ti * r.tj + tj
  let z := elemBits r.fmtD / 8
  (r.liveRows step).flatMap (fun i =>
    let data := (r.liveCols step).flatMap (fun j =>
      leBytes z (accConvert r.fmtD r.rmode.toNat r.fmode r.sat (s.accElem t slot i j)))
    spansOf (r.daddr + BitVec.ofNat 64 ((16 * ti + i) * r.ldd + 16 * tj * z)) data)

/-- Runs step DONE of a hire: the first step's `.z` or `.l`, the tile's elements, the D writes of a finished tile. -/
def State.runStep (s : State) (t k : Nat) (r : Hire) : State :=
  let step := r.done
  let (kb, ti, tj) := r.place step
  let slot := r.slotBase + ti * r.tj + tj
  let (lateZ, s) := s.prepare t r
  let rows := r.liveRows step
  let cols := r.liveCols step
  let deps := r.liveDepths step
  let (late, s) := s.checkUnits t slot (unitsHit rows cols)
  let (badRanks, lateR, s) := s.checkStepRanks r step (rows.map (16 * ti + ·)) (deps.map (16 * kb + ·))
  let as : List (List (Nat × FVal)) := rows.map (fun i =>
    deps.filterMap (fun k => (s.aValue badRanks r step (16 * ti + i) (16 * kb + k)).map (fun v => (k, v))))
  let bs : List (List (Nat × FVal)) := cols.map (fun j =>
    deps.map (fun k => (k, r.value step (s.opB r (16 * kb + k) (16 * tj + j)))))
  let c := r.chunk
  let chunks := (r.blockDepth step + c - 1) / c
  let s := (rows.zip as).foldl (fun (s : State) x =>
    (cols.zip bs).foldl (fun (s : State) y =>
      let ps := x.2.filterMap (fun p => (y.2.find? (fun q => q.1 == p.1)).map (fun q => (p.1, p.2.mul q.2)))
      s.setAcc t slot x.1 y.1 (accumulate r.isInt r.fmode c chunks ps (s.accElem t slot x.1 y.1))) s) s
  let writes := if r.o ∧ kb + 1 = r.kb then s.tileWrites t r step else []
  let s := if rows.isEmpty || cols.isEmpty then s else s.wroteSlots t r [slot]
  let done := step + 1
  let s := s.putHire t k { r with
    done := done
    state := if done = r.total then .writing else .running
    fetched := r.fetched.filter (fun f => f.step != step)
    writes := r.writes ++ writes
    poison := r.poison ++ lateZ ++ late ++ lateR }
  s.updHub t (fun h => { h with steps := h.steps + 1#64 })

/-- The tokens of a step (08 R163). -/
def Hire.cost (r : Hire) : Nat :=
  if r.rk ∨ r.fmtA = 7 ∨ r.fmtB = 7 then 4
  else if r.fmtA = 1 ∨ r.fmtA = 2 then 8
  else if r.isInt then 5
  else 6

/-! ### The step boundary (12 R223) -/

/-- The runnable masters' hires: those with every column of their next step fetched. -/
def State.runnable (s : State) (t : Nat) : List (Nat × Hire) :=
  (s.masters t).filter (fun e => decide (e.2.done < e.2.total) && s.stepReady e.2 e.2.done)

/-- Hires that could run enter STATE 3 when the array is stopped (08 R147). -/
def State.stopHires (s : State) (t : Nat) : State :=
  s.updHub t (fun h => { h with hires := h.hires.map (fun (r : Hire) =>
    if r.state = .queued ∨ r.state = .running then { r with state := .stopped } else r) })

/-- A cancelled hire makes no further D write and reads nothing more (12 R225). -/
def Hire.cancel (r : Hire) : Hire := { r with state := .cancelled, fetched := [], writes := [] }

/-- A fault is found, and its hire is not yet cancelled; one whose trap its slot cannot yet take stands in STATE 5 (17 R316). -/
def Hire.faulty (r : Hire) : Bool := r.fault.isSome && r.state != .cancelled && !(r.state == .writing && r.writes.isEmpty)

/-- STEP_BOUNDARY (12 R223): a fault cancels its hire; then the licence, heat and the cap are looked at, and one step
runs. A refill of the same cycle comes first (08 R163). -/
def execStepBoundary (t : Nat) (s : State) : Out :=
  if s.refillDue then idle s
  else match listFind (·.faulty) (s.hub t).hires with
  | some k =>
    match listGet (s.hub t).hires k with
    | some r => .next (s.putHire t k r.cancel)
    | none => idle s
  | none =>
    let s := s.licenceBoundary t
    let b := s.bondAt t
    if !s.holds t || b.dry || b.caphot then .next (s.stopHires t)
    else
      let hs := s.runnable t
      match (s.hub t).arrayTurn.choose hs with
      | none => .next s
      | some (k, r) =>
        let cost := r.cost
        if b.tokens.toNat < cost then
          .next ((s.updBond (bondOf t) (fun b => { b with dry := true })).stopHires t)
        else
          let a := (s.hub t).arrayTurn.after hs r
          let s := s.updBond (bondOf t) (fun b => { b with tokens := b.tokens - BitVec.ofNat 16 cost })
          let s := s.updPart (s.partAt r.cell) (fun p => { p with heatuse := p.heatuse + BitVec.ofNat 64 cost })
          let s := s.updHub t (fun h => { h with rr0 := a.rr0, rr1 := a.rr1, run1 := a.run1 })
          .next (s.runStep t k r)

/-- BANK_ACCESS of a D write (12 R220): unit n of hire k of a hub. A page that is absent is waited for; any other fault
cancels the hire. -/
def hireWriteAccess (t k n : Nat) (s : State) : Out :=
  match listGet (s.hub t).hires k with
  | none => idle s
  | some r =>
    match listGet r.writes n with
    | none => idle s
    | some u =>
      if r.fault.isSome || r.state == .cancelled then idle s
      else
        let w := r.whoWrites s
        let put := (s.engineLoc w u.ea u.data.length (Nat.max 1 (elemBits r.fmtD / 8)) .write).bind (fun l s =>
          s.putAt w r.uid u.ea l u.data)
        match put with
        | .wait _ ask => .next (ask s)
        | .fault e ev s => .next (s.putHire t k { r with fault := some (e, ev) })
        | .ok bad s =>
          let trap : LateTrap := ⟨.poison, u.ea, 1#2 ++ r.seq⟩
          .next (s.putHire t k { r with
            writes := listErase r.writes n, poison := if bad.isSome then r.poison ++ [trap] else r.poison })

/-! ### Completion (12 R220, R225, R228) -/

/-- The queue entry is freed and the covered slots have one hire fewer. -/
def State.freeHire (s : State) (t k : Nat) (r : Hire) : State :=
  let s := s.updHub t (fun h =>
    { h with
      hires := listErase h.hires k
      hireCount := h.hireCount + 1#64
      owners := r.slots.foldl (fun (o : Table AccOwner) j =>
        let w := o.get AccOwner.zero j
        o.set j { w with busy := w.busy - 1, state := if w.busy ≤ 1 then 1#2 else 2#2 }) h.owners })
  s.dropLicence t

/-- The failed mark of a batch after a cancellation: the first cancelled hire in issue order (12 R228). -/
def Mark.add (m : Mark) (cause : BitVec 8) (seq : BitVec 16) : Mark :=
  let first := !m.set || decide ((m.seq.toNat + 65535 - seq.toNat) % 65535 < 32768)
  { set := true
    cause := if first then cause else m.cause
    seq := if first then seq else m.seq
    nfail := if m.nfail = 255#8 then m.nfail else m.nfail + 1#8 }

/-- A late trap of a hire is raised when its slot holds none; a master parked in WAITB cannot take one before the hire is
over, so there it joins the queue (17 R316, log 17). -/
def State.hireCanTrap (s : State) (r : Hire) : Bool :=
  let t := s.strand r.master
  t.late.isEmpty || (match t.status with | .parked (.waitb _ _) => true | _ => false)

/-- The status word of WAITB (12 R228). -/
def Mark.status (m : Mark) : Word :=
  BitVec.ofNat 64 (m.cause.toNat + 2 ^ 16 * m.seq.toNat + 2 ^ 32 * m.nfail.toNat)

def Mark.zero : Mark := ⟨false, 0#8, 0#16, 0#8⟩

/-- A WAITB whose hires are over ends: D, the mark cleared, and in a lockstep pair a checkpoint. Hires that the pair still holds
go out at a checkpoint before the wait (log 9). -/
def State.tryWaitb (s : State) (i : SlotId) : State :=
  let t := s.strand i
  match t.status with
  | .parked (.waitb b d) =>
    let mine (r : Hire) : Bool := r.isOf i t.uid && r.batch == b
    if (s.hub (tileOf i.cell)).hires.any (fun r => mine r && r.held) then s.checkpoint i
    else if (s.hub (tileOf i.cell)).hires.any mine then s
    else if s.mismatched i then s.checkpoint i
    else
      let s := s.writeReg i d (t.marks[b]).status
      ((s.upd i (fun t => { t with marks := t.marks.set b Mark.zero })).complete i).checkpoint i
  | _ => s

/-- What the end of a hire does to its cell's ring (08 R149), in what a rollback restores too: the pair's last checkpoint found the
hire under way. -/
def State.endRing (s : State) (r : Hire) (status : BitVec 2) (cause : BitVec 8) : State :=
  let s := s.updCell r.cell (·.ringEnd r.seq r.slot status cause)
  if (s.strand r.master).lock then
    s.updPair (pairOf r.cell) (fun q => { q with
      savedRing := ({ s.cell r.cell with ring := q.savedRing }.ringEnd r.seq r.slot status cause).ring })
  else s

/-- The batch of a cancelled hire is marked failed (12 R225, R228), in what a rollback restores too. -/
def State.markBatch (s : State) (r : Hire) (cause : BitVec 8) : State :=
  let mark (x : Strand) : Strand := { x with marks := x.marks.set r.batch ((x.marks[r.batch]).add cause r.seq) }
  (s.upd r.master (fun x => if x.uid = r.uid then mark x else x)).updKept r.master r.uid mark

/-- HIRE_COMPLETION (12 R220, R225): poison traps first, then the ring, the batch's mark, the slots and the entry. A SLEEP of
the master ends (10 R199). -/
def execHireCompletion (t k : Nat) (s : State) : Out :=
  match listGet (s.hub t).hires k with
  | none => idle s
  | some r =>
    let i := r.master
    let finished := r.state == .cancelled || (r.state == .writing && r.writes.isEmpty)
    if !finished then idle s
    else match r.poison with
    | l :: ls => if s.hireCanTrap r then .next ((s.putHire t k { r with poison := ls }).lateFor i r.uid true l) else idle s
    | [] =>
      if r.state = .cancelled ∨ r.fault.isSome then
        let cause : BitVec 8 := match r.fault with
          | some (c, _) => BitVec.ofNat 8 c.code
          | none => 0x0C#8
        if r.fault.isSome && !s.hireCanTrap r then .next (s.putHire t k { r with state := .writing })
        else
          let s := ((s.freeHire t k r).endRing r 3#2 cause).markBatch r cause
          let s := match r.fault with
            | some (_, ev) => s.lateFor i r.uid true ⟨.hiref, ev, 1#2 ++ r.seq⟩
            | none => s
          .next (s.wakeSleep i)
      else .next (((s.freeHire t k r).endRing r 2#2 0#8).wakeSleep i)

/-- WAITB_RETURN (12 R228). -/
def execWaitbReturn (c : Nat) (k : Fin 5) (s : State) : Out := .next (s.tryWaitb ⟨c, k⟩)

/-! ### The ACC group (12 R227-R233) -/

/-- WAITB (12 R228): parks until every earlier hire of the batch is over. -/
def execWaitb (d : SReg) (n : Fin 4) (sw : Bool) (s : State) : Out :=
  if s.inHandler then s.ill (.waitb d n sw)
  else if s.me.anyPending [d] then .next s
  else
    .next ((s.upd s.cur (fun t => { t with status := .parked (.waitb n d), words := 1, marker := sw })).tryWaitb s.cur)

/-- The lowest base of n Free slots. -/
def Hub.freeRun (h : Hub) (n : Nat) : Option Nat :=
  (List.range (129 - n)).find? (fun b => (List.range n).all (fun j => (h.owner (b + j)).state == 0#2))

/-- ACCGET (12 R229): claims and zeroes. ILL in a handler. In a lockstep pair a checkpoint stands before and after it, as of the
other members that change slots, which no rollback restores (02 R49; DESIGN CHOICE, log 9). -/
def execAccget (d : SReg) (n : BitVec 5) (sw : Bool) (s : State) : Out :=
  let t := tileOf s.cur.cell
  let m := n.toNat + 1
  if s.inHandler then s.ill (.accget d n sw)
  else if s.me.anyPending [d] then .next s
  else checkpointed s true (fun s =>
    match (s.hub t).freeRun m with
    | none => scalarOp s [] d (BitVec.allOnes 64) 1 sw
    | some b =>
      let i := s.cur
      let s := (List.range m).foldl (fun (s : State) j =>
        (s.zeroSlot t (b + j)).updOwner t (b + j) (fun o => ⟨1#2, i.cell, i.slot, 0, o.lastSeq⟩)) s
      (s.writeReg i d (BitVec.ofNat 64 b)).finish 1 sw)

/-- Ownership, then Busy, of n slots from a base (12 R229); the base as a register value. -/
def State.accCheck (s : State) (base : Word) (n : Nat) : Option (Cause × Word) :=
  let h := s.hub (tileOf s.cur.cell)
  let slots := (List.range n).map (base.toNat + ·)
  match s.notOwned s.cur slots with
  | some k => some (.prot, BitVec.ofNat 64 k)
  | none => if slots.any (fun k => (h.owner k).state == 2#2) then some (.accbusy, base) else none

/-- ACCPUT (12 R229). -/
def execAccput (a : SReg) (n : BitVec 5) (sw : Bool) (s : State) : Out :=
  let t := tileOf s.cur.cell
  let m := n.toNat + 1
  if s.inHandler then s.ill (.accput a n sw)
  else if s.me.anyPending [a] then .next s
  else match s.accCheck (s.reg a) m with
  | some (c, ev) => s.trap c ev
  | none =>
    checkpointed s true (fun s => ((List.range m).foldl (fun (s : State) j =>
      s.updOwner t ((s.reg a).toNat + j) (fun o => { o with state := 0#2 })) s).finish 1 sw)

/-- ACCZ (12 R229). -/
def execAccz (a : SReg) (n : BitVec 5) (sw : Bool) (s : State) : Out :=
  let t := tileOf s.cur.cell
  let m := n.toNat + 1
  if s.inHandler then s.ill (.accz a n sw)
  else if s.me.anyPending [a] then .next s
  else match s.accCheck (s.reg a) m with
  | some (c, ev) => s.trap c ev
  | none =>
    checkpointed s true (fun s =>
      ((List.range m).foldl (fun (s : State) j => s.zeroSlot t ((s.reg a).toNat + j)) s).finish 1 sw)

/-- The places of a list of accesses (address, bytes), all of one alignment, checked in order; the first check that does
not pass ends the list. -/
def State.checkAll (s : State) (w : Who) (al : Nat) (p : Perm) : List (Word × Nat) → List Loc × Option Chk × State
  | [] => ([], none, s)
  | (ea, n) :: rest =>
    match s.check w ea n al p noPromote with
    | .ok l s =>
      let (ls, r, s) := s.checkAll w al p rest
      (l :: ls, r, s)
    | r => ([], some r, s)

/-- The 32 units of a 1 KiB image. -/
def imageUnits (ea : Word) : List (Word × Nat) := (List.range 32).map (fun u => (ea + BitVec.ofNat 64 (32 * u), 32))

/-- ACCLD (12 R230): the slot is written in one step of the model (log 10). -/
def execAccld (a : SReg) (b : Src) (sw : Bool) (s : State) : Out :=
  let t := tileOf s.cur.cell
  let slot := (s.reg a).toNat
  let ea := s.src b
  if s.inHandler then s.ill (.accld a b sw)
  else if s.me.anyPending (a :: b.regs) then .next s
  else match s.accCheck (s.reg a) 1 with
  | some (c, ev) => s.trap c ev
  | none =>
    if addrClass ea = 3 then s.trap .addr ea
    else match s.checkAll (s.whoAt s.cur) 32 .read (imageUnits ea) with
    | (_, some r, s) => afterCheck r (fun _ _ => .next s)
    | (ls, none, s) =>
      match s.accessAll s.cur 32 (ls.zip ((imageUnits ea).map (·.1))) with
      | none => .next (s.sendHeld s.cur 32 (ls.zip ((imageUnits ea).map (·.1))))
      | some s => checkpointed s true (fun s =>
        let s := s.zeroSlot t slot
        let s := ls.zipIdx.foldl (fun (s : State) (e : Loc × Nat) =>
          let (data, bad, s) := s.readRaw e.1 32
          let s := (List.range 8).foldl (fun (s : State) j =>
            s.setAcc t slot (e.2 / 2) (8 * (e.2 % 2) + j) (BitVec.ofNat 32 (leNat ((data.drop (4 * j)).take 4)))) s
          s.lateOpt s.cur s.me.uid (bad.head?.map (fun _ =>
            poisonTrap s.cur.cell e.1 (ea + BitVec.ofNat 64 (32 * e.2))))) s
        s.finish b.words sw)

/-- Sends the writes of a slot's elements as stores of the strand (12 R230). -/
def State.sendUnits (s : State) (i : SlotId) : List (Loc × DWrite) → State
  | [] => s
  | (l, u) :: rest => (s.request i (.store u.data) l u.data.length u.ea).sendUnits i rest

/-- Late traps of accumulator units that read wrong, for the issuing strand. -/
def State.lates (s : State) (ls : List LateTrap) : State := ls.foldl (fun (s : State) l => s.late s.cur s.me.uid l) s

/-- ACCST (12 R230): its 32 writes leave in one step of the model (log 10). -/
def execAccst (a : SReg) (b : Src) (sw : Bool) (s : State) : Out :=
  let t := tileOf s.cur.cell
  let slot := (s.reg a).toNat
  let ea := s.src b
  if s.inHandler then s.ill (.accst a b sw)
  else if s.me.anyPending (a :: b.regs) then .next s
  else match s.accCheck (s.reg a) 1 with
  | some (c, ev) => s.trap c ev
  | none =>
    if addrClass ea = 3 then s.trap .addr ea
    else match s.checkAll (s.whoAt s.cur) 32 .write (imageUnits ea) with
    | (_, some r, s) => afterCheck r (fun _ _ => .next s)
    | (ls, none, s) =>
      if ls.any (fun l => s.blocked s.me.dcls s.cur.cell l) then .next s
      else
        let (late, s) := s.checkUnits t slot (List.range 32)
        let unit (u : Nat) : DWrite :=
          ⟨ea + BitVec.ofNat 64 (32 * u),
            (List.range 8).flatMap (fun j => leBytes 4 (s.accElem t slot (u / 2) (8 * (u % 2) + j)).toNat)⟩
        ((s.sendUnits s.cur (ls.zip ((List.range 32).map unit))).lates late).finish b.words sw

/-- Dword 0 of a ring entry (08 R149). -/
def RingEntry.dword (e : RingEntry) : Word :=
  BitVec.ofNat 64 (e.seq.toNat + 2 ^ 16 * (e.slot.val % 4) + 2 ^ 18 * e.batch.val + 2 ^ 20 * e.status.toNat
    + 2 ^ 22 * e.cause.toNat)

/-- The summary of a strand's hires (12 R231). -/
def State.hireSummary (s : State) (i : SlotId) : Word :=
  let t := s.strand i
  let hs := (s.hub (tileOf i.cell)).hires.filter (fun r => r.isOf i t.uid)
  BitVec.ofNat 64 (((List.finRange 4).map (fun b =>
    2 ^ (8 * b.val) * (hs.filter (fun r => r.batch == b)).length + (if (t.marks[b]).set then 2 ^ (32 + b.val) else 0))).sum)

/-- HSTAT (12 R231). -/
def execHstat (d a : SReg) (sw : Bool) (s : State) : Out :=
  let v := s.reg a
  let r := if v = 0#64 then s.hireSummary s.cur
    else match (s.cell s.cur.cell).ring.find? (fun e => e.seq == v.setWidth 16 && e.slot == s.cur.slot) with
    | some e => e.dword
    | none => 0#64
  scalarOp s [a] d r 1 sw

/-- HCANCEL (12 R232): between steps every hire of the batch that is not in STATE 5 is cancelled. -/
def execHcancel (n : Fin 4) (sw : Bool) (s : State) : Out :=
  let i := s.cur
  let uid := s.me.uid
  (s.updHub (tileOf i.cell) (fun h => { h with hires := h.hires.map (fun (r : Hire) =>
    if r.isOf i uid && r.batch == n && r.state != .writing && r.state != .cancelled then { r.cancel with fault := none }
    else r) })).finish 1 sw

def AccFmt.code : AccFmt → Nat
  | .f32 => 0
  | .f16 => 1
  | .bf16 => 2
  | .i32 => 8

/-- The maximal runs of set columns of a mask: first column and length. -/
def maskRuns (m : BitVec 16) : Nat → List (Nat × Nat)
  | 0 => []
  | n + 1 =>
    let rest := maskRuns m n
    if m.getLsbD n then
      match rest with
      | (j, k) :: more => if j + k = n then (j, k + 1) :: more else (n, 1) :: rest
      | [] => [(n, 1)]
    else rest

/-- The writes of ACCSTM (12 R233): each row's runs of selected columns, in aligned units. -/
def accstmWrites (elem : Nat → Nat → Nat) (b : Word) (rows cols : BitVec 16) (z stride : Nat) : List DWrite :=
  ((List.range 16).filter rows.getLsbD).flatMap (fun i =>
    (maskRuns cols 16).reverse.flatMap (fun (j, n) =>
      spansOf (b + BitVec.ofNat 64 (i * stride + j * z)) ((List.range n).flatMap (fun q => leBytes z (elem i (j + q))))))

/-- ACCSTM (12 R233). -/
def execAccstm (a : SReg) (b : Src) (rows cols : BitVec 16) (fmt : AccFmt) (stride : BitVec 24) (sw : Bool) (s : State) :
    Out :=
  let t := tileOf s.cur.cell
  let slot := (s.reg a).toNat
  let ea := s.src b
  let f := AccFmt.code fmt
  let z := elemBits f / 8
  if s.me.anyPending (a :: b.regs) then .next s
  else match s.accCheck (s.reg a) 1 with
  | some (c, ev) => s.trap c ev
  | none =>
    if addrClass ea = 3 ∨ (parseAddr s.cur.cell ea).isNone then s.trap .addr ea
    else if !isAligned ea z || decide (stride.toNat % z ≠ 0) then s.trap .align ea
    else
      let mode := s.me.rmode.toNat
      let fm := s.me.fmode
      let hit := unitsHit ((List.range 16).filter rows.getLsbD) ((List.range 16).filter cols.getLsbD)
      let us (s : State) :=
        accstmWrites (fun i j => accConvert f mode fm false (s.accElem t slot i j)) ea rows cols z stride.toNat
      match s.checkAll (s.whoAt s.cur) z .write ((us s).map (fun u => (u.ea, u.data.length))) with
      | (_, some r, s) => afterCheck r (fun _ _ => .next s)
      | (ls, none, s) =>
        if ls.any (fun l => s.blocked s.me.dcls s.cur.cell l) then .next s
        else
          let (late, s) := s.checkUnits t slot hit
          ((s.sendUnits s.cur (ls.zip (us s))).lates late).finish (b.words + 2) sw

/-! ### LICREQ, LICREL, LICST (12 R237) -/

def State.setPin (s : State) (t : Nat) (v : Bool) : State :=
  s.updBond (bondOf t) (fun b => if t / 2048 % 2 = 0 then { b with pinl := v } else { b with pinu := v })

/-- LICREQ (12 R237): PRIV outside the supervisor. -/
def execLicreq (sw : Bool) (s : State) : Out :=
  if !s.me.sup then s.priv (.licreq sw) else (s.setPin (tileOf s.cur.cell) true).finish 1 sw
/-- LICREL (12 R237). -/
def execLicrel (sw : Bool) (s : State) : Out :=
  let t := tileOf s.cur.cell
  if !s.me.sup then s.priv (.licrel sw) else ((s.setPin t false).dropLicence t).finish 1 sw

/-- The LICST register (06 R122). -/
def State.licst (s : State) (t : Nat) : Word :=
  BitVec.ofNat 64 ((if s.holds t then 1 else 0) + (if s.requests t then 2 else 0) + (if s.pinned t then 4 else 0)
    + (if s.requests (twinTile t) then 8 else 0))
/-- LICST (12 R237). -/
def execLicst (d : SReg) (sw : Bool) (s : State) : Out := scalarOp s [] d (s.licst (tileOf s.cur.cell)) 1 sw

end Sys2Proof.Machine
end

