-- ==== Sys2Proof/Machine/Rank.lean ====
section
/-! DEFINITION. Rank streams: the ranking network, RSEND and the inbox, RWACC, RVAL and the rank tables (13 R239-R247, 08
R151, R152). -/

namespace Sys2Proof.Machine

open Sys2Proof

/-- The float type of a control word's type code: 8 f32, 9 f16, 10 bf16; with its element format and size. -/
def rankType : Nat → Option FTy
  | 8 => some .f32
  | 9 => some .f16
  | 10 => some .bf16
  | _ => none

/-- Field [lo + n - 1 : lo] of a control word. -/
def ctlField (v : Word) (lo n : Nat) : Nat := v.toNat / 2 ^ lo % 2 ^ n

/-- Bytes written at an offset of a cell, column by column: the poisoned columns, which kept their data. -/
def State.writeLocal (s : State) (c : Nat) (off : Nat) (data : List Byte) : List Loc × State :=
  (spansOf (BitVec.ofNat 64 off) data).foldl (fun (x : List Loc × State) u =>
    let l : Loc := ⟨.local, c, u.ea.toNat⟩
    let (bad, s) := x.2.writeColumn c l u.data
    (if bad then x.1 ++ [l] else x.1, s)) ([], s)

/-- A cell's unit takes its turn at the bank of each column (01 R20). -/
def State.takeTurns (s : State) (c : Nat) : List Loc → Option State
  | [] => some s
  | l :: ls => (s.takeTurn c l).bind (·.takeTurns c ls)

/-- The record of a rank table column that reads as poison for a strand: a free EVAL (DESIGN CHOICE, log 43). -/
def rankTrap (c col : Nat) : LateTrap := ⟨.poison, Config.rankEval c col, 3#2 ++ 0#16⟩

/-- The run of a slot, changed. -/
def State.putRank (s : State) (c : Nat) (r : RankRun) : State :=
  s.updCell c (fun x => { x with ranking := x.ranking.map (fun (y : RankRun) => if y.slot = r.slot then r else y) })

/-! ### RANK (13 R242) -/

structure RankCtl where
  out : Nat
  n : Nat
  k : Nat
  ty : FTy
  deriving DecidableEq, Repr

def rankCtl (v : Word) : Option RankCtl :=
  let out := ctlField v 0 16
  let n := ctlField v 16 8 + 1
  let k := ctlField v 24 8 + 1
  match rankType (ctlField v 32 4) with
  | none => none
  | some ty => if ctlField v 36 28 = 0 ∧ out ≤ 0xBFFF ∧ out + k ≤ 0xC000 then some ⟨out, n, k, ty⟩ else none

def FTy.size (t : FTy) : Nat := elemBits (ftyCode t) / 8

/-- The elements already done of a long instruction that resumes (06 R119). -/
def Strand.resumeAt (t : Strand) : Nat := if t.progValid then t.progIndex.toNat else 0

/-- RANK (13 R242): parks and joins the queue of the tile's ranking network. -/
def execRank (d a : SReg) (b : Src) (sw : Bool) (s : State) : Out :=
  let t := s.me
  let c := s.cur.cell
  let ctl := s.src b
  if t.anyPending (d :: a :: b.regs) then .next s
  else match rankCtl ctl with
  | none => s.ill (.rank d a b sw)
  | some r =>
    match s.blkCheck c (s.reg a) (r.n * FTy.size r.ty) (FTy.size r.ty) t.lock with
    | .error e => s.trap e (s.reg a)
    | .ok _ =>
      match s.blkCheck c (BitVec.ofNat 64 r.out) r.k 1 t.lock with
      | .error e => s.trap e (BitVec.ofNat 64 r.out)
      | .ok _ =>
        let q : RankRun := {
          slot := s.cur.slot, val := false, d := d, src := s.reg a, dst := BitVec.ofNat 64 r.out, ctl := ctl,
          fmode := t.fmode, start := t.resumeAt, granted := false, read := [], out := none, written := 0, poison := none }
        (s.updCell c (fun x => { x with ranking := x.ranking ++ [q] })).park .rank b.words sw

/-- Puts index i of value x behind every index whose value is not smaller. -/
def insertRank (i : Nat) (x : FVal) : List (Nat × FVal) → List (Nat × FVal)
  | [] => [(i, x)]
  | (j, y) :: l => if y.lt x then (i, x) :: (j, y) :: l else (j, y) :: insertRank i x l

/-- The indices of the values that are no NaN, largest first, ties by index. -/
def rankOrder (xs : List FVal) : List Nat :=
  (xs.zipIdx.foldl (fun (l : List (Nat × FVal)) (e : FVal × Nat) =>
    if e.1.isNan then l else insertRank e.2 e.1 l) []).map Prod.fst

/-- The RANK of a cell that waits for the network: the oldest. -/
def Cell.rankWaiting (x : Cell) : Option RankRun := x.ranking.find? (fun r => !r.val && !r.granted)

/-- A RANK of the cell holds the network: from its first read to the last network cycle. -/
def Cell.holdsNetwork (x : Cell) : Bool := x.ranking.any (fun r => !r.val && r.granted && r.out.isNone)

/-- The cell that the network takes next: in ascending order of tile-local number from the one after the cell served last. -/
def State.nextRank (s : State) (t : Nat) : Option Nat :=
  ((List.range 16).map (fun j => 16 * t + ((s.hub t).rankNext + j) % 16)).find? (fun c => (s.cell c).rankWaiting.isSome)

/-- RANK_NETWORK_GRANT (13 R242): the network, when no RANK holds it, takes the next one. -/
def execRankNetworkGrant (t : Nat) (s : State) : Out :=
  if (List.range 16).any (fun j => (s.cell (16 * t + j)).holdsNetwork) then idle s
  else match s.nextRank t with
  | none => idle s
  | some c =>
    match (s.cell c).rankWaiting with
    | none => idle s
    | some r => .next ((s.putRank c { r with granted := true }).updHub t (fun h => { h with rankNext := (c + 1) % 16 }))

/-! ### The columns of RANK and RVAL (13 R242, R246) -/

/-- The element format of a RANK's source, or of an RVAL's stream of bytes. -/
def RankRun.fmt (r : RankRun) : Nat := if r.val then 6 else ((rankCtl r.ctl).map (fun k => ftyCode k.ty)).getD 0

/-- The bytes of the source. -/
def RankRun.bytes (r : RankRun) : Nat :=
  if r.val then ctlField r.ctl 0 9 else ((rankCtl r.ctl).map (fun k => k.n * FTy.size k.ty)).getD 0

/-- The size of what PROG.INDEX counts: stream entries, or elements. -/
def RankRun.unit (r : RankRun) : Nat := if !r.val then 1 else if ctlField r.ctl 20 4 = 8 then 4 else 2

/-- The stream of a RANK whose source has been read. -/
def RankRun.order (r : RankRun) (k : RankCtl) : List Nat :=
  (rankOrder ((List.range k.n).map (fun e => (ftyFmt k.ty).rd r.fmode (elemAt (ftyCode k.ty) r.read e)))).take k.k

/-! ### RSEND and the inbox (13 R243, R244, 08 R151) -/

/-- RSEND (13 R243). -/
def execRsend (c : Cls) (a : SReg) (b : Src) (sw : Bool) (s : State) : Out :=
  let t := s.me
  let own := s.cur.cell
  let ctl := s.src b
  let id := ctlField ctl 0 20
  let n := ctlField ctl 32 9
  if t.anyPending (a :: b.regs) then .next s
  else if ctlField ctl 22 10 ≠ 0 ∨ ctlField ctl 41 23 ≠ 0 ∨ 256 < n then s.ill (.rsend c a b sw)
  else if s.adapt.getLsbD c.val then s.trap .order (BitVec.ofNat 64 c.val)
  else match s.teamCell own id with
  | none => s.trap .prot (BitVec.ofNat 64 id)
  | some target =>
    match s.blkCheck own (s.reg a) n 1 t.lock with
    | .error e => s.trap e (s.reg a)
    | .ok off =>
      if n = 0 then s.finish b.words sw
      else
        s.release (commonScope own target)
          (.rsend c target ⟨.local, own, off⟩ (s.reg a) n (Fin.ofNat 4 (ctlField ctl 20 2))) b.words sw

/-- RANK_ARRIVAL (08 R151): an entry takes its stream's COUNT as its rank; a full inbox lets the packet wait. -/
def execRankArrival (k : Nat) (s : State) : Out :=
  match listGet s.net k with
  | some f =>
    match f.body, f.dstCell with
    | .rank index st, some c =>
      let x := s.cell c
      if !s.delivers k f || decide (64 ≤ x.ranks.length) then idle s
      else
        let n := x.rankCount[st]
        .next ((s.without k).updCell c (fun x =>
          { x with
            ranks := x.ranks ++ [⟨index, st, n, s.cycle.toNat⟩]
            rankCount := x.rankCount.set st (if n = 0xFFFF#16 then n else n + 1#16) }))
    | _, _ => idle s
  | none => idle s

/-- RCNT (13 R247). -/
def execRcnt (d : SReg) (n : Fin 4) (sw : Bool) (s : State) : Out :=
  let x := s.cell s.cur.cell
  let v := (x.rankCount[n]).toNat + 2 ^ 16 * (x.ranks.filter (fun e => e.stream == n)).length
  scalarOp s [] d (BitVec.ofNat 64 v) 1 sw

/-- The entries of an inbox after a clear of stream n: those that arrived in this cycle come after it, and are ranked from 0. -/
def clearRanks (n : Fin 4) (now : Nat) : Nat → List RankEntry → List RankEntry
  | _, [] => []
  | k, e :: l =>
    if e.stream ≠ n then e :: clearRanks n now k l
    else if e.since = now then { e with rank := BitVec.ofNat 16 k } :: clearRanks n now (k + 1) l
    else clearRanks n now k l

/-- RCLR (13 R247, 08 R151); in a lockstep pair it stands between checkpoints, as no rollback brings the entries back (DESIGN CHOICE,
log 9). -/
def execRclr (n : Fin 4) (sw : Bool) (s : State) : Out :=
  checkpointed s true (fun s =>
    (s.updCell s.cur.cell (fun x =>
      let l := clearRanks n s.cycle.toNat 0 x.ranks
      { x with
        ranks := l
        rankCount := x.rankCount.set n (BitVec.ofNat 16 (l.filter (fun e => e.stream == n)).length) })).finish 1 sw)

/-- The 16 units of a rank table's source. -/
def tableUnits (ea : Word) : List (Word × Nat) := (List.range 16).map (fun u => (ea + BitVec.ofNat 64 (32 * u), 32))

/-- Unit u of rank table t takes 16 entries from a place; a poisoned column gives f16 poison. -/
def State.loadTableUnit (s : State) (i : SlotId) (t u : Nat) (l : Loc) (ea : Word) : State :=
  let (data, bad, s) := s.readTyped 1 l 32
  let s := s.updCell i.cell (fun x =>
    { x with rankTab := (List.range 16).foldl (fun (tab : Table (BitVec 16)) j =>
        tab.set (256 * t + 16 * u + j) (BitVec.ofNat 16 (elemAt 1 data j))) x.rankTab
             rankBad := freshUnit x.rankBad (16 * t + u) })
  s.lateOpt i (s.strand i).uid (bad.head?.map (fun _ => poisonTrap i.cell l ea))

/-- RTLD (13 R247): 256 entries, in one step of the model (log 10). An address of class 1 may name another cell of the team, as R240
bars only class 3 (DESIGN CHOICE, log 65). In a lockstep pair it stands between checkpoints (log 9). -/
def execRtld (a : SReg) (n : Fin 4) (sw : Bool) (s : State) : Out :=
  let ea := s.reg a
  if s.me.anyPending [a] then .next s
  else if addrClass ea = 3 then s.trap .addr ea
  else match s.checkAll (s.whoAt s.cur) 32 .read (tableUnits ea) with
  | (_, some r, s) => afterCheck r (fun _ _ => .next s)
  | (ls, none, s) =>
    let us := ls.zip ((tableUnits ea).map Prod.fst)
    match s.accessAll s.cur 32 us with
    | none => .next (s.sendHeld s.cur 32 us)
    | some s => checkpointed s true (fun s =>
        (us.zipIdx.foldl (fun (s : State) (e : (Loc × Word) × Nat) => s.loadTableUnit s.cur n.val e.2 e.1.1 e.1.2) s).finish 1 sw)

/-- Entry r of table t, input-flushed; poison from one of the bad columns (08 R152). -/
def State.tableEntry (s : State) (c t r : Nat) (bad : List Nat) (fm : BitVec 8) : FVal :=
  fmtF16.rd fm ((s.cell c).rankValue bad t r).toNat

/-! ### RWACC (13 R245) -/

structure RwaccCtl where
  st : Fin 4
  tab : Nat
  w : Nat
  stride : Nat
  ty : FTy
  p : Nat
  deriving DecidableEq, Repr

def rwaccCtl (v : Word) : Option RwaccCtl :=
  match rankType (ctlField v 32 4) with
  | none => none
  | some ty =>
    let w := ctlField v 4 9
    let stride := ctlField v 16 16
    let p := ctlField v 36 16
    if ctlField v 13 3 = 0 ∧ ctlField v 52 12 = 0 ∧ 1 ≤ w ∧ w ≤ 256 ∧ stride % FTy.size ty = 0 ∧ 1 ≤ p then
      some ⟨Fin.ofNat 4 (ctlField v 0 2), ctlField v 2 2, w, stride, ty, p⟩
    else none

/-- The accumulator after one arrival: each element rounds once, to nearest even. -/
def rwaccRow (fm : BitVec 8) (fmt : Nat) (f : FFmt) (tv : FVal) (row acc : List Byte) (w : Nat) : List Byte :=
  (List.range w).flatMap (fun j =>
    leBytes 4 (f32Rne fm (FVal.add false (fmtF32.decode false (elemAt 0 acc j)) (tv.mul (f.rd fm (elemAt fmt row j))))).toNat)

/-- The slots of a cell parked in an RWACC on a stream, with the count of steps when they parked. -/
def Cell.rwaccs (x : Cell) (st : Fin 4) : List (Fin 5 × Nat) :=
  (List.finRange 5).filterMap (fun k =>
    match (x.strands[k] : Strand).status with
    | .parked (.rwacc ctl _ _ _ since _) =>
      (match rwaccCtl ctl with
      | some r => if r.st = st then some (k, since) else none
      | none => none)
    | _ => none)

/-- The row and accumulator of an arrival of an RWACC, with the addresses of both. -/
structure RwaccPlace where
  row : Loc
  rowEa : Word
  acc : Loc
  accEa : Word
  deriving DecidableEq, Repr

/-- An arrival is applied: the accumulator takes its updates. The records of the poisoned columns that were read. -/
def State.rwaccApply (s : State) (c : Nat) (fm : BitVec 8) (r : RwaccCtl) (e : RankEntry) (q : RwaccPlace) :
    List LateTrap × State :=
  let fmt := ftyCode r.ty
  let (tabs, s) := s.checkRankColumns c [rankColumn r.tab e.rank.toNat]
  let (row, b1, s) := s.readTyped fmt q.row (r.w * FTy.size r.ty)
  let (old, b2, s) := s.readTyped 0 q.acc (4 * r.w)
  let tv := s.tableEntry c r.tab e.rank.toNat tabs fm
  let (b3, s) := s.writeLocal c q.acc.addr (rwaccRow fm fmt (ftyFmt r.ty) tv row old r.w)
  let trap (l : Loc) (ea : Word) (b : Loc) : LateTrap := poisonTrap c (poisonedAt l ea b).1 (poisonedAt l ea b).2
  (tabs.map (rankTrap c) ++ b1.map (trap q.row q.rowEa) ++ (b2 ++ b3).map (trap q.acc q.accEa), s)

/-- An RWACC takes arrival n of the inbox: the last one ends it, and the first poison that it read is then pending (R240; of several
the first, log 37). -/
def State.rwaccTake (s : State) (i : SlotId) (n : Nat) (e : RankEntry) (r : RwaccCtl) (q : RwaccPlace) : State :=
  let t := s.strand i
  match t.status with
  | .parked (.rwacc ctl a acc done since poison) =>
    let s := s.updCell i.cell (fun x => { x with ranks := listErase x.ranks n })
    let (lates, s) := if e.rank.toNat < 256 then s.rwaccApply i.cell t.fmode r e q else ([], s)
    let poison := poison.or lates.head?
    if done + 1 = r.p then ((s.endProg i).complete i).lateOpt i t.uid poison
    else s.upd i (fun t => { t with status := .parked (.rwacc ctl a acc (done + 1) since poison) })
  | _ => s

/-- RWACC_POP (13 R245): the oldest parked RWACC of the stream takes its oldest arrival, when there is one, and applies it in
full. A row past the cell's memory raises ADDR, the arrival unpopped. In a lockstep pair each arrival stands between checkpoints,
as no rollback brings it back (02 R49; DESIGN CHOICE, log 9). -/
def State.popRwacc (s : State) (i : SlotId) : State :=
  let t := s.strand i
  let c := i.cell
  match t.status with
  | .parked (.rwacc ctl a acc done since poison) =>
    match rwaccCtl ctl, s.ownOffset c a, s.ownOffset c acc with
    | some r, some oa, some od =>
      if ((s.cell c).rwaccs r.st).any (fun e => decide (e.2 < since)) || s.owes t.uid then s
      else match listFind (fun (e : RankEntry) => e.stream == r.st) (s.cell c).ranks with
      | none => s
      | some n =>
        match (listGet (s.cell c).ranks n).filter (fun e => decide (e.since < s.cycle.toNat)) with
        | none => s
        | some e =>
          let size := FTy.size r.ty
          let off := oa + e.index.toNat * r.stride
          let adds := decide (e.rank.toNat < 256)
          let top := off + r.w * size
          let q : RwaccPlace := ⟨⟨.local, c, off⟩, a + BitVec.ofNat 64 (e.index.toNat * r.stride), ⟨.local, c, od⟩, acc⟩
          let stop (cause : Cause) : State := ((s.setProg i done).trapAt i cause q.rowEa).lateOpt i t.uid poison
          if adds && decide (0xC000 < top) then stop .addr
          else if adds && t.lock && decide (0xB000 < top) then stop .prot
          else if adds && (!s.mayAccess i q.row (r.w * size) q.rowEa || !s.mayAccess i q.acc (4 * r.w) acc) then s
          else match (if adds then s.takeTurns c (columnsOf q.row (r.w * size) ++ columnsOf q.acc (4 * r.w)) else some s) with
          | none => s
          | some s =>
            if s.mismatched i then s.checkpoint i
            else ((s.checkpoint i).rwaccTake i n e r q).checkpoint i
    | _, _, _ => s
  | _ => s

def execRwaccPop (c : Nat) (k : Fin 5) (s : State) : Out := .next (s.popRwacc ⟨c, k⟩)

/-- RWACC (13 R245): ILL in a handler. -/
def execRwacc (d a : SReg) (b : Src) (sw : Bool) (s : State) : Out :=
  let t := s.me
  let c := s.cur.cell
  let ctl := s.src b
  if s.inHandler then s.ill (.rwacc d a b sw)
  else if t.anyPending (d :: a :: b.regs) then .next s
  else match rwaccCtl ctl with
  | none => s.ill (.rwacc d a b sw)
  | some r =>
    match s.blkCheck c (s.reg a) (FTy.size r.ty) (FTy.size r.ty) t.lock with
    | .error e => s.trap e (s.reg a)
    | .ok _ =>
      match s.blkCheck c (s.reg d) (4 * r.w) 4 t.lock with
      | .error e => s.trap e (s.reg d)
      | .ok _ =>
        if r.p ≤ t.resumeAt then (s.endProg s.cur).finish b.words sw
        else s.park (.rwacc ctl (s.reg a) (s.reg d) t.resumeAt s.tick none) b.words sw

/-! ### RVAL (13 R246) -/

structure RvalCtl where
  c : Nat
  n : Nat
  tab : Nat
  wide : Bool
  deriving DecidableEq, Repr

def rvalCtl (v : Word) : Option RvalCtl :=
  let c := ctlField v 0 9
  let n := ctlField v 9 9 + 1
  let ty := ctlField v 20 4
  if c ≤ 256 ∧ n ≤ 256 ∧ (ty = 8 ∨ ty = 9) ∧ ctlField v 24 40 = 0 then some ⟨c, n, ctlField v 18 2, ty == 8⟩ else none

/-- The largest rank at which a stream carries index j. -/
def rvalRank (c : Nat) (stream : List Byte) (j : Nat) : Option Nat :=
  ((List.range c).filter (fun q => (stream.getD q 0#8).toNat == j)).getLast?

/-- Element j of the vector: the table entry of the largest rank at which the stream carries j, else +0. Nothing is
rounded. -/
def State.rvalElem (s : State) (cell : Nat) (r : RvalCtl) (bad : List Nat) (fm : BitVec 8) (stream : List Byte) (j : Nat) :
    List Byte :=
  let x := match rvalRank r.c stream j with
    | none => FVal.zero false
    | some q => s.tableEntry cell r.tab q bad fm
  if r.wide then leBytes 4 (fmtF32.encode 0 false false 0 x) else leBytes 2 (fmtF16.encode 0 false false 0 x)

/-- RVAL (13 R246): the strand parks, and resumes from PROG.INDEX. -/
def execRval (d a : SReg) (b : Src) (sw : Bool) (s : State) : Out :=
  let t := s.me
  let cell := s.cur.cell
  let ctl := s.src b
  if t.anyPending (d :: a :: b.regs) then .next s
  else match rvalCtl ctl with
  | none => s.ill (.rval d a b sw)
  | some r =>
    let size := if r.wide then 4 else 2
    match s.blkCheck cell (s.reg a) r.c 1 t.lock with
    | .error e => s.trap e (s.reg a)
    | .ok _ =>
      match s.blkCheck cell (s.reg d) (r.n * size) size t.lock with
      | .error e => s.trap e (s.reg d)
      | .ok od =>
        let q : RankRun := {
          slot := s.cur.slot, val := true, d := .zr, src := s.reg a, dst := BitVec.ofNat 64 od, ctl := ctl,
          fmode := t.fmode, start := size * t.resumeAt, granted := true, read := [], out := none, written := 0,
          poison := none }
        (s.updCell cell (fun x => { x with ranking := x.ranking ++ [q] })).park .rank b.words sw

/-- What a run whose source has been read will write, and the poison of the tables that it reads. -/
def State.rankOut (s : State) (c : Nat) (r : RankRun) : List Byte × Option LateTrap × State :=
  if r.val then
    match rvalCtl r.ctl with
    | none => ([], none, s)
    | some k =>
      let js := List.range k.n
      let used := js.filterMap (fun j => (rvalRank k.c r.read j).map (rankColumn k.tab))
      let (bad, s) := s.checkRankColumns c used.dedup
      (js.flatMap (s.rvalElem c k bad r.fmode r.read), bad.head?.map (rankTrap c), s)
  else (((rankCtl r.ctl).map (fun k => (r.order k).map (BitVec.ofNat 8))).getD [], none, s)

/-- A RANK or RVAL that has written its last column ends: D takes the stream's length, and a late POISON is then pending. -/
def State.endRank (s : State) (c : Nat) (r : RankRun) (n : Nat) : State :=
  let i : SlotId := ⟨c, r.slot⟩
  let s := s.updCell c (fun x => { x with ranking := x.ranking.filter (fun y => y.slot != r.slot) })
  let s := if r.val then s else s.writeReg i r.d (BitVec.ofNat 64 n)
  ((s.endProg i).complete i).lateOpt i (s.strand i).uid r.poison

/-- BANK_ACCESS of a RANK or RVAL: the next source column, the network's or the tables' work, or the next destination column.
A resumed run writes from PROG.INDEX on. -/
def rankAccess (c : Nat) (k : Fin 5) (s : State) : Out :=
  match (s.cell c).ranking.find? (fun r => r.slot == k) with
  | none => idle s
  | some r =>
    if !r.granted then idle s
    else match r.out with
    | none =>
      let off := (r.src.extractLsb' 0 16).toNat + r.read.length
      if r.read.length < r.bytes then
        let m := Min.min (r.bytes - r.read.length) (32 - off % 32)
        let l : Loc := ⟨.local, c, off⟩
        match s.access ⟨c, k⟩ l m (r.src + BitVec.ofNat 64 r.read.length) with
        | none => idle s
        | some s =>
          let (data, bad, s) := if r.val then s.readRaw l m else s.readTyped r.fmt l m
          let late := bad.head?.map (fun _ => poisonTrap c l (r.src + BitVec.ofNat 64 r.read.length))
          .next (s.putRank c { r with read := r.read ++ data, poison := r.poison <|> late })
      else
        let (out, late, s) := s.rankOut c r
        let start := Min.min r.start out.length
        let r := { r with out := some out, written := start, poison := r.poison <|> late }
        if start = out.length then .next (s.endRank c r out.length) else .next (s.putRank c r)
    | some out =>
      let o := r.dst.toNat + r.written
      let m := Min.min (out.length - r.written) (32 - o % 32)
      let l : Loc := ⟨.local, c, o⟩
      match s.access ⟨c, k⟩ l m (BitVec.ofNat 64 o) with
      | none => idle s
      | some s =>
        let (bad, s) := s.writeColumn c l ((out.drop r.written).take m)
        let late := if bad then some (poisonTrap c l (BitVec.ofNat 64 o)) else none
        let r := { r with written := r.written + m, poison := r.poison <|> late }
        if r.written = out.length then .next (s.endRank c r out.length) else .next (s.putRank c r)

/-- A save withdraws a run: PROG counts what stands written, and 0 before the writing phase of a RANK (13 R242, R246, 17
R319). -/
def State.stopRank (s : State) (c : Nat) (r : RankRun) : State :=
  let i : SlotId := ⟨c, r.slot⟩
  let n := if r.out.isSome then r.written / r.unit else if r.val then r.start / r.unit else 0
  (s.setProg i n).lateOpt i (s.strand i).uid (if r.out.isSome then r.poison else none)

end Sys2Proof.Machine
end

