-- ==== Sys2Proof/Machine/Walk.lean ====
section
/-! DEFINITION. The damask walker: its queue and lock protocol (13 R249-R252), TNEW, TOPEN, TSTAT, TDROP, TSUM, TAPP with
its splits, and TWALK with its cursor (13 R253-R259), over the descriptor and node records of 08 R159-R161. -/

namespace Sys2Proof.Machine

open Sys2Proof

/-! ### f32 arithmetic of the walker: RNE, no flush (13 R255) -/

abbrev F32 := BitVec 32

def f32Val (x : F32) : FVal := fmtF32.decode false x.toNat
def f32Round (x : FVal) : F32 := BitVec.ofNat 32 (fmtF32.encode 0 false false 0 x)
def f32Add (x y : F32) : F32 := f32Round (FVal.add false (f32Val x) (f32Val y))
def f32Sub (x y : F32) : F32 := f32Round (FVal.add false (f32Val x) (FVal.neg (f32Val y)))
def f32Mul (x y : F32) : F32 := f32Round ((f32Val x).mul (f32Val y))
def f32Sqrt (x : F32) : F32 := f32Round (FVal.sqrt (f32Val x))
def f32Le (x y : F32) : Bool := (f32Val x).lt (f32Val y) || (f32Val x).eq (f32Val y)
def f32Lt (x y : F32) : Bool := (f32Val x).lt (f32Val y)
/-- The larger of two; the first when they compare neither way. -/
def f32Max (x y : F32) : F32 := if f32Lt x y then y else x
def f32Finite (x : F32) : Bool := match f32Val x with | .fin .. => true | _ => false

/-- cen(n)[d]: the quotient of a sum by COUNT, rounded once. -/
def f32Mean (sum : F32) (count : Nat) : F32 := f32Round (FVal.div (f32Val sum) (FVal.ofNat count))
def f32Sq : List F32 → List F32 → F32
  | xs, ys => (xs.zip ys).foldl (fun (s : F32) p => let t := f32Sub p.1 p.2; f32Add s (f32Mul t t)) 0#32
def f32Dist (xs ys : List F32) : F32 := f32Sqrt (f32Sq xs ys)

/-! ### Records (08 R159, R160) -/

structure Desc where
  d : Nat
  vd : Nat
  root : Nat
  height : Nat
  wlock : Bool
  valid : Bool
  readers : Nat
  nsz : Nat
  capn : Nat
  used : Nat
  free : Nat
  version : Nat
  keys : Nat
  deriving DecidableEq, Repr

def noNode : Nat := 0xFFFFFFFF

def Desc.ofBytes (b : List Byte) : Desc :=
  let f (o n : Nat) : Nat := leNat ((b.drop o).take n)
  ⟨f 0 2, f 2 2, f 4 4, f 8 1, decide (f 9 1 % 2 = 1), decide (f 9 1 / 2 % 2 = 1), f 10 2, f 12 4, f 16 4, f 20 4, f 24 4,
    f 32 8, f 40 8⟩

def Desc.bytes (x : Desc) : List Byte :=
  leBytes 2 x.d ++ leBytes 2 x.vd ++ leBytes 4 x.root ++ leBytes 1 x.height
    ++ leBytes 1 ((if x.wlock then 1 else 0) + (if x.valid then 2 else 0)) ++ leBytes 2 x.readers ++ leBytes 4 x.nsz
    ++ leBytes 4 x.capn ++ leBytes 4 x.used ++ leBytes 4 x.free ++ leBytes 4 0 ++ leBytes 8 x.version ++ leBytes 8 x.keys
    ++ leBytes 16 0

structure Node where
  count : Nat
  radius : F32
  parent : Nat
  kind : Nat
  fill : Nat
  child : List Nat
  seq : Nat
  sums : List F32
  entries : List (List F32)
  /-- The header's fields that must be zero. -/
  zeros : Nat
  /-- What an operation has changed beside the header: the sums, and entries. -/
  resummed : Bool := false
  dirty : List Nat := []
  deriving DecidableEq, Repr

/-- n f32 values in a row. -/
def f32s : Nat → List Byte → List F32
  | 0, _ => []
  | n + 1, b => BitVec.ofNat 32 (leNat (b.take 4)) :: f32s n (b.drop 4)
def f32Bytes (xs : List F32) : List Byte := xs.flatMap (fun x => leBytes 4 x.toNat)

def Node.ofBytes (dim : Nat) (b : List Byte) : Node :=
  let f (o n : Nat) : Nat := leNat ((b.drop o).take n)
  { count := f 0 4
    radius := BitVec.ofNat 32 (f 4 4)
    parent := f 8 4
    kind := f 12 1
    fill := f 13 1
    child := (List.range 8).map (fun p => f (16 + 4 * p) 4)
    seq := f 48 8
    sums := f32s dim (b.drop 64)
    entries := (List.range 16).map (fun e => f32s dim (b.drop (64 + 4 * dim * (e + 1))))
    zeros := f 14 2 + f 56 8 }

def Node.header (n : Node) : List Byte :=
  leBytes 4 n.count ++ leBytes 4 n.radius.toNat ++ leBytes 4 n.parent ++ leBytes 1 n.kind ++ leBytes 1 n.fill ++ leBytes 2 0
    ++ (n.child.flatMap (leBytes 4)) ++ leBytes 8 n.seq ++ leBytes 8 0

/-- The bytes that an operation writes of a node at an offset: the header, and the sums and entries that it changed. -/
def Node.writes (dim off : Nat) (n : Node) : List (Nat × List Byte) :=
  (off, n.header ++ (if n.resummed then f32Bytes n.sums else []))
    :: n.dirty.map (fun e => (off + 64 + 4 * dim * (e + 1), f32Bytes (n.entries.getD e [])))

def Node.cen (d : Nat) (n : Node) : List F32 := (n.sums.take d).map (fun x => f32Mean x n.count)

/-- The bytes of a tree from an offset behind its base, as they stand in the handle's pages. -/
def State.treeBytes (s : State) (base : Word) (off n : Nat) : List Byte :=
  let h := (base.extractLsb' 36 24).toNat
  let o := (base.extractLsb' 0 36).toNat + off
  (List.range n).map (fun j => Memory.get s.mem (s.hwLoc h (o + j)).key)

def Desc.nodeOff (x : Desc) (n : Nat) : Nat := 64 + x.nsz * n
/-- Bytes of a node's header, sums and entries. -/
def Desc.nodeLen (x : Desc) : Nat := 64 + 68 * (x.d + x.vd)

/-- A tree as an operation sees it: the descriptor and the nodes it has changed, over memory; the reads made. -/
structure Tree where
  desc : Desc
  changed : Table Node
  accs : List (Nat × Nat)

def State.node (s : State) (base : Word) (t : Tree) (n : Nat) : Node :=
  match t.changed.find? (fun e => e.1 == n) with
  | some e => e.2
  | none => Node.ofBytes (t.desc.d + t.desc.vd) (s.treeBytes base (t.desc.nodeOff n) t.desc.nodeLen)

/-- The header and the first k sums of a node are read. -/
def Tree.touch (t : Tree) (n k : Nat) : Tree := { t with accs := t.accs ++ [(t.desc.nodeOff n, 64 + 4 * k)] }
def Tree.dim (t : Tree) : Nat := t.desc.d + t.desc.vd
/-- The entries of a leaf are read. -/
def Tree.touchEntries (t : Tree) (n : Nat) : Tree :=
  { t with accs := t.accs ++ [(t.desc.nodeOff n + 64 + 4 * t.dim, 64 * t.dim)] }
/-- A node with its number counted up for a change (08 R160). -/
def Node.changed (n : Node) : Node := { n with seq := (n.seq + 1) % 2 ^ 64 }
def Tree.put (t : Tree) (n : Nat) (x : Node) : Tree := { t with changed := Table.set t.changed n x }

/-- A field of the node that must be zero is not: of its header, or one of the children that it does not use, all eight in a leaf
(00 R6, 08 R160). -/
def Node.nonzero (n : Node) : Bool :=
  n.zeros != 0 || (match n.kind with
    | 1 => n.child.any (· != 0)
    | 2 => (n.child.drop n.fill).any (· != 0)
    | _ => false)

/-- A node as status 3 describes a bad one, or one with a nonzero field that must be zero (00 R6, log 18). -/
def Node.bad (used : Nat) (n : Node) : Bool :=
  n.nonzero || match n.kind with
  | 1 => decide (16 < n.fill)
  | 2 => decide (n.fill = 0 ∨ 8 < n.fill) || (n.child.take n.fill).any (fun c => decide (used ≤ c))
  | _ => true

/-! ### Accesses of the walker (13 R250) -/

def WalkReq.id (r : WalkReq) : SlotId := ⟨r.cell, r.slot⟩
def WalkReq.who (r : WalkReq) (s : State) : Who :=
  let t := s.strand r.id
  ⟨.walker (groupOf r.cell), r.id, r.uid, r.cell, s.partAt r.cell, r.sup, t.splh, t.lock⟩

/-- The columns of n bytes at an address. -/
def columnSpans (ea : Word) (n : Nat) : List (Word × Nat) :=
  (List.range (unitCount ea.toNat n)).map (fun u =>
    let (off, k) := unitSpan ea.toNat n u
    (ea + BitVec.ofNat 64 off, k))

/-- What a list of accesses that waits asks for: a walk, the pager, or a place among the held writes. -/
def State.askAll (w : Who) (p : Perm) (spans : List (Word × Nat)) (s : State) : State :=
  match s.checkAll w 1 p spans with
  | (_, some (.stall s), _) | (_, some (.absent _ _ s), _) => s
  | _ => s

/-- Every column of a list of accesses is checked; a wait or the first fault ends it. -/
def State.walkCheck (s : State) (w : Who) (p : Perm) (spans : List (Word × Nat)) : Eng (List (Loc × Word)) :=
  match s.checkAll w 1 p spans with
  | (ls, none, s) =>
    if ls.any (fun l => s.blocked (s.strand w.slot).dcls w.slot.cell l) then .wait false id
    else .ok (ls.zip (spans.map Prod.fst)) s
  | (_, some (.bad c ev _), s) => .fault c ev s
  | (_, some (.absent _ _ _), _) => .wait true (State.askAll w p spans)
  | (_, some _, _) => .wait false (State.askAll w p spans)

/-- Reads bytes that are no part of a tree, column by column: poisoned ones read as R130 gives, with the late trap. -/
def State.walkColumns (s : State) (w : Who) : List (Word × Nat) → Eng (List Byte × Option LateTrap)
  | [] => .ok ([], none) s
  | (ea, n) :: us =>
    (s.engineRead w ea n 1).bind (fun l s =>
      let (data, bad, s) := s.readRaw l n
      (s.walkColumns w us).bind (fun x s => .ok (data ++ x.1, (bad.head?.map (fun _ => poisonTrap w.slot.cell l ea)).or x.2) s))
def State.walkRead (s : State) (w : Who) (ea : Word) (n : Nat) : Eng (List Byte × Option LateTrap) := s.walkColumns w (columnSpans ea n)

/-- A fault of an access ends as given. -/
def Eng.onFault {α : Type} (r : Eng α) (k : Cause → Word → State → Eng α) : Eng α :=
  match r with
  | .fault c ev s => k c ev s
  | r => r

/-- A column that a write leaves in part is read first (07 R129). -/
def partialSpan (u : Word × Nat) : Bool := u.1.toNat % 32 != 0 || u.2 != 32

/-- Bytes of a tree hold a poisoned column. -/
def State.treeBad (s : State) (base : Word) (acc : Nat × Nat) : Bool :=
  (columnSpans (base + BitVec.ofNat 64 acc.1) acc.2).any (fun u =>
    (s.checkColumn (s.hwLoc (base.extractLsb' 36 24).toNat (u.1.extractLsb' 0 36).toNat)).1)

/-- Checks the tree accesses of an operation, its reads and its writes; the late trap of a poisoned column that it reads. -/
def State.walkTree (s : State) (w : Who) (base : Word) (p : Perm) (reads writes : List (Nat × Nat)) : Eng (Option LateTrap) :=
  let spans (l : List (Nat × Nat)) := l.flatMap (fun a => columnSpans (base + BitVec.ofNat 64 a.1) a.2)
  let rs := spans reads
  (s.walkCheck w p (rs ++ spans writes)).bind (fun ls s =>
    let x := (ls.zip (rs.map (fun _ => true) ++ (spans writes).map partialSpan)).foldl (fun (x : Option LateTrap × State) e =>
      if !e.2 then x
      else
        let (bad, s) := x.2.checkColumn e.1.1
        ((if x.1.isNone && bad then some (poisonTrap w.slot.cell e.1.1 e.1.2) else x.1), s)) (none, s)
    .ok x.1 x.2)

/-- Writes bytes at an offset behind a tree's base, on behalf of the strand. -/
def State.treeWrite (s : State) (r : WalkReq) (off : Nat) (bs : List Byte) : State :=
  let h := (r.a.extractLsb' 36 24).toNat
  let ea := r.a + BitVec.ofNat 64 off
  (spansOf ea bs).foldl (fun (s : State) u =>
    (s.putColumn (r.who s) r.uid u.ea (s.hwLoc h (u.ea.extractLsb' 0 36).toNat) u.data).2) s

def State.treeWrites (s : State) (r : WalkReq) (ws : List (Nat × List Byte)) : State :=
  ws.foldl (fun (s : State) w => s.treeWrite r w.1 w.2) s

def spansOfWrites (ws : List (Nat × List Byte)) : List (Nat × Nat) := ws.map (fun w => (w.1, w.2.length))

/-- The descriptor's fields that must be zero are (08 R159). One that is not makes TAPP and TDROP answer status 3 and TWALK BAD; TSUM
and TSTAT, for which no status is named, give what they give of a record that they cannot read: TSUM the 16 bytes of a node out of
range, TSTAT 0 (00 R6; DESIGN CHOICE, log 62). -/
def State.descZero (s : State) (base : Word) : Bool :=
  leNat (s.treeBytes base 0x1C 4) == 0 && leNat (s.treeBytes base 0x30 16) == 0

def State.descAt (s : State) (base : Word) : Desc := Desc.ofBytes (s.treeBytes base 0 64)

/-! ### Issue -/

def WalkOp.writes : WalkOp → Bool
  | .tnew | .tapp | .tdrop => true
  | _ => false

/-- A walker member: base of class 2 and a multiple of 64; the request joins the group's queue (13 R250).
One that changes the tree is issued once by a lockstep pair, as a returning atomic is (02 R47, log 9). -/
def walkOp (s : State) (i : Instr) (op : WalkOp) (d a : SReg) (reads : List SReg) (b : Word) (early : Option (Cause × Word))
    (words : Nat) (sw : Bool) : Out :=
  let t := s.me
  let base := s.reg a
  if t.anyPending (d :: a :: reads) then .next s
  else if s.engineWaits s.cur then .next (s.sendWrites s.cur)
  else match early with
  | some (.ill, _) => s.ill i
  | _ =>
    if addrClass base ≠ 2 ∨ (parseAddr s.cur.cell base).isNone then s.trap .addr base
    else if !isAligned base 64 then s.trap .align base
    else match early with
    | some (c, ev) => s.trap c ev
    | none =>
      let r : WalkReq := {
        op := op, cell := s.cur.cell, slot := s.cur.slot, uid := t.uid, d := d, dval := s.reg d, a := base, b := b,
        tau := t.tau, theta := t.theta, cmin := t.cmin, tmode := t.tmode, progIndex := t.progIndex,
        progValid := t.progValid, sup := t.sup, restarts := 0, version := 0#64, rlock := false, word0 := word0Of i
        since := s.tick }
      checkpointed s op.writes (fun s =>
        (s.updGroup (groupOf s.cur.cell) (fun g => { g with walkq := g.walkq ++ [r] })).park (.walker s.tick) words sw)

/-- An address of a key, query or walk block: class 0, 1 or 2, aligned. -/
def dataAddr (ea : Word) (al : Nat) : Option (Cause × Word) :=
  if 3 ≤ addrClass ea then some (.addr, ea) else if isAligned ea al then none else some (.align, ea)

/-- TNEW (13 R253): its control word. -/
def execTnew (d a : SReg) (b : Src) (sw : Bool) (s : State) : Out :=
  let v := s.src b
  let i : Instr := .tnew d a b sw
  let dim := ctlField v 0 16
  let ok := decide (1 ≤ dim ∧ dim ≤ 256) && decide (ctlField v 16 16 ≤ 256) && decide (ctlField v 32 32 ≠ 0)
  if s.inHandler then s.ill i
  else walkOp s i .tnew d a b.regs v (if ok then none else some (.ill, 0#64)) b.words sw
/-- TAPP (13 R255). -/
def execTapp (d a : SReg) (b : Src) (sw : Bool) (s : State) : Out :=
  let i : Instr := .tapp d a b sw
  if s.inHandler then s.ill i else walkOp s i .tapp d a b.regs (s.src b) (dataAddr (s.src b) 4) b.words sw
/-- TWALK (13 R257). -/
def execTwalk (d a : SReg) (b : Src) (sw : Bool) (s : State) : Out :=
  let i : Instr := .twalk d a b sw
  if s.inHandler then s.ill i else walkOp s i .twalk d a b.regs (s.src b) (dataAddr (s.src b) 32) b.words sw
/-- TSUM (13 R254). -/
def execTsum (d a : SReg) (b : Src) (sw : Bool) (s : State) : Out :=
  let i : Instr := .tsum d a b sw
  let early : Option (Cause × Word) := match s.blkCheck s.cur.cell (s.reg d) 16 16 s.me.lock with
    | .error e => some (e, s.reg d)
    | .ok _ => none
  if s.inHandler then s.ill i else walkOp s i .tsum d a b.regs (s.src b) early b.words sw
/-- TSTAT (13 R253). -/
def execTstat (d a : SReg) (sel : Fin 4) (sw : Bool) (s : State) : Out :=
  walkOp s (.tstat d a sel sw) (.tstat sel) d a [] 0#64 none 1 sw
/-- TDROP (13 R253). -/
def execTdrop (d a : SReg) (sw : Bool) (s : State) : Out :=
  let i : Instr := .tdrop d a sw
  if s.inHandler then s.ill i else walkOp s i .tdrop d a [] 0#64 none 1 sw

/-- TOPEN (13 R253). -/
def execTopen (a : SReg) (b : Src) (sw : Bool) (s : State) : Out :=
  let va := s.reg a
  let vb := s.src b
  if s.me.anyPending (a :: b.regs) then .next s
  else if ctlField vb 33 31 ≠ 0 then s.ill (.topen a b sw)
  else
    (s.upd s.cur (fun t =>
      { t with tau := va.setWidth 32, theta := va.extractLsb' 32 32, cmin := vb.setWidth 32, tmode := vb.getLsbD 32 })).finish
      b.words sw

/-! ### The lock protocol (13 R251) -/

/-- The permission of a member's accesses to its tree, which is read and written at the home copies of its pages (13 R251). -/
def WalkOp.perm (o : WalkOp) : Perm := if o.writes then .write else .readHome

/-- The request's class is closed for the accesses to its tree (01 R30). -/
def State.walkClosed (s : State) (r : WalkReq) : Bool :=
  s.blocked (s.strand r.id).dcls r.cell (s.hwLoc (r.a.extractLsb' 36 24).toNat (r.a.extractLsb' 0 36).toNat)

/-- The byte of WLOCK and VALID, its other bits kept. -/
def State.setFlags (s : State) (r : WalkReq) (wlock : Bool) (valid : Option Bool) : State :=
  let x := (s.treeBytes r.a 9 1).headD 0#8
  let x := (x &&& 0xFE#8) ||| (if wlock then 1#8 else 0#8)
  let x := match valid with
    | none => x
    | some v => (x &&& 0xFD#8) ||| (if v then 2#8 else 0#8)
  s.treeWrite r 9 [x]

def State.setReaders (s : State) (r : WalkReq) (n : Nat) : State := s.treeWrite r 10 (leBytes 2 n)

/-- The end of a request: locks given back, D written when there is a value, the cursor cleared, the strand released and the
late traps raised. -/
def State.endWalk (s : State) (g : Nat) (r : WalkReq) (v : Option Word) (prog : Option Nat) (lates : List LateTrap) :
    State :=
  let i := r.id
  let s := s.updGroup g (fun x => { x with running := none })
  let s := match v with
    | some v => s.writeReg i r.d v
    | none => s
  let s := match prog with
    | some n => s.setProg i n
    | none => match r.op with
      | .tapp | .twalk => s.endProg i
      | _ => s
  lates.foldl (fun (s : State) l => s.late i r.uid l) (s.complete i)

/-- Gives back the write lock or the read lock that a running request holds. -/
def State.unlock (s : State) (r : WalkReq) : State :=
  if r.op.writes then s.setFlags r false none
  else if r.rlock then s.setReaders r ((s.descAt r.a).readers - 1)
  else s

/-- A fault of a request is precise, because the strand is parked on it; a poisoned read before it is a late trap still. -/
def State.faultWalk (s : State) (g : Nat) (r : WalkReq) (c : Cause) (ev : Word) (lates : List LateTrap) : State :=
  let s := (s.updGroup g (fun x => { x with running := none })).trapAt r.id c (if c = .ill then r.word0 else ev)
  lates.foldl (fun (s : State) l => s.late r.id r.uid l) s

/-- D of TWALK (13 R258). -/
def walkResult (r : WalkReq) (count : Nat) (finished part stale bad : Bool) : Word :=
  BitVec.ofNat 64 (count + (if finished then 2 ^ 16 else 0) + (if part then 2 ^ 17 else 0) + (if stale then 2 ^ 18 else 0)
    + (if bad then 2 ^ 19 else 0) + 2 ^ 20 * r.restarts + (if r.rlock then 2 ^ 23 else 0))

/-- What D takes when tree memory reads poisoned: status 3, or BAD; TSUM's D is an address. -/
def WalkReq.poisoned (r : WalkReq) : Option Word :=
  match r.op with
  | .tsum => none
  | .twalk => some (walkResult r 0 false false false true)
  | _ => some 3#64

/-- The strand still waits in the instruction that made the request: no rollback of its pair has taken it back (02 R49). -/
def State.walkWaits (s : State) (r : WalkReq) : Bool :=
  (s.strand r.id).uid == r.uid && decide ((s.strand r.id).status = .parked (.walker r.since))

/-- WALKER_START (13 R250, R251): the next request reads the descriptor and waits for its lock, which it then holds. -/
def execWalkerStart (g : Nat) (s : State) : Out :=
  let x := s.group g
  match x.running, x.walkq with
  | none, r :: rest =>
    let take (s : State) (f : Group → Group) : State := s.updGroup g (fun x => f { x with walkq := rest })
    if !s.walkWaits r then .next (take s id)
    else match s.walkTree (r.who s) r.a r.op.perm [(0, 64)] [] with
    | .wait _ ask => .next (ask s)
    | .fault c ev s => .next ((take s id).faultWalk g r c ev [])
    | .ok (some l) s => .next ((take s id).endWalk g { r with rlock := false } ({ r with rlock := false } : WalkReq).poisoned none [l])
    | .ok none s =>
      let d := s.descAt r.a
      if d.wlock then .next s
      else
        let s := take s (fun x =>
          { x with
            running := some { r with version := BitVec.ofNat 64 d.version }
            wrlock := if r.rlock then countUp x.wrlock else x.wrlock })
        if r.op.writes then .next (s.setFlags r true none)
        else if r.rlock then .next (s.setReaders r (d.readers + 1))
        else .next s
  | _, _ => idle s

/-- The next attempt of a read whose check failed: a restart, and from the fourth on with the read lock (13 R251). -/
def State.restartWalk (s : State) (g : Nat) (r : WalkReq) : State :=
  let r := { r with restarts := r.restarts + 1, rlock := decide (4 ≤ r.restarts + 1) }
  s.updGroup g (fun x => { x with running := none, walkq := r :: x.walkq, wrestart := countUp x.wrestart })

/-- The check of a read without the lock fails: an append is under way, or has been since it read VERSION. -/
def WalkReq.upset (r : WalkReq) (d : Desc) : Bool :=
  !r.op.writes && !r.rlock && (d.wlock || BitVec.ofNat 64 d.version != r.version)

/-! ### TSUM, TSTAT (13 R253, R254) -/

def tstatValue (d : Desc) (sel : Fin 4) : Nat :=
  match sel.val with
  | 0 => d.keys
  | 1 => d.version
  | 2 => d.used + 2 ^ 32 * d.capn
  | _ => d.height + (if d.valid then 256 else 0) + (if d.wlock then 512 else 0) + 65536 * d.readers

/-- The bytes TSUM writes for a node; nothing of the node is read when its index is out of range. -/
def sumBytes (d : Desc) (n : Option Node) : List Byte :=
  match n with
  | none => leBytes 16 0
  | some n =>
    let head := leBytes 4 n.count ++ leBytes 4 n.radius.toNat ++ leBytes 1 n.kind ++ leBytes 1 n.fill ++ leBytes 6 0
    if n.kind = 0 ∨ n.count = 0 then head
    else head ++ f32Bytes ((n.sums.take (d.d + d.vd)).map (fun x => f32Mean x n.count))

/-- TSUM at its instant. Of a tree with VALID = 0 it reads USED and the nodes as they stand, as no status of it says that the tree
is gone; of a descriptor or a node with a nonzero field that must be zero it writes what it writes of an index out of range (DESIGN
CHOICE, log 62). -/
def State.runTsum (s : State) (g : Nat) (r : WalkReq) (d : Desc) : Eng State :=
  let t : Tree := ⟨d, [], []⟩
  let inRange := decide (r.b.toNat < d.used) && s.descZero r.a
  let node := if inRange then some (s.node r.a t r.b.toNat) else none
  let out := sumBytes d (node.filter (fun n => !n.nonzero))
  match s.blkCheck r.cell (s.readReg r.id r.d) out.length 16 (s.strand r.id).lock with
  | .error e => .fault e (s.readReg r.id r.d) s
  | .ok off =>
    let k := if out.length = 16 then 0 else d.d + d.vd
    (s.walkTree (r.who s) r.a r.op.perm (if inRange then [(d.nodeOff r.b.toNat, 64 + 4 * k)] else []) []).bind
      (fun late s =>
        match late with
        | some l => .ok ((s.unlock r).endWalk g r none none [l]) s
        | none =>
          match s.takeTurns r.cell ((spansOf (BitVec.ofNat 64 off) out).map (fun u => ⟨.local, r.cell, u.ea.toNat⟩)) with
          | none => .wait false id
          | some s =>
            let (bad, s) := s.writeLocal r.cell off out
            let ls := bad.map (fun b => poisonTrap r.cell b (s.readReg r.id r.d + BitVec.ofNat 64 (b.addr - off)))
            .ok ((s.unlock r).endWalk g r none none (ls.take 1)) s)

/-! ### TNEW, TDROP (13 R253) -/

/-- NSZ (08 R159). -/
def nodeSize (dim : Nat) : Nat := (64 + 68 * dim + 63) / 64 * 64

def State.runTnew (s : State) (g : Nat) (r : WalkReq) (d : Desc) : Eng State :=
  let dim := ctlField r.b 0 16
  let vd := ctlField r.b 16 16
  let capn := ctlField r.b 32 32
  let nsz := nodeSize (dim + vd)
  let h := s.handle (r.a.extractLsb' 36 24).toNat
  let off := (r.a.extractLsb' 0 36).toNat
  if h.limit.toNat + 1 < off + 64 + nsz * capn then .fault .addr r.a s
  else if d.valid then .ok ((s.unlock r).endWalk g r (some 5#64) none []) s
  else
    let x : Desc := ⟨dim, vd, 0, 1, false, true, 0, nsz, capn, 1, noNode, 0, 0⟩
    let n : Node := ⟨0, 0#32, noNode, 1, 0, List.replicate 8 0, 0, List.replicate (dim + vd) 0#32, [], 0, true, []⟩
    let ws := n.writes (dim + vd) 64 ++ [(0, x.bytes)]
    (s.walkTree (r.who s) r.a .write [] (spansOfWrites ws)).bind (fun late s =>
      match late with
      | some l => .ok ((s.unlock r).endWalk g r (some 3#64) none [l]) s
      | none => .ok ((s.treeWrites r ws).endWalk g r (some 0#64) none []) s)

def State.runTdrop (s : State) (g : Nat) (r : WalkReq) (d : Desc) : Eng State :=
  if !d.valid then .ok ((s.unlock r).endWalk g r (some 2#64) none []) s
  else if !s.descZero r.a then .ok ((s.unlock r).endWalk g r (some 3#64) none []) s
  else
    let s' := (s.treeWrites r [(0x14, leBytes 4 0 ++ leBytes 4 noNode), (0x28, leBytes 8 0)]).setFlags r false (some false)
    .ok (s'.endWalk g r (some 0#64) none []) s

/-! ### TAPP (13 R255, R256) -/

/-- The path from the root to a leaf, nearest child at each internal node: node and child position; none at a bad node or one
whose memory is poisoned. With it the tree, whose reads are noted. -/
def State.descend (s : State) (base : Word) (key : List F32) : Nat → Tree → Nat → List (Nat × Nat) →
    Tree × Option (List (Nat × Nat))
  | 0, t, _, _ => (t, none)
  | fuel + 1, t, n, path =>
    let t := t.touch n 0
    let x := s.node base t n
    if x.bad t.desc.used || s.treeBad base (t.desc.nodeOff n, 64) then (t, none)
    else if x.kind = 1 then (t, some (path ++ [(n, 0)]))
    else
      let kids := (x.child.take x.fill).zipIdx
      let t := kids.foldl (fun (t : Tree) k => t.touch k.1 t.desc.d) t
      let best := kids.foldl (fun (b : Option (F32 × Nat × Nat)) k =>
        let v := f32Sq key ((s.node base t k.1).cen t.desc.d)
        match b with
        | none => some (v, k.1, k.2)
        | some (w, _, _) => if f32Lt v w then some (v, k.1, k.2) else b) none
      match best with
      | none => (t, none)
      | some (_, c, p) =>
        if kids.any (fun k => s.treeBad base (t.desc.nodeOff k.1, 64 + 4 * t.desc.d)) then (t, none)
        else s.descend base key fuel t c (path ++ [(n, p)])

/-- The full nodes from the leaf upwards. -/
def State.fullRun (s : State) (base : Word) (t : Tree) : List (Nat × Nat) → Nat
  | [] => 0
  | (n, _) :: up =>
    let x := s.node base t n
    if (x.kind = 1 ∧ x.fill = 16) ∨ (x.kind = 2 ∧ x.fill = 8) then 1 + s.fullRun base t up else 0

/-- The nodes on the free list, up to a bound. -/
def State.freeNodes (s : State) (base : Word) (t : Tree) : Nat → Nat → List Nat
  | 0, _ => []
  | k + 1, n => if n = noNode then [] else n :: s.freeNodes base t k (s.node base t n).parent

/-- Allocates a node: FREE, or USED. -/
def State.allocNode (s : State) (base : Word) (t : Tree) : Nat × Tree :=
  let d := t.desc
  if d.free ≠ noNode then
    (d.free, { t.touch d.free 0 with desc := { d with free := (s.node base t d.free).parent } })
  else (d.used, { t.touch d.used 0 with desc := { d with used := d.used + 1 } })

/-- The update of a path node (Apply). -/
def Node.append (d : Nat) (key rec' : List F32) (n : Node) : Node :=
  let sums := (n.sums.zip rec').map (fun p => f32Add p.1 p.2)
  let m := { n.changed with count := (n.count + 1) % 2 ^ 32, sums := sums, resummed := true }
  let radius :=
    if n.count = 0 then 0#32
    else f32Max (f32Add n.radius (f32Dist (n.cen d) (m.cen d))) (f32Dist key (m.cen d))
  { m with radius := radius }

/-- Members in the order of their points in the split dimension, ties by index. -/
def insertMember (x : F32 × Nat) : List (F32 × Nat) → List (F32 × Nat)
  | [] => [x]
  | y :: l => if f32Lt x.1 y.1 then x :: y :: l else y :: insertMember x l

def sortMembers (pts : List F32) : List Nat :=
  (pts.zipIdx.foldl (fun (l : List (F32 × Nat)) (e : F32 × Nat) => insertMember e l) []).map Prod.snd

/-- The range of a list of values, rounded. -/
def f32Range : List F32 → F32
  | [] => 0#32
  | x :: xs =>
    f32Sub (xs.foldl (fun (m : F32) y => if f32Lt m y then y else m) x)
      (xs.foldl (fun (m : F32) y => if f32Lt y m then y else m) x)

/-- The order of the members after a split: sorted along the dimension of the largest range, the lowest on a tie. -/
def splitOrder (d : Nat) (points : List (List F32)) : List Nat :=
  let col (j : Nat) : List F32 := points.map (fun p => p.getD j 0#32)
  let best := (List.range d).foldl (fun (b : Option (F32 × Nat)) j =>
    let v := f32Range (col j)
    match b with
    | none => some (v, j)
    | some (w, _) => if f32Lt w v then some (v, j) else b) none
  match best with
  | none => List.range points.length
  | some (_, j) => sortMembers (col j)

/-- Sums of records in member order. -/
def sumAll (dim : Nat) (xs : List (List F32)) : List F32 :=
  xs.foldl (fun (acc : List F32) x => (acc.zip x).map (fun p => f32Add p.1 p.2)) (List.replicate dim 0#32)

def f32Largest : List F32 → F32
  | [] => 0#32
  | x :: xs => xs.foldl f32Max x

/-- A leaf of given entries, recomputed. -/
def Node.asLeaf (d dim : Nat) (es : List (List F32)) (n : Node) : Node :=
  let m : Node := { n.changed with
    kind := 1, fill := es.length, count := es.length, sums := sumAll dim es, child := List.replicate 8 0
    entries := es ++ n.entries.drop es.length, resummed := true, dirty := List.range es.length }
  { m with radius := f32Largest (es.map (fun e => f32Dist (e.take d) (m.cen d))) }

/-- An internal node of given children, recomputed. -/
def Node.asInternal (d dim : Nat) (cs : List (Nat × Node)) (n : Node) : Node :=
  let m : Node := { n.changed with
    kind := 2, fill := cs.length, count := (cs.map (fun c => c.2.count)).sum % 2 ^ 32
    sums := sumAll dim (cs.map (fun c => c.2.sums))
    child := cs.map Prod.fst ++ List.replicate (8 - cs.length) 0
    resummed := true }
  { m with radius := f32Largest (cs.map (fun c => f32Add (f32Dist (c.2.cen d) (m.cen d)) c.2.radius)) }

/-- Node n, whose members have just been divided, has a new right-hand neighbour m: it enters the parent, which may split
in its turn; above the root a new root is made. up is the rest of the path, parents first. Each change of a node counts in its
SEQ: the split, a new PARENT, a new child (08 R160, log 18). -/
def State.insertNode (s : State) (base : Word) (dim : Nat) : Tree → Nat → Nat → List (Nat × Nat) → Tree
  | t, n, m, [] =>
    let (r, t) := s.allocNode base t
    let d := t.desc.d
    let a := { (s.node base t n).changed with parent := r }
    let b := { s.node base t m with parent := r }
    let root := { (s.node base t r).asInternal d dim [(n, a), (m, b)] with parent := noNode }
    let t := ((t.put n a).put m b).put r root
    { t with desc := { t.desc with root := r, height := t.desc.height + 1 } }
  | t, _, m, (p, pos) :: up =>
    let d := t.desc.d
    let x := s.node base t p
    let kids := x.child.take x.fill
    let kids := kids.take (pos + 1) ++ [m] ++ kids.drop (pos + 1)
    if kids.length ≤ 8 then
      t.put p { x.changed with child := kids ++ List.replicate (8 - kids.length) 0, fill := kids.length }
    else
      let t := kids.foldl (fun (t : Tree) c => t.touch c t.dim) t
      let order := splitOrder d (kids.map (fun c => (s.node base t c).cen d))
      let sorted := order.map (fun j => kids.getD j 0)
      let left := sorted.take 5
      let right := sorted.drop 5
      let (q, t) := s.allocNode base t
      let t := right.foldl (fun (t : Tree) c => t.put c { (s.node base t c).changed with parent := q }) t
      let withNode (c : Nat) : Nat × Node := (c, s.node base t c)
      let t := t.put p (x.asInternal d dim (left.map withNode))
      let t := t.put q { (s.node base t q).asInternal d dim (right.map withNode) with parent := x.parent }
      s.insertNode base dim t p q up

/-- The append itself, over the tree as it stands: what it changes. path is root first. -/
def State.appendTree (s : State) (base : Word) (t : Tree) (path : List (Nat × Nat)) (record : List F32) : Tree :=
  let d := t.desc.d
  let dim := d + t.desc.vd
  let key := record.take d
  let t := path.foldl (fun (t : Tree) e => (t.touch e.1 dim).put e.1 ((s.node base t e.1).append d key record)) t
  match path.reverse with
  | [] => t
  | (leaf, _) :: up =>
    let x := s.node base t leaf
    let t :=
      if x.fill < 16 then
        t.put leaf { x with entries := listSet x.entries x.fill record, fill := x.fill + 1, dirty := [x.fill] }
      else
        let t := t.touchEntries leaf
        let es := x.entries ++ [record]
        let order := splitOrder d (es.map (fun e => e.take d))
        let sorted := order.map (fun j => es.getD j [])
        let (q, t) := s.allocNode base t
        let t := t.put leaf (x.asLeaf d dim (sorted.take 9))
        let t := t.put q { (s.node base t q).asLeaf d dim (sorted.drop 9) with parent := x.parent }
        s.insertNode base dim t leaf q up
    let e := t.desc
    { t with desc := { e with version := (e.version + 1) % 2 ^ 64, keys := (e.keys + 1) % 2 ^ 64 } }

/-- What an append writes: the changed nodes, and the descriptor's fields that it changes. -/
def Tree.writes (t : Tree) : List (Nat × List Byte) :=
  t.changed.flatMap (fun e => e.2.writes t.dim (t.desc.nodeOff e.1))
    ++ [(4, leBytes 4 t.desc.root ++ leBytes 1 t.desc.height), (0x14, leBytes 4 t.desc.used ++ leBytes 4 t.desc.free),
        (0x20, leBytes 8 t.desc.version ++ leBytes 8 t.desc.keys)]

/-- TAPP at its instant: statuses 2, 4, 3, 1 in that order, then every write together. -/
def State.runTapp (s : State) (g : Nat) (r : WalkReq) (d : Desc) : Eng State :=
  let stop (s : State) (v : Nat) (ls : List LateTrap) : Eng State :=
    .ok ((s.unlock r).endWalk g r (some (BitVec.ofNat 64 v)) none ls) s
  let dim := d.d + d.vd
  if !d.valid then stop s 2 []
  else if !s.descZero r.a then stop s 3 []
  else
    (s.walkRead (r.who s) r.b (4 * dim)).bind (fun x s =>
      let record := f32s dim x.1
      let late := x.2.toList
      let fault (c : Cause) (ev : Word) (s : State) : Eng State := .ok ((s.unlock r).faultWalk g r c ev late) s
      Eng.onFault (k := fault) <|
      if !record.all f32Finite then stop s 4 late
      else
        let (t, path) := s.descend r.a (record.take d.d) 8 ⟨d, [], []⟩ d.root []
        let up := (path.getD []).reverse
        let f := s.fullRun r.a t up
        let whole := decide (f = up.length)
        let need := if whole ∧ 0 < f then f + 1 else f
        let free := s.freeNodes r.a t need d.free
        let t := free.foldl (fun (t : Tree) n => t.touch n 0) t
        (s.walkTree (r.who s) r.a .write t.accs []).bind (fun bad s =>
          match bad, path with
          | some l, _ => stop s 3 (late ++ [l])
          | none, none => stop s 3 late
          | none, some path =>
            if free.length + (d.capn - d.used) < need ∨ (whole ∧ 0 < f ∧ 8 ≤ d.height) then stop s 1 late
            else
              let t := s.appendTree r.a { t with accs := [] } path record
              (s.walkTree (r.who s) r.a .write t.accs (spansOfWrites t.writes)).bind (fun bad s =>
                match bad with
                | some l => stop s 3 (late ++ [l])
                | none => .ok (((s.treeWrites r t.writes).unlock r).endWalk g r (some 0#64) none late) s)))

/-! ### TWALK (13 R257-R259) -/

/-- The cursor of an entry: child positions at depths 1 to 7, the depth, the key position. -/
structure Cursor where
  pos : List Nat
  key : Nat
  deriving DecidableEq, Repr

def Cursor.depth (c : Cursor) : Nat := c.pos.length

def posBits : Nat → List Nat → Nat
  | _, [] => 0
  | i, p :: ps => p * 2 ^ (3 * i) + posBits (i + 1) ps

/-- PROG.INDEX of a cursor (13 R259). -/
def Cursor.index (c : Cursor) (version : Nat) : Nat :=
  posBits 0 c.pos + c.depth * 2 ^ 21 + c.key * 2 ^ 24 + version % 2 ^ 12 * 2 ^ 28

def Cursor.ofIndex (n : Nat) : Cursor :=
  ⟨(List.range (n / 2 ^ 21 % 8)).map (fun i => n / 2 ^ (3 * i) % 8), n / 2 ^ 24 % 16⟩

/-- An emit entry (08 R161). -/
def emitEntry (node kslot : Nat) (key : Bool) (depth : Nat) : Nat :=
  node + 2 ^ 32 * kslot + (if key then 2 ^ 36 else 0) + 2 ^ 40 * depth

/-- A walk under way: the room left in the buffer, the entries so far (newest first), the cursor of the entry that did not
fit, and whether a bad node was met. -/
structure WalkAcc where
  tree : Tree
  room : Nat
  out : List Nat
  full : Option Cursor
  bad : Bool

def WalkAcc.stopped (a : WalkAcc) : Bool := a.full.isSome || a.bad

def WalkAcc.emit (a : WalkAcc) (v : Nat) (c : Cursor) : WalkAcc :=
  if a.stopped then a
  else if a.out.length < a.room then { a with out := v :: a.out } else { a with full := some c }

/-- What the opening test reads of the registers and the query (13 R257). -/
structure Opening where
  geo : Bool
  tau : F32
  theta : F32
  cmin : Nat
  query : List F32
  norm : F32

def Opening.test (o : Opening) (d : Nat) (n : Node) : Bool :=
  if o.geo then f32Le n.radius (f32Mul o.theta (f32Dist o.query (n.cen d)))
  else decide (o.cmin ≤ n.count) && f32Le (f32Mul o.norm n.radius) o.tau

/-- visit(n, depth), from a cursor when the walk resumes. A node below the eighth level is bad (log 18). -/
def State.visit (s : State) (base : Word) (o : Opening) : Nat → WalkAcc → Nat → List Nat → Option Cursor → WalkAcc
  | 0, a, _, _, _ => { a with bad := true }
  | fuel + 1, a, n, pos, cur =>
    if a.stopped then a
    else
      let depth := pos.length
      let a := { a with tree := a.tree.touch n 0 }
      let x := s.node base a.tree n
      if x.bad a.tree.desc.used || s.treeBad base (a.tree.desc.nodeOff n, 64) then { a with bad := true }
      else if x.kind = 1 then
        let first := match cur with | some c => c.key | none => 0
        ((List.range x.fill).drop first).foldl (fun (a : WalkAcc) k => a.emit (emitEntry n k true depth) ⟨pos, k⟩) a
      else
        let first := match cur with | some c => c.pos.getD depth 0 | none => 0
        (((x.child.take x.fill).zipIdx).drop first).foldl (fun (a : WalkAcc) (e : Nat × Nat) =>
          if a.stopped then a
          else
            let (ch, p) := e
            let here := pos ++ [p]
            let cur' : Option Cursor := if p = first then cur else none
            let through := match cur' with
              | some c => decide (depth + 1 < c.depth) || decide (0 < c.key)
              | none => false
            if through then s.visit base o fuel a ch here cur'
            else
              let k := if o.geo then a.tree.desc.d else 0
              let a := { a with tree := a.tree.touch ch k }
              if s.treeBad base (a.tree.desc.nodeOff ch, 64 + 4 * k) then { a with bad := true }
              else if o.test a.tree.desc.d (s.node base a.tree ch) then a.emit (emitEntry ch 0 false (depth + 1)) ⟨here, 0⟩
              else s.visit base o fuel a ch here none) a

/-- The fields of a walk block. -/
structure WalkBlock where
  q : Word
  e : Word
  cap : Nat
  fresh : Bool

def walkBlock (b : List Byte) : Option WalkBlock :=
  let f (o n : Nat) : Nat := leNat ((b.drop o).take n)
  if f 0x10 4 = 0 ∨ 6144 < f 0x10 4 ∨ 1 < f 0x14 4 ∨ f 0x18 8 ≠ 0 then none
  else some ⟨BitVec.ofNat 64 (f 0 8), BitVec.ofNat 64 (f 8 8), f 0x10 4, f 0x14 4 == 1⟩

/-- A walk that a save stops at an entry boundary: D and PROG are written, the lock is given back, and the strand is to issue it
again (13 R259). -/
def State.partWalk (s : State) (g : Nat) (r : WalkReq) (v : Word) (prog : Nat) (lates : List LateTrap) : State :=
  let s := ((s.unlock r).updGroup g (fun x => { x with running := none })).writeReg r.id r.d v
  let s := (s.setProg r.id prog).upd r.id (fun t => { t with status := .ready })
  lates.foldl (fun (s : State) l => s.late r.id r.uid l) s

/-- TWALK at its instant; a save lets it write at most `limit` entries more. -/
def State.runTwalk (s : State) (g : Nat) (r : WalkReq) (d : Desc) (limit : Option Nat) : Eng State :=
  let w := r.who s
  (s.walkRead w r.b 32).bind (fun blk s =>
    let late := blk.2.toList
    let faultAfter (ls : List LateTrap) (c : Cause) (ev : Word) (s : State) : Eng State := .ok ((s.unlock r).faultWalk g r c ev ls) s
    let fault (s : State) (c : Cause) (ev : Word) : Eng State := faultAfter late c ev s
    match walkBlock blk.1 with
    | none => fault s .ill r.word0
    | some b =>
      match s.blkCheck r.cell b.e (8 * b.cap) 8 (s.strand r.id).lock with
      | .error e => fault s e b.e
      | .ok off =>
        match dataAddr b.q 4 with
        | some (c, ev) => fault s c ev
        | none =>
          let finish (s : State) (v : Word) (prog : Option Nat) (ls : List LateTrap) : Eng State :=
            .ok ((s.unlock r).endWalk g r (some v) prog ls) s
          let resume := r.progValid && !b.fresh
          let part := resume && r.dval.getLsbD 17
          let e0 := if part then Nat.min (ctlField r.dval 0 16) b.cap else 0
          if !d.valid || !s.descZero r.a then finish s (walkResult r 0 false false false true) none late
          else if resume && decide (r.progIndex.toNat / 2 ^ 28 % 2 ^ 12 ≠ d.version % 2 ^ 12) then
            finish s (walkResult r 0 false false true false) none late
          else
            Eng.onFault (k := faultAfter late) <|
            (s.walkRead w b.q (4 * d.d)).bind (fun q s =>
              Eng.onFault (k := faultAfter (late ++ q.2.toList)) <|
              let query := f32s d.d q.1
              let o : Opening := ⟨r.tmode, r.tau, r.theta, r.cmin.toNat, query,
                f32Sqrt (f32Sq query (List.replicate d.d 0#32))⟩
              let room := match limit with
                | none => b.cap - e0
                | some n => Min.min n (b.cap - e0)
              let a0 : WalkAcc := ⟨⟨d, [], []⟩, room, [], none, false⟩
              let a := if decide (d.used ≤ d.root) then { a0 with bad := true }
                else s.visit r.a o 8 a0 d.root [] (if resume then some (Cursor.ofIndex r.progIndex.toNat) else none)
              (s.walkTree w r.a r.op.perm a.tree.accs []).bind (fun bad s =>
                let out := a.out.reverse
                let places := (spansOf (BitVec.ofNat 64 (off + 8 * e0)) (out.flatMap (leBytes 8))).map (fun u => ⟨.local, r.cell, u.ea.toNat⟩)
                match s.takeTurns r.cell places with
                | none => .wait false id
                | some s =>
                let (wb, s) := s.writeLocal r.cell (off + 8 * e0) (out.flatMap (leBytes 8))
                let ls := late ++ q.2.toList ++ bad.toList
                  ++ (wb.map (fun x => poisonTrap r.cell x (b.e + BitVec.ofNat 64 (x.addr - off)))).take 1
                let n := e0 + out.length
                if bad.isSome || a.bad then finish s (walkResult r n false false false true) none ls
                else match a.full with
                | some c =>
                  if e0 + room < b.cap then
                    .ok (s.partWalk g r (walkResult r n false true false false) (c.index d.version) ls) s
                  else finish s (walkResult r n false false false false) (some (c.index d.version)) ls
                | none => finish s (walkResult r n true false false false) none ls)))

/-- What the running operation comes to at its instant; limit is a save's. -/
def State.walkEnd (s : State) (g : Nat) (r : WalkReq) (limit : Option Nat) : Eng State :=
  let d := s.descAt r.a
  if r.op.writes && decide (d.readers ≠ 0) then .wait false id
  else if r.upset d then .ok (s.restartWalk g r) s
  else
    match r.op with
      | .tnew => s.runTnew g r d
      | .tdrop => s.runTdrop g r d
      | .tapp => s.runTapp g r d
      | .twalk => s.runTwalk g r d limit
      | .tsum => s.runTsum g r d
      | .tstat sel =>
        let v := if s.descZero r.a then tstatValue d sel else 0
        .ok ((s.unlock r).endWalk g r (some (BitVec.ofNat 64 v)) none []) s

/-- The running operation takes effect at one instant, or waits. -/
def State.runWalk (s : State) (g : Nat) (r : WalkReq) (limit : Option Nat) : State :=
  match s.walkEnd g r limit with
  | .ok t _ => t
  | .wait _ ask => ask s
  | .fault c ev t => (t.unlock r).faultWalk g r c ev []

/-- WALKER_COMPLETION (13 R251). A request whose strand a rollback has taken back ends without effect; one that changes the tree
for a lockstep pair ends in a checkpoint, so that no rollback makes it again. -/
def execWalkerCompletion (g : Nat) (s : State) : Out :=
  match (s.group g).running with
  | none => idle s
  | some r =>
    if s.walkClosed r then idle s
    else if !s.walkWaits r then .next ((s.unlock r).updGroup g (fun x => { x with running := none }))
    else if r.op.writes && s.mismatched r.id then .next (s.checkpoint r.id)
    else
      let t := s.runWalk g r none
      .next (if r.op.writes && !t.walkWaits r then t.checkpoint r.id else t)

/-- A save that comes while a walk waits at its start, for a page or a turn, stops it there: D with PART and the entries of before,
PROG at the cursor that the issue began with (13 R259, 17 R318). -/
def State.partAtStart (s : State) (g : Nat) (r : WalkReq) : State :=
  let e0 := if r.progValid && r.dval.getLsbD 17 then ctlField r.dval 0 16 else 0
  let prog := if r.progValid then r.progIndex.toNat else (Cursor.mk [] 0).index r.version.toNat
  s.partWalk g r (walkResult r e0 false true false false) prog []

/-- A save stops a walk at an entry boundary: after the most entries, up to a free value, that it can write with no wait. -/
def State.stopTwalk (s : State) (g : Nat) (r : WalkReq) : State :=
  ((List.range (Nat.min (Config.walkPhase s.tick) 6144 + 1)).reverse.findSome? (fun n =>
    match s.walkEnd g r (some n) with
    | .wait _ _ => none
    | .ok t _ => some t
    | .fault c ev t => some ((t.unlock r).faultWalk g r c ev []))).getD (s.partAtStart g r)

/-- An append in its apply phase, which a save waits for; which phase it is in is a free value. -/
def WalkReq.applies (r : WalkReq) (tick : Nat) : Bool := r.op == .tapp && decide (Config.walkPhase tick ≠ 0)

/-- A save stops a running operation where it stands: a lock is given back in time only while its class is open. -/
def State.walkStops (s : State) (r : WalkReq) : Bool := !r.applies s.tick && !s.walkClosed r

/-- A save meets the walker's requests of a team (13 R255, R259, 17 R318, R319): those that have not started are withdrawn; an append
in its descend or check phase stops, and one in its apply phase goes on; a walk stops at an entry boundary; the others are issued
again from the start. Which phase or entry it is in is a free value (log 18). -/
def State.stopWalker (s : State) (cs : List Nat) (g : Nat) : State :=
  let stop (s : State) (r : WalkReq) : State :=
    let s := if r.op = .tapp then s.setProg r.id 0 else s
    s.upd r.id (fun t => { t with status := .ready })
  let gone := (s.group g).walkq.filter (fun r => cs.contains r.cell)
  let s := gone.foldl (fun (s : State) r => if s.walkWaits r then stop s r else s) s
  let s := s.updGroup g (fun x => { x with walkq := x.walkq.filter (fun r => !cs.contains r.cell) })
  match (s.group g).running with
  | some r =>
    if !cs.contains r.cell || !s.walkWaits r || !s.walkStops r then s
    else if r.op = .twalk then s.stopTwalk g r
    else stop ((s.unlock r).updGroup g (fun x => { x with running := none })) r
  | none => s

end Sys2Proof.Machine
end

