-- ==== Sys2Proof/Machine/Strands.lean ====
section
/-! DEFINITION. The life of a strand: spawning, joining, ending and moving, the deque and stealing, launching from the
device, and the end of teams and grids (02 R35-R43; 14 R270-R278; 08 R155). -/

namespace Sys2Proof.Machine

open Sys2Proof

/-! ### Teams -/

/-- The cells of a team, in team cell order (02 R37). -/
def cellsOf (g : Nat) (r : BindRec) : List Nat :=
  (List.range (r.hm1.toNat + 1)).flatMap (fun y => (List.range (r.wm1.toNat + 1)).flatMap (fun x =>
    (List.range 16).map (fun k => g * 4096 + (r.y0.toNat + y) * 256 + (r.x0.toNat + x) * 16 + k)))

/-- The tiles of a team. -/
def tilesOf (g : Nat) (r : BindRec) : List Nat :=
  (List.range (r.hm1.toNat + 1)).flatMap (fun y => (List.range (r.wm1.toNat + 1)).map (fun x =>
    g * 256 + (r.y0.toNat + y) * 16 + (r.x0.toNat + x)))

/-- The number in the slot table of slot k of a cell (08 R156). -/
def slotEntryIx (c : Nat) (k : Nat) : Nat := 4 * (c % 4096) + k

/-- The cells a team occupies: of a lockstep team the twins too (02 R47). -/
def occupies (g : Nat) (r : BindRec) : List Nat :=
  if r.lock then cellsOf g r ++ (cellsOf g r).map twinOfCell else cellsOf g r

/-- Every slot of the team has had its strand created: V is set in each. -/
def State.allBound (s : State) (g rec : Nat) (r : BindRec) : Bool :=
  (cellsOf g r).all (fun c => (List.range (r.sm1.toNat + 1)).all (fun k =>
    let e := (s.sg g).slots.get SlotEntry.zero (slotEntryIx c k)
    e.v && e.record.toNat == rec))

/-- A packet that carries a strand or a child record. -/
def Body.carriesStrand : Body → Bool
  | .go _ | .goReturn _ _ | .goAccept _ _ | .goResend _ | .steal .. => true
  | _ => false

/-- Every strand and child of the team has ended (02 R40): a strand ends only after its hires, copies and launches. -/
def State.teamDone (s : State) (g rec : Nat) (r : BindRec) : Bool :=
  let cs := cellsOf g r
  s.allBound g rec r
    && cs.all (fun c =>
      let x := s.cell c
      x.deque.isEmpty && x.acnt == 0 && x.goQueue.isEmpty && x.stealing.isEmpty
        && (List.finRange 5).all (fun (k : Fin 5) => k == 4 || decide ((x.strands[k] : Strand).status = .free)))
    && !s.net.any (fun f => f.body.carriesStrand && cs.contains f.srcCell)

/-- A cell that its team leaves: its slots are Free, and what the team had under way there is gone. Registers and tables stay
as they are until a bind (00 R14, 06 R111, 08 R149, R152). -/
def Cell.vacate (x : Cell) : Cell :=
  { x with
    strands := x.strands.map (fun t => { t.ended with uid := 0 })
    bind := none
    held := []
    inbox := []
    goQueue := []
    bounced := []
    ranks := []
    monitors := []
    deque := []
    acnt := 0
    ahead := 0
    copies := Vector.replicate 8 none
    near := []
    blk := []
    ranking := []
    yields := []
    stealing := [] }

/-- A cell at a bind: everything reads zero but the errors, the counters and the clocks of the part (00 R14, 06 R123, 08 R165). -/
def Cell.fresh (x : Cell) : Cell :=
  { Cell.zero with
    berr := x.berr
    bankPort := x.bankPort
    bankAt := x.bankAt
    eccinj := x.eccinj
    msgdisc := x.msgdisc
    hlong := x.hlong
    gobounce := x.gobounce
    lastVfp := x.lastVfp
    sdiv := x.sdiv
    vdiv := x.vdiv }

/-- Requests and packets among the cells of a team that leaves them. -/
def Flight.within (cs : List Nat) (f : Flight) : Bool := cs.contains f.srcCell && (f.dstCell.any cs.contains)

/-- A waiter for a page in a set of cells. -/
def Agent.within (cs : List Nat) : Agent → Bool
  | .slot i => cs.contains i.cell
  | .copy c _ => cs.contains c
  | .hire t _ _ | .hireWrite t _ _ => cs.any (fun c => tileOf c == t)
  | _ => false

/-- The team leaves its cells, hubs and slots: queue entries, accumulator slots and walker requests are freed (17 R320, 18
R348). A team that ends with its last strand (02 R40) leaves at once, so that a handler still running ends and buffered messages
are discarded with it (DESIGN CHOICE, log 47). -/
def State.releaseTeam (s : State) (g rec : Nat) (r : BindRec) : State :=
  let cs := occupies g r
  let s := { s with
    net := s.net.filter (fun f => !f.within cs)
    reductions := s.reductions.filter (fun (x : Reduction) => !cs.contains x.cell)
    pageWaits := s.pageWaits.filter (fun (w : PageWait) => !w.who.within cs) }
  let s := cs.foldl (fun (s : State) c => s.updCell c Cell.vacate) s
  let s := (tilesOf g r).foldl (fun (s : State) t =>
    (s.updHub t (fun h => { h with hires := [], owners := freeOwners (fun _ => true) h.owners })).dropLicence t) s
  let s := ((tilesOf g r).map (· / 16)).foldl (fun (s : State) k => s.updGroup k (fun x =>
    { x with walkq := x.walkq.filter (fun q => !cs.contains q.cell) })) s
  s.updSg g (fun h => { h with
    recs := h.recs.set rec BindRec.zero
    slots := h.slots.map (fun (e : Nat × SlotEntry) => if e.2.v && e.2.record.toNat == rec then (e.1, SlotEntry.zero) else e) })

/-! ### The end of a grid (02 R40, 14 R278, 16 R301) -/

/-- The status of a command that waits for a grid. -/
def Stream.endCmd (x : Stream) (cmd : Nat) (status : BitVec 8) : Stream :=
  { x with cmds := x.cmds.map (fun (c : Cmd) => if c.index = cmd then { c with done := true, status := status } else c) }

/-- Tells the launcher of a grid that has ended: a resident parent's token, or the command. -/
def State.notifyGrid (s : State) (key : Nat) : State :=
  let x := s.grid key
  if !x.finished then s
  else match x.notify with
  | .none => s
  | .token i uid d =>
    if (s.strand i).uid = uid ∧ (s.strand i).status ≠ .free ∧ !s.saving i.cell 3 then
      (s.endToken i uid d x.status.toNat).updGrid key (fun x => { x with notify := .none })
    else s
  | .command stream cmd =>
    let s := { s with streams := (match listGet s.streams stream with
      | none => s.streams
      | some y => listSet s.streams stream (y.endCmd cmd x.status)) }
    s.updGrid key (fun x => { x with notify := .none })

/-- A team of a grid has ended; with the last one the grid ends. -/
def State.teamEnded (s : State) (key : Nat) : State :=
  let s := s.updGrid key (fun x => { x with ended := x.ended + 1 })
  if (s.grid key).ended < (s.grid key).teams then s
  else (s.updGrid key (fun x => { x with finished := true })).notifyGrid key

/-- The team of a cell ends when its last strand has ended. -/
def State.checkTeam (s : State) (c : Nat) : State :=
  match (s.cell c).bind with
  | none => s
  | some (g, rec) =>
    let r := s.bindRec g rec
    if s.teamDone g rec r then (s.releaseTeam g rec r).teamEnded r.gridKey else s

/-- The bound teams with a property: hub and record. -/
def State.teamsWhere (s : State) (p : BindRec → Bool) : List (Nat × Nat) :=
  s.sgs.flatMap (fun (e : Nat × SgHub) => e.2.recs.filterMap (fun (q : Nat × BindRec) =>
    if q.2.v && p q.2 then some (e.1, q.1) else none))

/-- The grid of a pending entry. -/
def PendEntry.gridId : PendEntry → Nat
  | .grid id => id
  | .saved id _ => id

/-- Ends every strand of a grid with a cause (17 R314; 18 R335 request 7): its bound teams leave at once, and its other
teams are never bound. -/
def State.killGrid (s : State) (key : Nat) (cause : Cause) : State :=
  let x := s.grid key
  if x.teams = 0 ∨ x.finished then s
  else
    let s := (s.teamsWhere (fun r => r.gridKey == key)).foldl (fun (s : State) (e : Nat × Nat) =>
      s.releaseTeam e.1 e.2 (s.bindRec e.1 e.2)) s
    let s := s.updPart x.part (fun p => { p with pending := p.pending.filter (fun e => gridKey x.part e.gridId != key) })
    (s.updGrid key (fun x => { x with finished := true, status := BitVec.ofNat 8 cause.code })).notifyGrid key

/-! ### SPAWN, JOIN, EXIT, GO, STEALD (14 R270-R275) -/

/-- Checks 1 to 5 of SPAWN (14 R271). -/
def State.spawnFault (s : State) (e j : Word) : Option (Cause × Word) :=
  let code := ((s.recOf s.cur.cell).map s.codeHandle).getD 0#24
  if addrClass e ≠ 2 ∨ e.extractLsb' 36 24 ≠ code ∨ e.extractLsb' 32 4 ≠ 0#4 then some (.addr, e)
  else if !isAligned e 4 then some (.align, e)
  else match parseAddr s.cur.cell j with
  | none | some (.window _ _) => some (.addr, j)
  | some t =>
    if !isAligned j 8 then some (.align, j)
    else match t with
    | .home id _ => if (s.teamCell s.cur.cell id).isNone then some (.prot, j) else none
    | _ => none

/-- SPAWN (14 R271): stalls while the deque is full, and parks while the page of its area is absent. -/
def execSpawn (d a : SReg) (sw : Bool) (s : State) : Out :=
  if s.inHandler then s.ill (.spawn d a sw)
  else if s.me.anyPending [d, a, .n 0, .n 1, .n 2, .n 3, .n 4, .n 5] then .next s
  else match s.spawnFault (s.reg d) (s.reg a) with
  | some (c, ev) => s.trap c ev
  | none =>
    if (s.cell s.cur.cell).dequeFull then .next s
    else match s.dequeAbsent s.cur.cell with
    | some (h, p) =>
      match s.pageFailed (.slot s.cur) h p with
      | some s => s.trap .page (handleAddr (BitVec.ofNat 24 h) (p * pageSize (s.handle h).psz))
      | none => (s.askPager (.slot s.cur) h p).park (.page h p) 0 false
    | none => s.release (domScope (domCode s.me.stealdom)) (.spawn ((s.reg d).setWidth 32) (s.reg a)) 1 sw

/-- JOIN (14 R272): parks until the word reads zero. -/
def execJoin (a : SReg) (sw : Bool) (s : State) : Out :=
  if s.inHandler then s.ill (.join a sw)
  else if s.me.anyPending [a] then .next s
  else withAccess s (s.reg a) 8 8 .read noPromote (fun l s => s.park (.join (s.reg a) l) 1 sw)

/-- JOIN_POLL (14 R272): the word is read again; zero ends the wait with an acquire. -/
def execJoinPoll (c : Nat) (k : Fin 5) (s : State) : Out :=
  let i : SlotId := ⟨c, k⟩
  let t := s.strand i
  match t.status with
  | .parked (.join ea _) =>
    if !t.late.isEmpty && !t.sup then idle s
    else
      .next (s.repoll i ea .read noPromote (fun l s =>
        match s.access i l 8 ea with
        | none => s.sendHeld i 8 [(l, ea)]
        | some s =>
          let (data, bad, s) := s.readRaw l 8
          let s := s.lateOpt i t.uid (bad.head?.map (fun _ => poisonTrap c l ea))
          if leWord data = 0#64 then s.completeAcquire i else s))
  | _ => idle s

/-- EXIT (14 R273): the strand ends at STRAND_END. ILL in the handler slot. -/
def execExit (sw : Bool) (s : State) : Out :=
  if s.inHandler then s.ill (.exit sw) else s.park .exit 1 sw

/-- The strand holds no copy and no hire (14 R273 step 1; a launch's token is a pending bit). -/
def State.mayEnd (s : State) (i : SlotId) : Bool :=
  let u := (s.strand i).uid
  s.windowFree i && !(s.cell i.cell).copies.toList.any (fun k => k.any (fun k => k.uid == u))
    && !(s.hub (tileOf i.cell)).hires.any (fun r => r.isOf i u)

/-- The accumulator slots of a strand become Free. -/
def State.freeOwned (s : State) (i : SlotId) : State :=
  s.updHub (tileOf i.cell) (fun h => { h with owners := freeOwners (·.isOf i) h.owners })

/-- The scope at which a strand's end releases (14 R273 step 3). -/
def State.endScope (s : State) (i : SlotId) : Scope :=
  let t := s.strand i
  if t.child then commonScope i.cell ((s.teamCell i.cell t.spawnCell).getD i.cell) else .sys

/-- The slot becomes Free, its registers as they are; the end's checkpoint goes with its release (02 R48), and the team may have
ended. -/
def State.endSlot (s : State) (i : SlotId) (sc : Scope) : State :=
  let t := s.strand i
  let s := (s.leaveCount i).updCell i.cell (fun x => (x.dropSlot i.slot).setStrand i.slot t.ended)
  let s := if Scope.isWide sc && t.lock then s.checkpointOk (pairOf i.cell) else s
  s.checkTeam i.cell

/-- STRAND_END (14 R273): a late trap is taken first, with EPC at the EXIT (R260); a fault of the join word's atomic is precise,
before anything is freed. An EXIT in the supervisor, where no late trap is entered (R316), waits for ever while one is pending
(DESIGN CHOICE, log 66). The strands of a fenced pair have ended with the fence (02 R48), and the team with them when they were its
last (02 R40). -/
def execStrandEnd (c : Nat) (k : Fin 5) (s : State) : Out :=
  let i : SlotId := ⟨c, k⟩
  let t := s.strand i
  let sc := s.endScope i
  if t.status = .free ∧ (s.pair (pairOf c)).fenced then .next (s.checkTeam c)
  else if t.status ≠ .parked .exit ∨ !t.late.isEmpty then idle s
  else if s.holding i || (Scope.isWide sc && s.mismatched i) then .next (s.checkpoint i)
  else if !s.mayEnd i || !s.released i sc t.tsm then idle s
  else
    if !t.child then .next ((s.freeOwned i).endSlot i sc)
    else match s.check (s.whoAt i) t.join 8 8 .write atomicPromote with
    | .ok l s =>
      if s.blocked t.dcls c l then .next s
      else .next (((s.request i (.atomic 0 true (BitVec.allOnes 64) 0#64 .none t.fmode) l 8 t.join).freeOwned i).endSlot i sc)
    | .stall s => .next s
    | .absent _ _ s => .next s
    | .bad e ev s => .next (s.trapAt i e ev)

/-- STEALD (14 R275): the codes 1, 3, 4 and 5. -/
def execSteald (sc : Scope) (sw : Bool) (s : State) : Out :=
  let ok : Bool := match sc with | .cell | .tile | .group | .sgrp => true | _ => false
  if s.inHandler || !ok then s.ill (.steald sc sw)
  else (s.upd s.cur (fun t => { t with stealdom := BitVec.ofNat 4 sc.code })).finish 1 sw

/-! ### GO (02 R41, R42; 14 R274) -/

/-- The places of the windows below the current one in the spill image, in 8-byte pieces, the bottom window first. -/
def spillPieces (t : Strand) : List (Word × Nat) :=
  (List.range (16 * t.lower.length)).map (fun n =>
    (t.splh + BitVec.ofNat 64 (128 * t.wspill.toNat + 8 * n), 8))

/-- Bytes as writes at addresses, of 8 bytes each. -/
def unitWrites (pieces : List (Word × Nat)) (bs : List Byte) : List DWrite :=
  (pieces.zip (List.range pieces.length)).map (fun p => ⟨p.1.1, (bs.drop (8 * p.2)).take 8⟩)

/-- Every window below the current one goes to the spill image as stores of the strand; a fault is that of a store there (06
R106, R107). -/
def State.spillLower (s : State) (i : SlotId) : Chk :=
  let t := s.strand i
  match s.checkAll (s.whoAt i) 8 .write (spillPieces t) with
  | (ls, none, s) =>
    if ls.any (fun l => s.blocked t.dcls i.cell l) then .stall s
    else
      let s := s.sendUnits i (ls.zip (unitWrites (spillPieces t) (t.lower.reverse.map windowBytes).flatten))
      .ok ⟨.local, i.cell, 0⟩ (s.upd i (fun t =>
        { t with lower := [], wspill := t.wspill + BitVec.ofNat 32 t.lower.length }))
  | (_, some r, _) => r

/-- What a parked instruction does after a check that failed. -/
def failedCheck (i : SlotId) (r : Chk) (k : State → State) : State :=
  match r with
  | .ok _ s => k s
  | .stall s => s
  | .absent h p s => s.upd i (fun t => { t with status := .parked (.page h p), words := 0 })
  | .bad c ev s => s.trapAt i c ev

/-- Steps 2 to 4 of GO, once its results and tokens are in. -/
def State.moveGo (s : State) (i : SlotId) (ea word0 : Word) : State :=
  let t := s.strand i
  let h := s.hub (tileOf i.cell)
  let away (target : Nat) : State :=
    if target = i.cell then
      (s.upd i (fun t => { t with status := .parked (.release .cell .goLocal) })).tryRelease i
    else
      failedCheck i (s.spillLower i) (fun s =>
        (s.upd i (fun t => { t with status := .parked (.release (commonScope i.cell target) (.goAway target)) })).tryRelease i)
  if h.owners.any (fun (e : Nat × AccOwner) => e.2.isOf i) || h.hires.any (fun r => r.isOf i t.uid) then
    s.trapAt i .ill word0
  else match parseAddr i.cell ea with
  | some (.local c _) => away c
  | some (.home id _) =>
    match s.teamCell i.cell id with
    | none => s.trapAt i .prot ea
    | some c => away c
  | _ => s.trapAt i .addr ea

/-- GO (14 R274): ILL in the supervisor and in the handler slot. -/
def execGo (a : SReg) (sw : Bool) (s : State) : Out :=
  if s.inHandler || s.me.sup then s.ill (.go a sw)
  else if s.me.anyPending [a] then .next s
  else
    let ea := s.reg a
    let w := word0Of (.go a sw)
    let s := s.upd s.cur (fun t => { t with status := .parked (.window (.go ea w)), words := 1, marker := sw })
    if s.windowFree s.cur then .next (s.moveGo s.cur ea w) else .next s

/-- GO_DEPART (02 R41): the waits before the move, then those of the release. -/
def execGoDepart (c : Nat) (k : Fin 5) (s : State) : Out :=
  let i : SlotId := ⟨c, k⟩
  match (s.strand i).status with
  | .parked (.window (.go ea w)) => if s.windowFree i then .next (s.moveGo i ea w) else idle s
  | .parked (.release _ (.goAway _)) | .parked (.release _ .goLocal) => .next (s.tryRelease i)
  | _ => idle s

/-- Slot k of a bound cell is Free and not promised to a stolen record: a slot with a steal under way is kept for it from GO
arrivals, pops and binds (DESIGN CHOICE, log 45). A Free slot of a fenced pair takes what the team still sends it: the fence keeps
away binds alone (02 R48; DESIGN CHOICE, log 63). -/
def State.slotFree (s : State) (c : Nat) (k : Fin 5) : Bool :=
  let x := s.cell c
  decide (k ≠ 4) && decide ((x.strands[k] : Strand).status = .free) && !x.stealing.contains k
    && (s.recOf c).isSome && !s.saving c 2

/-- The strand of a GO packet in its new slot (02 R41 step 5, 06 R116). The next-sequence counter, which the packet does not
carry, starts at 0 (DESIGN CHOICE, log 46). -/
def goStrand (r : BindRec) (g : GoPacket) : Strand :=
  { freshStrand r g.uid with
    ra := g.a
    rl := g.l
    sp := g.sp
    pc := g.pc
    sup := g.sup
    psup := g.psup
    sstep := g.sstep
    psstep := g.psstep
    dcls := g.dcls
    lock := g.lock
    wspill := g.wspill
    fmode := g.fmode
    rmode := g.rmode
    seed := g.seed
    tsm := g.tsm
    splh := g.splh
    sidx := g.sidx
    child := g.child
    team := g.team
    join := g.join
    spawnCell := g.spawnCell
    late := g.late
    stepDue := g.sstep && !g.sup }

def State.goPlace (s : State) (c : Nat) (k : Fin 5) (g : GoPacket) : State :=
  match s.recOf c with
  | none => s
  | some r => (s.setStrand ⟨c, k⟩ (goStrand r g)).keepSlot ⟨c, k⟩

/-- A packet back to the source of a GO. -/
def State.goReply (s : State) (c : Nat) (g : GoPacket) (b : Body) : State := s.post ⟨c, 4⟩ g.uid b g.src.cell g.dcls false

/-- The packet goes back, its source recorded while the list of four has room. -/
def State.bounce (s : State) (c : Nat) (g : GoPacket) : State :=
  let room := decide ((s.cell c).bounced.length < 4)
  (s.updCell c (fun x => { x with
    gobounce := countUp x.gobounce
    bounced := if room then x.bounced ++ [g.src] else x.bounced })).goReply c g (.goReturn g room)

/-- The first Free slot of a cell. -/
def State.freeSlot (s : State) (c : Nat) : Option (Fin 5) := (List.finRange 5).find? (fun k => s.slotFree c k)

/-- GO_ARRIVAL (02 R42): a Free slot, the queue of four, or a bounce. -/
def execGoArrival (n : Nat) (s : State) : Out :=
  match listGet s.net n with
  | some f =>
    match f.body, f.dstCell with
    | .go g, some c =>
      if !s.delivers n f then idle s
      else
        let q := (s.cell c).goQueue
        let s := s.without n
        match s.freeSlot c, q with
        | some k, [] => .next ((s.goPlace c k g).goReply c g (.goAccept g.src g.uid))
        | _, _ =>
          if q.length < 4 then
            .next ((s.updCell c (fun x => { x with goQueue := x.goQueue ++ [g] })).goReply c g (.goAccept g.src g.uid))
          else .next (s.bounce c g)
    | _, _ => idle s
  | none => idle s

/-- GO_ACCEPT_NOTICE (02 R41): the old slot becomes Free. -/
def execGoAcceptNotice (n : Nat) (s : State) : Out :=
  match listGet s.net n with
  | some f =>
    match f.body with
    | .goAccept src uid =>
      if !s.delivers n f then idle s
      else
        let s := s.without n
        let t := s.strand src
        if t.uid = uid ∧ t.status = .parked .goFlight then
          .next (((s.leaveCount src).forgetSlot src uid).setStrand src t.ended)
        else .next s
    | _ => idle s
  | none => idle s

/-- What comes to a strand from outside changes what a rollback restores too (02 R49). -/
def State.updBoth (s : State) (i : SlotId) (uid : Nat) (g : Strand → Strand) : State := (s.upd i g).updKept i uid g

/-- The packet of a bounced strand leaves again. -/
def State.goAgain (s : State) (i : SlotId) (target : Nat) : State :=
  (s.goDepart i target false).updKept i (s.strand i).uid (fun t => { t with status := .parked .goFlight })

/-- GO_BOUNCE_RETURN (02 R42): the strand stays parked in its old slot. -/
def execGoBounceReturn (n : Nat) (s : State) : Out :=
  match listGet s.net n with
  | some f =>
    match f.body with
    | .goReturn g rec =>
      if !s.delivers n f then idle s
      else
        let s := s.without n
        let t := s.strand g.src
        if t.uid = g.uid ∧ t.status = .parked .goFlight then
          .next (s.updBoth g.src g.uid (fun t => { t with status := .parked (.goBounced f.srcCell rec s.cycle.toNat) }))
        else .next s
    | _ => idle s
  | none => idle s

/-- GO_RESEND_TIMEOUT (02 R42): a source that was not recorded resends after 256 cycles. -/
def execGoResendTimeout (c : Nat) (k : Fin 5) (s : State) : Out :=
  match (s.strand ⟨c, k⟩).status with
  | .parked (.goBounced target false since) =>
    if since + 256 ≤ s.cycle.toNat then .next (s.goAgain ⟨c, k⟩ target) else idle s
  | _ => idle s

/-- GO_RESEND_REQUEST_ARRIVAL (02 R42): a recorded source, whose packet has returned, sends it again. -/
def execGoResendRequestArrival (n : Nat) (s : State) : Out :=
  match listGet s.net n with
  | some f =>
    match f.body with
    | .goResend src =>
      if !s.delivers n f then idle s
      else match (s.strand src).status with
      | .parked (.goBounced target true _) =>
        if (s.strand src).uid = f.uid ∨ f.srcCell = target then .next ((s.without n).goAgain src target) else .next (s.without n)
      | .parked .goFlight => idle s
      | _ => .next (s.without n)
    | _ => idle s
  | none => idle s

/-- ARRIVAL_TAKES_SLOT (02 R42): the oldest queued arrival takes the Free slot, and the oldest recorded source is told to
resend. -/
def execArrivalTakesSlot (c : Nat) (k : Fin 5) (s : State) : Out :=
  match (s.cell c).goQueue with
  | [] => idle s
  | g :: q =>
    if !s.slotFree c k then idle s
    else
      let s := (s.updCell c (fun x => { x with goQueue := q })).goPlace c k g
      match (s.cell c).bounced with
      | [] => .next s
      | b :: bs => .next ((s.updCell c (fun x => { x with bounced := bs })).post ⟨c, 4⟩ 0 (.goResend b) b.cell g.dcls false)

/-! ### Children (02 R43; 08 R155; 14 R271) -/

/-- A strand-private handle of a partition, of n bytes of zeros in 4 KiB pages (06 R109, R124; 07 R132, R141). -/
def privateHandle (part : BitVec 5) (owner : BitVec 24) (n : Nat) : Handle :=
  { Handle.zero with
    v := true, pr := true, pw := true, priv := true, fmt := 15#4, tenant := part,
    limit := BitVec.ofNat 36 (n - 1), ext := owner.setWidth 64 }

/-- The handle number names an object: an entry that is valid, or whose frames a request has yet to free (18 R337). -/
def State.handleUsed (s : State) (h : Nat) : Bool := (s.handle h).v || s.parts.any (fun (e : Nat × Part) => e.2.freeing == some h)

/-- A handle number that names no object. -/
def State.handleFree (s : State) (h : Nat) : Bool := decide (0 < h ∧ h < 2 ^ 24) && !s.handleUsed h

/-- The page map that the firmware builds for a handle of its own: 2^24 entries at an address of the handle (07 R133, log 21). -/
def ownMap (h : Nat) : Word := BitVec.ofNat 64 (h * 2 ^ 27)

/-- A new handle with a page map of its own, every page absent and filled with zeros. -/
def State.setHandle (s : State) (h : Nat) (x : Handle) : State :=
  { s with
    handles := s.handles.set h { x with pmap := ownMap h }
    pages := s.pages.filter (fun (e : Nat × Page) => e.1 / 2 ^ 27 != h) }

/-- A stack and a spill handle of the sizes of the grid's image. -/
def State.makeStacks (s : State) (r : BindRec) (stk spl : Nat) : State :=
  let x := s.imageOf r
  (s.setHandle stk (privateHandle r.part (BitVec.ofNat 24 spl) x.stackSize)).setHandle spl
    (privateHandle r.part (BitVec.ofNat 24 spl) x.spillSize)

/-- sp at creation: one past the end of the stack handle (06 R109). -/
def stackTop (h size : Nat) : Word := handleAddr (BitVec.ofNat 24 h) 0 + BitVec.ofNat 64 size

/-- The strand of a child record, with the handles that the runtime gives it (14 R271) and the late trap of a poisoned record. -/
def State.createChild (s : State) (c : Nat) (k : Fin 5) (home : Nat) (q : Child) (late : Option LateTrap) (stk spl : Nat) : State :=
  match s.recOf c with
  | none => s
  | some r =>
    let s := { s.makeStacks r stk spl with uids := s.uids + 1 }
    let t : Strand := { freshStrand r s.uids with
      pc := handleAddr (s.codeHandle r) q.entry.toNat
      sp := stackTop stk (s.imageOf r).stackSize
      splh := handleAddr (BitVec.ofNat 24 spl) 0
      ra := argRegs q.args
      sidx := q.sidx
      team := q.team
      child := true
      join := q.join
      spawnCell := home
      late := late.toList }
    s.setStrand ⟨c, k⟩ t

/-- Two handle numbers that the runtime may give. -/
def State.handlesFor (s : State) (stk spl : Nat) : Bool := s.handleFree stk && s.handleFree spl && stk != spl

/-- Record n of a cell's deque area, its columns checked (07 R129): a poisoned one reads as the pattern, and the child of the record,
which no strand reads for itself, takes the late POISON (DESIGN CHOICE, log 45). -/
def State.areaRecord (s : State) (c n : Nat) : Child × Option LateTrap × State :=
  let l := s.dequeLoc c n
  let ea := match s.recOf c with
    | some r => handleAddr r.dqh (65536 * teamCellIndex r c + 64 * (n % 1024))
    | none => 0#64
  let (bs, bad, s) := s.readRaw l 64
  (childOfBytes bs, bad.head?.map (fun b => poisonTrap c (poisonedAt l ea b).1 (poisonedAt l ea b).2), s)

/-- The newest record of a deque, taken: from the hardware, else from the area. -/
def State.popRecord (s : State) (c : Nat) : Option (Child × Option LateTrap × State) :=
  let x := s.cell c
  match x.deque.getLast? with
  | some q => some (q, none, s.setCell c { x with deque := x.deque.dropLast })
  | none =>
    if x.acnt = 0 then none
    else
      let (q, late, s) := s.areaRecord c (x.ahead + x.acnt - 1)
      some (q, late, s.updCell c (fun x => { x with acnt := x.acnt - 1 }))

/-- The oldest record of a deque, taken: from the area, else from the hardware. -/
def State.stealRecord (s : State) (c : Nat) : Option (Child × Option LateTrap × State) :=
  let x := s.cell c
  if 0 < x.acnt then
    let (q, late, s) := s.areaRecord c x.ahead
    some (q, late, s.updCell c (fun x => { x with acnt := x.acnt - 1, ahead := (x.ahead + 1) % 1024 }))
  else match x.deque with
  | [] => none
  | q :: qs => some (q, none, s.setCell c { x with deque := qs })

/-- The page of the area record that a pop or a steal reads next, when it is absent. -/
def State.areaAbsent (s : State) (c n : Nat) : Option (Nat × Nat) :=
  match s.recOf c with
  | none => none
  | some r =>
    if (s.cell c).acnt = 0 then none
    else s.hwAbsent r.dqh.toNat (65536 * teamCellIndex r c + 64 * (n % 1024)) 64

/-- The pair of a lockstep cell has popped a record: one pushed since its checkpoint, or one that a rollback puts back (02
R49). -/
def State.notePop (s : State) (c : Nat) (q : Child) : State :=
  if (s.recOf c).any (·.lock) then
    s.updPair (pairOf c) (fun p =>
      if 0 < p.pushed then { p with pushed := p.pushed - 1 } else { p with popped := q :: p.popped })
  else s

/-- A slot of the cell would pop a record now: it is Free, and no arrival waits. -/
def State.pops (s : State) (c : Nat) : Bool := (s.cell c).goQueue.isEmpty && (List.finRange 5).any (fun k => s.slotFree c k)

/-- A thief may take a record of the deque: not the last one while the owner reaches for it too (08 R155). -/
def State.offers (s : State) (v : Nat) : Bool :=
  !(decide ((s.cell v).deque.length + (s.cell v).acnt = 1) && s.pops v)

/-- Every record of the deque has been pushed since the checkpoint of its lockstep pair, which holds its effects until the next
one (02 R47, log 9). -/
def State.holdsRecords (s : State) (v : Nat) : Bool :=
  (s.recOf v).any (·.lock) && decide ((s.cell v).deque.length + (s.cell v).acnt ≤ (s.pair (pairOf v)).pushed)

/-- DEQUE_POP (02 R43): a Free slot with no queued arrival takes the newest record of its own deque. -/
def execDequePop (c : Nat) (k : Fin 5) (stk spl : Nat) (s : State) : Out :=
  let x := s.cell c
  if !s.slotFree c k || !x.goQueue.isEmpty || !s.handlesFor stk spl then idle s
  else
    match (if x.deque.isEmpty then s.areaAbsent c (x.ahead + x.acnt - 1) else none) with
    | some (h, p) => .next (s.askPager .host h p)
    | none =>
      match s.popRecord c with
      | none => idle s
      | some (q, late, s) => .next ((s.notePop c q).createChild c k (s.homeOf c) q late stk spl)

/-- The latency class of the path between two cells of a super-group (01 R19). -/
def distance (a b : Nat) : Nat := if tileOf a = tileOf b then 1 else if groupOf a = groupOf b then 3 else 5

/-- The other cells of a team, nearest first and in ascending number at one distance (02 R43). -/
def victimsOf (g : Nat) (r : BindRec) (c : Nat) : List Nat :=
  let cs := (cellsOf g r).filter (· != c)
  [1, 3, 5].flatMap (fun d => cs.filter (fun v => distance c v == d))

/-- The thief's cell lies within the record's domain of the spawning cell. -/
def Child.reaches (q : Child) (victim thief : Nat) : Bool :=
  match q.dom.toNat with
  | 0 => victim == thief
  | 1 => tileOf victim == tileOf thief
  | 2 => groupOf victim == groupOf thief
  | _ => sgOf victim == sgOf thief

/-- The first victim whose oldest record holds the thief. -/
def State.victim (s : State) (c : Nat) : Option Nat :=
  match (s.cell c).bind with
  | none => none
  | some (g, rec) =>
    (victimsOf g (s.bindRec g rec) c).find? (fun v => s.offers v && (s.stealRecord v).any (fun q => q.1.reaches v c))

/-- STEAL_REQUEST (02 R43): the record is taken from its deque and travels to the thief. A lockstep pair that holds its records
takes a checkpoint first (log 9). -/
def execStealRequest (c : Nat) (k : Fin 5) (s : State) : Out :=
  let x := s.cell c
  if !s.slotFree c k || !x.goQueue.isEmpty || !x.deque.isEmpty || x.acnt != 0 then idle s
  else match s.victim c with
  | none => idle s
  | some v =>
    if s.holdsRecords v then .next (s.checkpointAt (pairOf v))
    else match s.areaAbsent v (s.cell v).ahead with
    | some (h, p) => .next (s.askPager .host h p)
    | none =>
      match s.stealRecord v with
      | none => idle s
      | some (q, late, s) =>
        .next ((s.updCell c (fun x => { x with stealing := x.stealing ++ [k] })).post ⟨v, 4⟩ 0 (.steal k (s.homeOf v) q late) c
          0#3 false)

/-- STEAL_RECORD_ARRIVAL (02 R43). -/
def execStealRecordArrival (n stk spl : Nat) (s : State) : Out :=
  match listGet s.net n with
  | some f =>
    match f.body, f.dstCell with
    | .steal k home q late, some c =>
      if !s.delivers n f || !s.handlesFor stk spl then idle s
      else
        let s := (s.without n).updCell c (fun x => { x with stealing := x.stealing.filter (· != k) })
        .next ((s.createChild c k home q late stk spl).keepSlot ⟨c, k⟩)
    | _, _ => idle s
  | none => idle s

/-! ### LAUNCH (14 R276-R278, 16 R304) -/

/-- The launches of a strand whose grids have not ended. -/
def Notify.isFor (n : Notify) (uid : Nat) : Bool := match n with | .token _ u _ => u == uid | _ => false
def State.launchCount (s : State) (uid : Nat) : Nat :=
  (s.launches.filter (fun (l : DevLaunch) => l.grid.notify.isFor uid)).length
    + (s.grids.filter (fun (e : Nat × Grid) => e.2.notify.isFor uid)).length

/-- A nonzero zero field of a launch descriptor, or an entry that is no multiple of 4 (14 R277). -/
def descriptorBad (b : List Byte) : Bool :=
  let w (k : Nat) : Nat := leNat ((b.drop (8 * k)).take 8)
  decide (2 ^ 24 ≤ w 0) || decide (2 ^ 32 ≤ w 1) || decide (w 1 % 4 ≠ 0) || decide (2 ^ 15 ≤ w 2) || decide (w 3 ≠ 0)

/-- The grid that a descriptor's SHAPE describes (14 R277). -/
def gridOf (part image : Nat) (entry : Word) (shape teams : Nat) (args : Word) (column : Nat) : Grid :=
  { Grid.zero with
    part := part
    image := image
    entry := entry
    wm1 := BitVec.ofNat 4 shape
    hm1 := BitVec.ofNat 4 (shape / 16)
    sm1 := BitVec.ofNat 2 (shape / 256)
    lock := decide (shape / 1024 % 2 = 1)
    prio := decide (shape / 2048 % 2 = 1)
    dcls := BitVec.ofNat 3 (shape / 4096)
    teams := teams
    args := args
    column := column }

/-- The image is registered for the partition and the launch has its shape (14 R278, 18 R340). -/
def State.imageFits (s : State) (part image shape : Nat) : Bool :=
  s.images.any (fun (e : Nat × Image) => e.1 == image && e.2.part == part && e.2.shape == shape % 2048)

/-- LAUNCH (14 R276-R278). -/
def execLaunch (d a : SReg) (b : Src) (n : BitVec 32) (sw : Bool) (s : State) : Out :=
  let ea := s.reg a
  if s.inHandler || s.me.sup || n == 0#32 then s.ill (.launch d a b n sw)
  else if s.me.anyPending (a :: b.regs) then .next s
  else if addrClass ea = 3 then s.trap .addr ea
  else withAccess s ea 32 32 .read noPromote (fun l s =>
    match s.access s.cur l 32 ea with
    | none => .next (s.sendHeld s.cur 32 [(l, ea)])
    | some t =>
      let before := s
      let (bs, bad, s) := t.readRaw l 32
      let image := leNat (bs.take 8)
      let shape := leNat ((bs.drop 16).take 8)
      let part := s.partAt s.cur.cell
      let stalled := s.me.anyPending [d] || decide (4 ≤ s.launchCount s.me.uid)
      let late := (bad.head?.map (fun _ => poisonTrap s.cur.cell l ea))
      let done := s.lateOpt s.cur s.me.uid late
      if descriptorBad bs then done.ill (.launch d a b n sw)
      else if !s.imageFits part image shape then done.trap .prot (BitVec.ofNat 64 image)
      else if addrClass (s.src b) ≠ 2 then done.trap .addr (s.src b)
      else if stalled then .next before
      else
        let s := done
        let code := (s.images.get Image.zero image).code
        let entry := handleAddr code (leNat ((bs.drop 8).take 8))
        let g := gridOf part image entry shape n.toNat (s.src b) (columnOf s.cur.cell)
        s.release .mod (.launch d { g with notify := .token s.cur s.me.uid d }) (b.words + 2) sw)

/-- The grid of a key is under way. -/
def State.gridLive (s : State) (key : Nat) : Bool := decide ((s.grid key).teams ≠ 0) && !(s.grid key).finished

/-- What enters a partition's list in one cycle enters in ascending order of column (16 R305). -/
def State.mayEnter (s : State) (part col : Nat) : Bool :=
  !(s.partOf part).entered.any (fun e => decide (e.1 = s.cycle.toNat) && decide (col < e.2))

/-- A device grid enters before the first entry whose grid has had no team bound (16 R305). -/
def State.enterDevice (s : State) (part id : Nat) : List PendEntry → List PendEntry
  | [] => [.grid id]
  | .grid j :: es => if (s.grid (gridKey part j)).bound = 0 then .grid id :: .grid j :: es else .grid j :: s.enterDevice part id es
  | e :: es => e :: s.enterDevice part id es

/-- DEVICE_GRID_ENTRY (16 R304): the module manager names the grid and enters it. -/
def execDeviceGridEntry (n : Nat) (grid : BitVec 16) (s : State) : Out :=
  match listGet s.launches n with
  | none => idle s
  | some l =>
    let key := gridKey l.grid.part grid.toNat
    if !grid.msb || s.gridLive key || !s.mayEnter l.grid.part l.grid.column then idle s
    else
      let s := { s with launches := listErase s.launches n, grids := s.grids.set key l.grid }
      .next (s.updPart l.grid.part (fun p => { p with
        pending := s.enterDevice l.grid.part grid.toNat p.pending
        entered := some (s.cycle.toNat, l.grid.column) }))

end Sys2Proof.Machine
end

