-- ==== Sys2Proof/Machine/System.lean ====
section
/-! DEFINITION. The SYS group (14 R279-R285), the control registers (06 R115-R124), the window moves of parked strands
(06 R108) and the entry of late traps (17 R315, R316). -/

namespace Sys2Proof.Machine

open Sys2Proof

/-! ### Control registers (06 R115-R124) -/

def Strand.stat (t : Strand) : Word :=
  0#16 ++ t.wspill ++ 0#6 ++ BitVec.ofNat 2 t.lower.length ++ BitVec.ofBool t.lock ++ t.dcls ++ BitVec.ofBool t.psstep
    ++ BitVec.ofBool t.sstep ++ BitVec.ofBool t.psup ++ BitVec.ofBool t.sup

def Berr.word (b : Berr) : Word :=
  0#32 ++ b.count ++ 0#3 ++ BitVec.ofBool b.valid ++ BitVec.ofBool b.dbl ++ b.synd ++ b.col

def Berr.ofWord (w : Word) : Berr :=
  ⟨w.extractLsb' 0 9, w.extractLsb' 9 10, w.getLsbD 19, w.getLsbD 20, w.extractLsb' 24 8⟩

/-- HEATST (06 R122). -/
def State.heatst (s : State) (t : Nat) : Word :=
  let b := s.bondAt t
  0#46 ++ BitVec.ofBool b.caphot ++ BitVec.ofBool b.dry ++ b.tokens

/-- Control register n as a strand reads it. -/
def State.csr (s : State) (i : SlotId) (n : Nat) : Word :=
  let t := s.strand i
  match n with
  | 0 => t.stat
  | 1 => t.epc
  | 2 => t.ecause.setWidth 64
  | 3 => t.eval
  | 4 => t.ehseq.setWidth 64
  | 5 => t.tvec ++ 0#2
  | 6 => t.fmode.setWidth 64
  | 7 => t.rmode.setWidth 64
  | 8 => t.seed.setWidth 64
  | 9 => t.tsm.setWidth 64
  | 10 => BitVec.ofBool t.progValid ++ 0#15 ++ t.progIndex
  | 11 => t.clsmask.setWidth 64
  | 12 => 0#47 ++ BitVec.ofBool t.chainEn ++ t.chainCell
  | 13 => t.stealdom.setWidth 64
  | 14 => t.mstra.setWidth 64
  | 15 => t.mstrb.setWidth 64
  | 16 => t.tau.setWidth 64
  | 17 => t.theta.setWidth 64
  | 18 => t.cmin.setWidth 64
  | 19 => 0#63 ++ BitVec.ofBool t.tmode
  | 20 => s.cycle
  | 21 => t.instret
  | 22 => s.heatst (tileOf i.cell)
  | 23 => s.licst (tileOf i.cell)
  | 24 => ((s.cell i.cell).berr[0]).word
  | 25 => ((s.cell i.cell).berr[1]).word
  | 26 => ((s.cell i.cell).berr[2]).word
  | 27 => ((s.cell i.cell).berr[3]).word
  | 28 => (s.cell i.cell).eccinj.setWidth 64
  | 29 => t.splh
  | _ => 0#64

/-- Access RO (06 R115). -/
def csrReadOnly (n : Nat) : Bool := n == 11 || (decide (20 ≤ n) && decide (n ≤ 23))
/-- Access S (06 R115). -/
def csrSupervisor (n : Nat) : Bool := decide (n ≤ 5) || n == 9 || n == 10 || (decide (24 ≤ n) && decide (n ≤ 29))
/-- Its read is the supervisor's too. -/
def csrHidden (n : Nat) : Bool := n == 28 || n == 29

/-- The three members that write a control register. -/
inductive CsrOp where
  | write | set | clear
  deriving DecidableEq, Repr

/-- The bits of register n that a member changes: the fields whose Changed by column names it (00 R13, 14 R281). A write to TSM by
the supervisor adds or removes slices (06 R119, log 50). -/
def csrMask (op : CsrOp) (n : Nat) : Word :=
  let w : Bool := match op with | .write => true | _ => false
  match n with
  | 0 => if w then 0x7C#64 else 0x04#64
  | 1 => if w then BitVec.allOnes 64 else 0#64
  | 5 => if w then 0xFFFFFFFFFFFFFFFC#64 else 0#64
  | 6 => 0xFF#64
  | 7 => 0x07#64
  | 8 => 0xFFFFFFFF#64
  | 9 => 0x7FFFFFFFFFFFF#64
  | 10 => if w then 0x8000FFFFFFFFFFFF#64 else 0#64
  | 12 => 0x1FFFF#64
  | 13 => 0x0F#64
  | 14 | 15 => 0xFFFFFFFF#64
  | 16 | 17 | 18 => if w then 0xFFFFFFFF#64 else 0#64
  | 19 => if w then 1#64 else 0#64
  | 24 | 25 | 26 | 27 =>
    match op with
    | .write => 0xFF0FFFFF#64
    | .set => 0#64
    | .clear => 0x1FFFFF#64
  | 28 => if w then 0x7FFFFFFF#64 else 0#64
  | 29 => if w then BitVec.allOnes 64 else 0#64
  | _ => 0#64

/-- The value a write would leave. -/
def csrValue (op : CsrOp) (n : Nat) (old b : Word) : Word :=
  let m := csrMask op n
  match op with
  | .write => (old &&& ~~~m) ||| (b &&& m)
  | .set => old ||| (b &&& m)
  | .clear => old &&& ~~~(b &&& m)

def Strand.setStat (t : Strand) (v : Word) : Strand :=
  { t with sstep := v.getLsbD 2, psstep := v.getLsbD 3, dcls := v.extractLsb' 4 3 }

/-- A legal value of STEALDOM.DOM (06 R120). -/
def legalDom (d : BitVec 4) : Bool := d == 1#4 || d == 3#4 || d == 4#4 || d == 5#4

/-- A strand's own control register takes a value. -/
def Strand.setCsr (t : Strand) (n : Nat) (v : Word) : Strand :=
  match n with
  | 0 => t.setStat v
  | 1 => { t with epc := v }
  | 5 => { t with tvec := v.extractLsb' 2 62 }
  | 6 => { t with fmode := v.setWidth 8 }
  | 7 => { t with rmode := if v.extractLsb' 1 2 = 3#2 then 0#3 else v.setWidth 3 }
  | 8 => { t with seed := v.setWidth 32 }
  | 9 => { t with tsm := v.setWidth 51 }
  | 10 => { t with progIndex := v.setWidth 48, progValid := v.msb }
  | 12 => { t with chainCell := v.setWidth 16, chainEn := v.getLsbD 16 }
  | 13 => { t with stealdom := if legalDom (v.setWidth 4) then v.setWidth 4 else t.stealdom }
  | 14 => { t with mstra := v.setWidth 32 }
  | 15 => { t with mstrb := v.setWidth 32 }
  | 16 => { t with tau := v.setWidth 32 }
  | 17 => { t with theta := v.setWidth 32 }
  | 18 => { t with cmin := v.setWidth 32 }
  | 19 => { t with tmode := v.getLsbD 0 }
  | 29 => { t with splh := v }
  | _ => t

/-- Register n takes a value. ARM of ECCINJ is set by a write and cleared only by the injection (06 R123, log 19). -/
def State.setCsr (s : State) (i : SlotId) (n : Nat) (v : Word) : State :=
  if 24 ≤ n ∧ n ≤ 27 then
    s.updCell i.cell (fun x => { x with berr := x.berr.set (Fin.ofNat 4 (n - 24)) (Berr.ofWord v) })
  else if n = 28 then
    s.updCell i.cell (fun x => { x with eccinj := (x.eccinj &&& 0x40000000#31) ||| v.setWidth 31 })
  else s.upd i (·.setCsr n v)

/-- CSRR (14 R281): PRIV for ECCINJ and SPLH outside the supervisor. -/
def execCsrr (d : SReg) (n : Fin 30) (sw : Bool) (s : State) : Out :=
  if csrHidden n.val && !s.me.sup then s.priv (.csrr d n sw) else scalarOp s [] d (s.csr s.cur n.val) 1 sw

/-- The three writes (14 R281): ILL for a read-only register, PRIV for a supervisor's outside it. -/
def csrOp (i : Instr) (op : CsrOp) (n : Fin 30) (b : Src) (sw : Bool) (s : State) : Out :=
  if csrReadOnly n.val then s.ill i
  else if csrSupervisor n.val && !s.me.sup then s.priv i
  else if s.me.anyPending b.regs then .next s
  else (s.setCsr s.cur n.val (csrValue op n.val (s.csr s.cur n.val) (s.src b))).finish b.words sw

/-- CSRW (14 R281). -/
def execCsrw (n : Fin 30) (b : Src) (sw : Bool) (s : State) : Out := csrOp (.csrw n b sw) .write n b sw s
/-- CSRS (14 R281). -/
def execCsrs (n : Fin 30) (b : Src) (sw : Bool) (s : State) : Out := csrOp (.csrs n b sw) .set n b sw s
/-- CSRC (14 R281). -/
def execCsrc (n : Fin 30) (b : Src) (sw : Bool) (s : State) : Out := csrOp (.csrc n b sw) .clear n b sw s
/-- RDCYC (14 R281). -/
def execRdcyc (d : SReg) (sw : Bool) (s : State) : Out := scalarOp s [] d s.cycle 1 sw

/-! ### Traps, returns and checkpoints (14 R280, R282) -/

/-- TRAP (14 R280): EVAL is b. -/
def execTrap (b : Src) (_sw : Bool) (s : State) : Out :=
  if s.me.anyPending b.regs then .next s else s.trap .trapi (s.src b)

/-- ERET (14 R280): PRIV outside the supervisor, ALIGN for an EPC that is no multiple of 4. -/
def execEret (sw : Bool) (s : State) : Out :=
  if !s.me.sup then s.priv (.eret sw)
  else if !isAligned s.me.epc 4 then s.trap .align s.me.epc
  else .next ((s.upd s.cur (·.leaveTrap)).marked s.cur sw)

/-- BKPT (14 R282). -/
def execBkpt (_sw : Bool) (s : State) : Out := s.trap .bkpt 0#64

/-- CHKPT (14 R282): a checkpoint in a lockstep team, with the strand past it; otherwise nothing. -/
def execChkpt (sw : Bool) (s : State) : Out :=
  if s.mismatched s.cur then .next (s.checkpoint s.cur)
  else .next ((s.finishAt s.cur 1 sw).checkpoint s.cur)

/-! ### SPILL and FILL (14 R283; 06 R106, R107) -/

/-- The 128 bytes of spilled window k, in pieces of 8. -/
def windowPieces (splh : Word) (k : Nat) : List (Word × Nat) :=
  (List.range 16).map (fun n => (splh + BitVec.ofNat 64 (128 * k + 8 * n), 8))

/-- SPILL once it may move: the oldest resident window goes to the image, as stores of the strand, which parks until they are
performed. -/
def State.moveSpill (s : State) (i : SlotId) : State :=
  let t := s.strand i
  match t.lower.getLast? with
  | none => s.trapAt i .ill (word0Of (.spill t.marker))
  | some w =>
    let pieces := windowPieces t.splh t.wspill.toNat
    match s.checkAll (s.whoAt i) 8 .write pieces with
    | (ls, none, s) =>
      if ls.any (fun l => s.blocked t.dcls i.cell l) then s
      else (s.sendUnits i (ls.zip (unitWrites pieces (windowBytes w)))).upd i (fun t => { t with status := .parked (.window .spilled) })
    | (_, some r, _) => failedCheck i r id

/-- A store of the strand to its next spilled window has not been performed. -/
def State.spillOpen (s : State) (i : SlotId) : Bool :=
  let t := s.strand i
  let a := (t.splh + BitVec.ofNat 64 (128 * t.wspill.toNat)).toNat
  s.net.any (fun f => f.uid == t.uid && f.toWrite && f.ea.any (fun e => decide (a ≤ e.toNat) && decide (e.toNat < a + 128)))

/-- SPILL is over when the 128 bytes are written. What a lockstep pair holds of them goes out first (15 R298, log 9). -/
def State.endSpill (s : State) (i : SlotId) : State :=
  if s.spillOpen i then s.sendWrites i
  else (s.upd i (fun t => { t.retire 1 with lower := t.lower.dropLast, wspill := t.wspill + 1#32 })).holdFor i 2

/-- A window from its 128 bytes. -/
def windowOf (bs : List Byte) : Window :=
  let w (k : Nat) : Word := leWord ((bs.drop (8 * k)).take 8)
  ⟨Vector.ofFn (fun (k : Fin 8) => w k.val), Vector.ofFn (fun (k : Fin 8) => w (8 + k.val))⟩

/-- Reads 8 bytes at each place as untyped data, every column once; the first place in a poisoned one, with its address. -/
def State.readAll (s : State) (ls : List (Loc × Word)) : List Byte × Option (Loc × Word) × State :=
  let (bad, s) := s.checkColumns (ls.flatMap (fun l => columnsOf l.1 8)).eraseDups
  let hit (l : Loc) (j : Nat) : Bool := bad.any (fun b => decide (b.column = (l.add j).column))
  (ls.flatMap (fun l => (List.range 8).map (fun j =>
      if hit l.1 j then poisonBytes (l.1.addr + j) else Memory.get s.mem (l.1.add j).key)),
    ls.find? (fun l => (List.range 8).any (hit l.1)), s)

/-- FILL once it may move: the newest spilled window comes back below the others, after the strand's own stores. -/
def State.moveFill (s : State) (i : SlotId) : State :=
  let t := s.strand i
  if t.wspill = 0#32 ∨ t.lower.length = 3 then s.trapAt i .ill (word0Of (.fill t.marker))
  else
    let pieces := windowPieces t.splh (t.wspill.toNat - 1)
    match s.checkAll (s.whoAt i) 8 .read pieces with
    | (ls, none, s) =>
      let reads := ls.zip (pieces.map (·.1))
      match s.accessAll i 8 reads with
      | none => s.sendHeld i 8 reads
      | some s =>
        let (bs, bad, s) := s.readAll reads
        let s := s.lateOpt i t.uid (bad.map (fun l => poisonTrap i.cell l.1 l.2))
        (s.upd i (fun t => { t.retire 1 with lower := t.lower ++ [windowOf bs], wspill := t.wspill - 1#32 })).holdFor i 2
    | (_, some r, _) => failedCheck i r id

/-- The window move of a parked strand, once it may move. -/
def State.moveWindow (s : State) (i : SlotId) (op : WinOp) : State :=
  match op with
  | .call target => s.moveCall i target
  | .ret => s.moveRet i
  | .spill => s.moveSpill i
  | .spilled => s.endSpill i
  | .fill => s.moveFill i
  | .go ea w => s.moveGo i ea w

/-- WINDOW_MOVE (06 R108). -/
def execWindowMove (c : Nat) (k : Fin 5) (s : State) : Out :=
  let i : SlotId := ⟨c, k⟩
  match (s.strand i).status with
  | .parked (.window op) => if s.windowFree i then .next (s.moveWindow i op) else idle s
  | _ => idle s

/-- SPILL and FILL park until they may move (06 R108). -/
def windowOp (op : WinOp) (sw : Bool) (s : State) : Out :=
  let s := s.upd s.cur (fun t => { t with status := .parked (.window op), words := 1, marker := sw })
  if s.windowFree s.cur then .next (s.moveWindow s.cur op) else .next s

/-- SPILL (14 R283): PRIV outside the supervisor. -/
def execSpill (sw : Bool) (s : State) : Out := if !s.me.sup then s.priv (.spill sw) else windowOp .spill sw s
/-- FILL (14 R283): PRIV outside the supervisor. -/
def execFill (sw : Bool) (s : State) : Out := if !s.me.sup then s.priv (.fill sw) else windowOp .fill sw s

/-! ### HTCINV and CTXSV (14 R284, R285) -/

/-- HTCINV (14 R284): a handle of 0 names every entry of the partition. -/
def execHtcinv (a : SReg) (sw : Bool) (s : State) : Out :=
  if !s.me.sup then s.priv (.htcinv a sw)
  else if s.me.anyPending [a] then .next s
  else
    let ea := s.reg a
    if addrClass ea ≠ 2 then s.trap .addr ea
    else
      let h := (ea.extractLsb' 36 24).toNat
      let p := s.partAt s.cur.cell
      let keep (e : TlbEntry) : Bool := !(e.tenant == p && (h == 0 || e.handle == h))
      let s := s.updHub (tileOf s.cur.cell) (fun x => { x with tlb := x.tlb.filter keep })
      (s.updGroup (groupOf s.cur.cell) (fun x => { x with l2 := x.l2.filter keep })).finish 1 sw

/-- The 16 units of a context image. -/
def contextUnits (ea : Word) : List (Word × Nat) := (List.range 16).map (fun u => (ea + BitVec.ofNat 64 (32 * u), 32))

def wordsBytes (ws : List Word) : List Byte := (ws.map (fun w => leBytes 8 w.toNat)).flatten

/-- The 512 bytes of a strand's user context (14 R285). -/
def contextBytes (t : Strand) : List Byte :=
  wordsBytes t.ra.toList ++ wordsBytes t.rl.toList ++ wordsBytes t.rn.toList ++ wordsBytes [t.sp]
    ++ (t.k.toList.map (fun k => leBytes 4 k.toNat)).flatten ++ List.replicate 40 0#8
    ++ (t.v.toList.map (fun v => leBytes 16 v.toNat)).flatten

/-- A vector of words from bytes. -/
def vectorAt {w : Nat} (n size off : Nat) (bs : List Byte) : Vector (BitVec w) n :=
  Vector.ofFn (fun (k : Fin n) => BitVec.ofNat w (leNat ((bs.drop (off + size * k.val)).take size)))

def Strand.loadContext (t : Strand) (bs : List Byte) : Strand :=
  { t with
    ra := vectorAt 8 8 0 bs
    rl := vectorAt 8 8 0x40 bs
    rn := vectorAt 8 8 0x80 bs
    sp := leWord ((bs.drop 0xC0).take 8)
    k := vectorAt 4 4 0xC8 bs
    v := vectorAt 16 16 0x100 bs }

/-- Reads the 32-byte units of an image, with the late traps of its poisoned columns. -/
def State.readUnits (s : State) : List (Loc × Word) → List Byte × State
  | [] => ([], s)
  | (l, ea) :: rest =>
    let (bs, bad, s) := s.readRaw l 32
    let s := s.lateOpt s.cur s.me.uid (bad.head?.map (fun _ => poisonTrap s.cur.cell l ea))
    let (cs, s) := s.readUnits rest
    (bs ++ cs, s)

/-- CTXSV (14 R285): the image leaves as stores of the strand, or the registers are loaded, in one step (log 10). -/
def execCtxsv (a : SReg) (dir sw : Bool) (s : State) : Out :=
  let ea := s.reg a
  if !s.me.sup then s.priv (.ctxsv a dir sw)
  else if s.me.anyPending [a] || decide (s.me.pend ≠ 0#24) then .next s
  else if addrClass ea = 3 ∨ (parseAddr s.cur.cell ea).isNone then s.trap .addr ea
  else if !isAligned ea 64 then s.trap .align ea
  else match s.checkAll (s.whoAt s.cur) 32 (if dir then .read else .write) (contextUnits ea) with
  | (_, some r, s) => afterCheck r (fun _ _ => .next s)
  | (ls, none, s) =>
    if dir then
      let reads := ls.zip ((contextUnits ea).map Prod.fst)
      match s.accessAll s.cur 32 reads with
      | none => .next (s.sendHeld s.cur 32 reads)
      | some s =>
        let (bs, s) := s.readUnits reads
        (s.upd s.cur (·.loadContext bs)).finish 1 sw
    else if ls.any (fun l => s.blocked s.me.dcls s.cur.cell l) then .next s
    else
      let bs := contextBytes s.me
      let unit (u : Nat) : DWrite := ⟨ea + BitVec.ofNat 64 (32 * u), (bs.drop (32 * u)).take 32⟩
      (s.sendUnits s.cur (ls.zip ((List.range 16).map unit))).finish 1 sw

/-! ### Late traps (17 R315, R316) -/

/-- Enters the pending late trap of a slot. Its EPC is the next instruction, or the wait it leaves. -/
def State.enterLate (s : State) (i : SlotId) : State :=
  match (s.strand i).late with
  | [] => s
  | l :: ls =>
    let s := s.updCell i.cell (fun x => { x with monitors := x.monitors.map (fun (m : Monitor) =>
      if m.slot = i.slot then { m with wait := false } else m) })
    (s.upd i (fun t => { t.enterTrap l.cause true t.pc l.eval l.ehseq with late := ls })).holdFor i 4

/-- LATE_TRAP_ENTRY (17 R315). -/
def execLateTrapEntry (c : Nat) (k : Fin 5) (s : State) : Out :=
  let t := s.strand ⟨c, k⟩
  if t.takesLate && decide (t.hold ≤ s.cycle.toNat) then .next (s.enterLate ⟨c, k⟩) else idle s

/-- SSTEP is entered with EPC at the next instruction (17 R315): it is no late trap. -/
def State.enterStep (s : State) (i : SlotId) : State := s.trapAt i .sstep 0#64

/-! ### The supervisor runtime (17 R314, R317; 23 R367)

The spec gives what the shipped runtime does on each cause and not its code: each act stands for what the code at TVEC does before
its ERET (log 30). -/

def causes : List Cause :=
  [.ill, .priv, .addr, .prot, .privmem, .align, .page, .poison, .spill, .fill, .accbusy, .hiref, .copyf, .order, .trapi, .bkpt,
    .sstep, .lockstep, .handlong, .saveovf, .redfail, .ended]

/-- The cause that the slot's ECAUSE names. -/
def Strand.cause (t : Strand) : Option Cause := causes.find? (fun c => decide (c.code = (t.ecause.extractLsb' 0 8).toNat))

/-- The runtime's ERET. -/
def State.runtimeReturn (s : State) (i : SlotId) : State :=
  s.upd i (fun t => { t.leaveTrap with lastIssue := s.cycle.toNat })

/-- The word of code at a class 2 address. -/
def State.codeWord (s : State) (ea : Word) : IWord :=
  BitVec.ofNat 32 (leNat (s.peek (s.hwLoc (ea.extractLsb' 36 24).toNat (ea.extractLsb' 0 36).toNat) 4))

/-- The words of the instruction at a class 2 address (04 R66). -/
def State.codeWords (s : State) (ea : Word) : List IWord :=
  (List.range (wordCount (s.codeWord ea))).map (fun k => s.codeWord (ea + BitVec.ofNat 64 (4 * k)))

/-- The test build writes ECCINJ for a TRAP whose operand asks for it, with CSRW (23 R367). -/
def State.testTrap (s : State) (i : SlotId) (b : Word) : State :=
  if (s.partOf (s.partAt i.cell)).test ∧ b.extractLsb' 48 16 = 0xECC1#16 ∧ b.extractLsb' 31 17 = 0#17 then
    s.setCsr i 28 (csrValue .write 28 (s.csr i 28) ((b.extractLsb' 0 31).setWidth 64))
  else s

/-- TRAPI: b is reported, and EPC goes past the TRAP. -/
def State.runtimeTrapi (s : State) (i : SlotId) : State :=
  let t := s.strand i
  let n := (s.codeWords t.epc).length
  (((s.testTrap i t.eval).report (s.partAt i.cell) (.trap t.eval)).upd i (fun t =>
    { t with epc := t.epc + BitVec.ofNat 64 (4 * n) })).runtimeReturn i

/-- The runtime counts an error of a partition: 0 transient, 1 lasting, 2 unclassified, 3 of an accumulator. -/
def State.countError (s : State) (part : Nat) (k : Fin 4) : State :=
  s.updPart part (fun p => { p with errors := p.errors.set k (p.errors[k] + 1) })

/-- The VALID bit that step 1 of R317 clears: of the BERR register of the strand's own cell that a KIND 3 record names. -/
def State.clearBerr (s : State) (i : SlotId) : State :=
  let q := (s.strand i).ehseq
  if q.extractLsb' 16 2 = 3#2 ∧ q.extractLsb' 12 4 = 0#4 then
    let n := 24 + (q.extractLsb' 0 2).toNat
    s.setCsr i n (csrValue .clear n (s.csr i n) 0x100000#64)
  else s

/-- POISON (17 R317): the retry read of the failed column says whether the error was transient; its own poison is what it looks for,
and raises no trap more (log 30). -/
def State.runtimePoison (s : State) (i : SlotId) : State :=
  let t := s.strand i
  let part := s.partAt i.cell
  if t.ehseq.extractLsb' 16 2 = 1#2 ∧ addrClass t.eval = 15 then (s.countError part 3).runtimeReturn i
  else
    let ea := t.eval &&& ~~~31#64
    match s.check (s.whoAt i) ea 32 32 .read noPromote with
    | .stall s => s
    | .absent h p s => s.upd i (fun t => { t with status := .parked (.page h p), words := 0 })
    | .bad c ev s => (((s.clearBerr i).countError part 2).report part (.poison ev (some c))).runtimeReturn i
    | .ok l s =>
      match s.access i l 32 ea with
      | none => s.sendHeld i 32 [(l, ea)]
      | some s =>
        let (_, bad, s) := (s.clearBerr i).readRaw l 32
        if bad.isEmpty then (s.countError part 0).runtimeReturn i
        else ((s.countError part 1).report part (.poison ea none)).runtimeReturn i

/-- The runtime ends the grid of the slot's strand. -/
def State.runtimeEnd (s : State) (i : SlotId) (c : Cause) : State :=
  match s.recOf i.cell with
  | some r => s.killGrid r.gridKey c
  | none => s

/-- The runtime issues SPILL or FILL. -/
def State.runtimeMove (s : State) (i : SlotId) (op : WinOp) : State :=
  s.upd i (fun t => { t with status := .parked (.window op), words := 1, marker := false, lastIssue := s.cycle.toNat })

/-- The runtime's act for a cause. A handler's precise trap other than HANDLONG, SPILL and FILL ends the grid; HANDLONG is its
own event. Of SSTEP and BKPT this is what it does with no debugger attached. -/
def State.runtimeAct (s : State) (i : SlotId) (c : Cause) : State :=
  match c with
  | .trapi => if i.slot = 4 then s.runtimeEnd i c else s.runtimeTrapi i
  | .poison => s.runtimePoison i
  | .hiref | .copyf | .redfail | .sstep => s.runtimeReturn i
  | .spill => s.runtimeMove i .spill
  | .fill => s.runtimeMove i .fill
  | .handlong | .saveovf | .ended => s
  | c => s.runtimeEnd i c

/-- The supervisor runtime acts on the trap that a slot has entered: at its entry, or with the ERET after its SPILL or FILL. A trap
taken in the supervisor ends the grid. A lockstep pair takes a checkpoint with the act, as a report leaves the pair (02 R48). -/
def State.runtime (s : State) (i : SlotId) : State :=
  let t := s.strand i
  let entry := t.tvec ++ 0#2
  if t.status ≠ .ready ∨ !t.sup ∨ s.cycle.toNat < t.hold then s
  else if s.mismatched i then s.checkpoint i
  else match t.cause with
    | none => s
    | some c =>
      if t.psup then s.runtimeEnd i c
      else if t.pc = entry then
        let r := s.runtimeAct i c
        if (r.strand i).status = .free then r else r.checkpoint i
      else if t.pc = entry + 4#64 ∧ (c = .spill ∨ c = .fill) then s.runtimeReturn i
      else s

end Sys2Proof.Machine
end

