-- ==== Sys2Proof/Machine/Network.lean ====
section
/-! DEFINITION. Requests reaching memories and packets on the mesh and fabric (01 R20-R30, 07 R129). -/

namespace Sys2Proof.Machine

open Sys2Proof

/-! ### Memories (01 R20) -/

/-- The requests that BANK_ACCESS performs. -/
def Flight.isAccess (f : Flight) : Bool :=
  match f.body with
  | .mem (.load ..) _ _ _ | .mem (.store _) _ _ _ | .mem (.stf ..) _ _ _ => true
  | _ => false

/-- A load or store comes to its memory, or is performed there. -/
def flightAccess (k : Nat) (s : State) : Out :=
  atMemory s k (·.isAccess) (fun f s =>
    match f.body with
    | .mem op l n ea => .next (s.performFlight k f op l n ea)
    | _ => idle s)

/-- BANK_ACCESS (01 R20). -/
def execBankAccess (r : Requester) (s : State) : Out :=
  match r with
  | .flight k => flightAccess k s
  | .copyUnit c i u => copyAccess c i u s
  | .hireWrite t h k => hireWriteAccess t h k s
  | .near c k => nearAccess c k s
  | .blockScale c k => blkAccess c k s
  | .ranking c k => rankAccess c k s

/-- CORRECTED_REWRITE (07 R129): the column is rewritten with the corrected data and fresh check bits. -/
def execCorrectedRewrite (n : Nat) (s : State) : Out :=
  match listGet s.rewrites n with
  | none => idle s
  | some k => .next (s.freshColumn k)

/-! ### Routers (01 R23-R30) -/

/-- One step of a coordinate towards its target. -/
def toward (x y : Nat) : Nat := if x < y then x + 1 else if y < x then x - 1 else x

/-- One hop of a ring of four: the shorter way, and upwards at two hops either way. -/
def ringStep (x y : Nat) : Nat := if (y + 4 - x) % 4 = 3 then (x + 3) % 4 else (x + 1) % 4

/-- The next stop of a dimension-ordered packet: x before y on the mesh and on the fabric. -/
def nextStop (p d : Stop) : Stop :=
  if p.col = d.col then
    let x := p.stop % 4
    let y := p.stop / 4
    if x = d.stop % 4 then ⟨p.col, x + 4 * toward y (d.stop / 4)⟩ else ⟨p.col, toward x (d.stop % 4) + 4 * y⟩
  else
    let x := p.col % 4
    let y := p.col / 4
    if x = d.col % 4 then ⟨x + 4 * ringStep y (d.col / 4), d.stop⟩ else ⟨ringStep x (d.col % 4) + 4 * y, d.stop⟩

/-- The ways round a ring of four that are minimal from x to y, up and down. -/
def ringWays (x y : Nat) : Bool × Bool :=
  let n := (y + 4 - x) % 4
  (decide (n = 1 ∨ n = 2), decide (n = 2 ∨ n = 3))

/-- The outputs on a minimal path, each with its number and the stop it leads to, in the order of the numbers: 0 up in x, 1
down in x, 2 up in y, 3 down in y (log 20). -/
def minimalOutputs (p d : Stop) : List (Nat × Stop) :=
  if p.col = d.col then
    let x := p.stop % 4
    let y := p.stop / 4
    let go (n : Nat) (ok : Bool) (x y : Nat) : List (Nat × Stop) := if ok then [(n, ⟨p.col, x + 4 * y⟩)] else []
    go 0 (decide (x < d.stop % 4)) (x + 1) y ++ go 1 (decide (d.stop % 4 < x)) (x - 1) y
      ++ go 2 (decide (y < d.stop / 4)) x (y + 1) ++ go 3 (decide (d.stop / 4 < y)) x (y - 1)
  else
    let x := p.col % 4
    let y := p.col / 4
    let wx := ringWays x (d.col % 4)
    let wy := ringWays y (d.col / 4)
    let go (n : Nat) (ok : Bool) (x y : Nat) : List (Nat × Stop) := if ok then [(n, ⟨x + 4 * y, d.stop⟩)] else []
    go 0 wx.1 ((x + 1) % 4) y ++ go 1 wx.2 ((x + 3) % 4) y ++ go 2 wy.1 x ((y + 1) % 4) ++ go 3 wy.2 x ((y + 3) % 4)

/-- A packet stands in the mesh or fabric: injected, and not yet at its end. -/
def Flight.routed (f : Flight) : Bool := f.packet && f.heldBy.isNone && !f.waits && f.reached.isNone

/-- How many packets an output has before it: those that stand at the stop it leads to (log 20). -/
def State.occupancy (s : State) (p : Stop) : Nat := (s.net.filter (fun f => f.routed && f.pos == p)).length

/-- The least occupied output, the lower-numbered on a tie. -/
def State.leastOccupied (s : State) : List (Nat × Stop) → Option Stop
  | [] => none
  | (_, p) :: r =>
    match s.leastOccupied r with
    | none => some p
    | some q => if s.occupancy q < s.occupancy p then some q else some p

/-- The next stop of a packet by the rule of its class (01 R29). Which outputs have no room is a free value; an adaptive packet
with none takes the reserved dimension-ordered channel. -/
def State.routeOf (s : State) (f : Flight) : Stop :=
  if s.adapt.getLsbD f.cls.toNat then
    (s.leastOccupied ((minimalOutputs f.pos f.dst).filter (fun o =>
      !Config.outputFull s.tick f.pos.col f.pos.stop o.1))).getD (nextStop f.pos f.dst)
  else nextStop f.pos f.dst

/-- PACKET_HOP (01 R29). What a checkpoint let go on a closed class is injected once the class is open (R30). -/
def execPacketHop (k : Nat) (s : State) : Out :=
  match listGet s.net k with
  | none => idle s
  | some f =>
    if !f.packet || f.heldBy.isSome || f.reached.isSome || decide (f.pos = f.dst) || (f.waits && s.classClosed f.cls) then
      idle s
    else .next { s with net := listSet s.net k { f with pos := s.routeOf f, waits := false } }

/-- DRAINED bit c of the router at a stop (01 R28). -/
def State.drainedAt (s : State) (p : Stop) (c : Nat) : Bool :=
  !s.net.any (fun (f : Flight) => f.routed && f.pos == p && f.cls.toNat == c)

/-- DRAINED bit c of every router. -/
def State.drained (s : State) (c : Nat) : Bool :=
  !s.net.any (fun (f : Flight) => f.routed && f.cls.toNat == c)

/-- CLROUTE_WRITE (01 R30): ADAPT changes only for a class that is closed before and after and drained. -/
def execClrouteWrite (adapt closed : BitVec 8) (s : State) : Out :=
  let ok := (List.range 8).all (fun c =>
    adapt.getLsbD c == s.adapt.getLsbD c || (s.closed.getLsbD c && closed.getLsbD c && s.drained c))
  if ok then .next { s with adapt := adapt, closed := closed } else idle s

end Sys2Proof.Machine
end

