-- ==== Sys2Proof/Machine/Pager.lean ====
section
/-! DEFINITION. The handle walker, the code cache and the firmware pager: translations, fills, moves, evictions, clearing,
handle entries and replicas (04 R372; 07 R132-R139). -/

namespace Sys2Proof.Machine

open Sys2Proof

/-! ### Translations (07 R135, R137) -/

def TlbEntry.ofPage (e : TlbEntry) (h p : Nat) : Bool := e.handle == h && e.page == p

/-- Every cached translation that a property names is removed, with the code lines of its handle's pages. -/
def State.shootdown (s : State) (page : TlbEntry → Bool) (line : CodeLine → Bool) : State :=
  { s with
    hubs := s.hubs.map (fun (e : Nat × Hub) =>
      (e.1, { e.2 with tlb := e.2.tlb.filter (fun x => !page x), code := e.2.code.filter (fun x => !line x) }))
    groups := s.groups.map (fun (e : Nat × Group) => (e.1, { e.2 with l2 := e.2.l2.filter (fun x => !page x) })) }

def State.shootPage (s : State) (h p : Nat) : State :=
  let z := pageSize (s.handle h).psz
  s.shootdown (·.ofPage h p) (fun x => x.handle == h && x.line * 64 / z == p)

def State.shootHandle (s : State) (h : Nat) : State := s.shootdown (fun e => e.handle == h) (fun x => x.handle == h)

/-- TRANSLATION_WALK_COMPLETE (07 R135): the caches of every miss merged into the walk are filled with the page, when it is usable
and present. Walks of one page end in order. -/
def execTranslationWalkComplete (n : Nat) (s : State) : Out :=
  match listGet s.walks n with
  | none => idle s
  | some w =>
    let e := s.handle w.handle
    let x := s.page w.handle w.page
    if (s.walks.take n).any (fun v => v.col == w.col && v.tenant == w.tenant && v.handle == w.handle && v.page == w.page) then idle s
    else
      let s := { s with walks := listErase s.walks n }
      if !e.v || e.tenant.toNat != w.tenant || !x.p then .next s
      else
        let t : TlbEntry := ⟨w.tenant, w.handle, w.page, e.psz.toNat, x.unit.toNat, x.layer.toNat, x.frame.toNat⟩
        .next ((w.who.map Prod.fst).foldl (fun (s : State) tile =>
          (s.updHub tile (fun h => { h with tlb := touch 64 t h.tlb })).updGroup (tile / 16) (fun g =>
            { g with l2 := touch 1024 t g.l2 })) s)

/-! ### The code cache (04 R372) -/

/-- The line moved to the front of the 256 of a code cache. -/
def touchLine (x : CodeLine) (l : List CodeLine) : List CodeLine :=
  (x :: l.filter (fun y => !(y.part == x.part && y.handle == x.handle && y.line == x.line))).take 256

/-- CODE_CACHE_FILL (04 R372): the line is read once its page is present, from the column's replica of a replicated page. A failed
read fills nothing, and is the fetch fault of each strand that waits for the line. -/
def execCodeCacheFill (n : Nat) (s : State) : Out :=
  match listGet s.fills n with
  | none => idle s
  | some f =>
    let z := pageSize (s.handle f.handle).psz
    let x := s.page f.handle (f.line * 64 / z)
    let s := { s with fills := listErase s.fills n }
    if !x.p then .next s
    else
      let (l, s) := s.readPlace (f.tile / 4096) f.handle (f.line * 64)
      let (bs, bad, s) := s.readRaw l 64
      .next (s.updHub f.tile (fun h =>
        if bad.isEmpty then { h with code := touchLine ⟨f.part, f.handle, f.line, bs⟩ h.code }
        else { h with fetchFails := h.fetchFails ++ f.who.map (fun w => ⟨w.1, w.2, f.handle, f.line⟩) }))

/-! ### Fill lists (07 R139) -/

/-- The length that a nibble begins: 15 goes on in the bytes that follow, up to one that is not 255. -/
def lzLength : Nat → List Byte → Option (Nat × List Byte)
  | n, b :: bs => if b = 255#8 then lzLength (n + 255) bs else some (n + b.toNat, bs)
  | _, [] => none
def lzCount (nibble : Nat) (bs : List Byte) : Option (Nat × List Byte) :=
  if nibble < 15 then some (nibble, bs) else lzLength 15 bs

/-- A match: n bytes from dist back in the output, newest first, each visible to the next. -/
def lzMatch (dist : Nat) : Nat → List Byte → List Byte
  | 0, out => out
  | n + 1, out => lzMatch dist n (out.getD (dist - 1) 0#8 :: out)

/-- Decodes an LZ4 block; the output newest first. The count bounds the sequences. -/
def lzDecode : Nat → List Byte → List Byte → Option (List Byte)
  | 0, _, _ => none
  | _ + 1, [], _ => none
  | n + 1, t :: bs, out =>
    match lzCount (t.toNat / 16) bs with
    | none => none
    | some (lit, bs) =>
      if bs.length < lit then none
      else
        let out := (bs.take lit).reverse ++ out
        match bs.drop lit with
        | [] => some out
        | [_] => none
        | x :: y :: bs =>
          let dist := x.toNat + 256 * y.toNat
          match lzCount (t.toNat % 16) bs with
          | none => none
          | some (m, bs) => if dist = 0 ∨ out.length < dist then none else lzDecode n bs (lzMatch dist (m + 4) out)

/-- The bytes of a unit of a layer that handles may hold (00 R1, 07 R143). -/
def layerSize (layer : Nat) : Nat := match layer with | 0 => 3 * 2 ^ 30 | 1 => 60 * 2 ^ 30 | _ => 2 ^ 37

/-- Firmware memory in LPDDR 6, by its byte address (log 21). -/
def firmwareLoc (a : Nat) : Loc := ⟨.lpddr, 2 ^ 20, a⟩

/-- The output of a record; none when the fill fails. Its block lies in a host window of the partition or in LPDDR 6. A length
field of 0 stands for no legal length but the largest of its width (07 R139). The pager reads as a consumer without a type (07
R130). -/
def State.fillRecord (s : State) (part : Nat) (b : List Byte) : Option (List Byte) × State :=
  let src := leWord (b.take 8)
  let clen := leNat ((b.drop 8).take 4)
  let olen := leNat ((b.drop 12).take 3)
  let mode := leNat (b.drop 15)
  if clen = 0 ∨ 65536 < clen ∨ olen = 0 ∨ 65536 < olen then (none, s)
  else
    let place : Option Loc :=
      if addrClass src = 3 ∧ src.extractLsb' 56 4 = 0#4 then s.windowLoc part 0 (src.extractLsb' 0 56).toNat clen .read
      else if src.toNat + clen ≤ 16 * layerSize 2 then some (firmwareLoc src.toNat)
      else none
    match place with
    | none => (none, s)
    | some l =>
      let (d, _, s) := s.readRaw l clen
      match mode with
      | 0 => (if clen = olen then some d else none, s)
      | 1 => ((lzDecode (clen + 1) d []).bind (fun out => if out.length = olen then some out.reverse else none), s)
      | _ => (none, s)

/-- The outputs of n records at a firmware address, in order. -/
def State.fillRecords (s : State) (part a : Nat) : Nat → Option (List Byte) × State
  | 0 => (some [], s)
  | n + 1 =>
    let (b, _, s) := s.readRaw (firmwareLoc a) 16
    match s.fillRecord part b with
    | (none, s) => (none, s)
    | (some x, s) =>
      let (y, s) := s.fillRecords part (a + 16) n
      (y.map (x ++ ·), s)

/-- The bytes with which a page is filled: zeros, or the outputs of its list. -/
def State.fillBytes (s : State) (part fill size : Nat) : Option (List Byte) × State :=
  if fill = 0 then (some [], s)
  else
    let (b, _, s) := s.readRaw (firmwareLoc (16 * fill)) 16
    let n := leNat (b.take 4)
    if n = 0 ∨ 262144 < n ∨ leNat (b.drop 4) ≠ 0 then (none, s)
    else
      let (bs, s) := s.fillRecords part (16 * fill + 16) n
      (bs.filter (fun bs => bs.length == size), s)

/-! ### Frames -/

/-- The page map of a handle holds an entry at a firmware address. -/
def Handle.maps (e : Handle) (k : Nat) : Bool :=
  decide (e.pmap.toNat ≤ k) && decide (k < e.pmap.toNat + 8 * ((e.limit.toNat + 1) / pageSize e.psz))

/-- The handle whose page map holds an entry at a firmware address, a valid one before others. -/
def State.pageOfKey (s : State) (k : Nat) : Option (Nat × Handle) :=
  (s.handles.find? (fun (e : Nat × Handle) => e.2.v && e.2.maps k)).or
    (s.handles.find? (fun (e : Nat × Handle) => e.2.maps k))

/-- The frames in use: layer, unit, base, size and owning partition. -/
def State.framesUsed (s : State) : List (Nat × Nat × Nat × Nat × Nat) :=
  s.pages.filterMap (fun (e : Nat × Page) =>
    if e.2.p then (s.pageOfKey e.1).map (fun q =>
      (e.2.layer.toNat, e.2.unit.toNat, e.2.frame.toNat * 4096, pageSize q.2.psz, q.2.tenant.toNat))
    else none)

/-- A frame that the firmware may give: whole, aligned, inside its unit, in no present page, and of a unit that runs: in minimal
mode those of column 0 (18 R354). -/
def State.frameFree (s : State) (layer unit frame size : Nat) : Bool :=
  let a := frame * 4096
  decide (layer < 3) && a % size == 0 && decide (a + size ≤ layerSize layer) && (!s.minimal || unit == 0)
    && !s.framesUsed.any (fun (l, u, b, n, _) => l == layer && u == unit && decide (a < b + n) && decide (b < a + size))

/-- A partition's share of a layer has room for n bytes more (07 R136, 18 R347); the firmware's own memory is no partition's. -/
def State.shareHolds (s : State) (part layer n : Nat) : Bool :=
  let p := s.partOf part
  let share := match layer with | 0 => p.cap | 1 => p.hbm | _ => p.lpddr
  part == 0 || decide ((s.framesUsed.map (fun (l, _, _, z, t) => if l = layer ∧ t = part then z else 0)).sum + n ≤ share)

def Clearing.meets (c : Clearing) (layer unit base size : Nat) : Bool :=
  c.layer == layer && c.unit == unit && decide (base < c.base + c.size) && decide (c.base < base + size)

/-- Part of a frame is still to be cleared (07 R134). -/
def State.uncleared (s : State) (layer unit base size : Nat) : Bool := s.clearing.any (fun c => c.meets layer unit base size)

/-- An access of the page has been translated and is not yet performed (07 R137): a request or held arrival, the scale bytes of LDF
and STF, an FSHIP that found it in HBM, or a BARARR whose release waits. -/
def State.pageBusy (s : State) (h p : Nat) : Bool :=
  let key := s.pageKey h p
  let hit (ea : Word) : Bool := (s.spotOf ea).any (fun x => x.1 == key)
  s.net.any (fun (f : Flight) => !f.unplaced && f.spans.any (fun x => hit x.2.2))
  || s.cells.any (fun (e : Nat × Cell) => e.2.strands.toList.any (fun t => match t.status with
    | .parked (.release _ (.bararr ea _)) => hit ea
    | _ => false))

/-- A write of the page is on its way to a replica (07 R138). -/
def State.forwarding (s : State) (h p : Nat) : Bool := s.forwards.any (fun f => f.key == s.pageKey h p)

/-- A page's bytes move to another frame; the old one is cleared. -/
def State.moveFrame (s : State) (a b : Loc) (n : Nat) : State := (s.carry a b n).wipe a n

/-! ### The pager (07 R136-R139) -/

/-- Those who wait for a page go on: parked strands issue again, parked hires run again. -/
def State.releasePage (s : State) (h p : Nat) : State :=
  let ws := s.pageWaits.filter (fun (w : PageWait) => w.handle == h && w.page == p)
  ws.foldl (fun (s : State) w =>
    match w.who with
    | .slot i =>
      if (s.strand i).status = .parked (.page h p) then s.upd i (fun t => { t with status := .ready }) else s
    | .hire t seq uid =>
      s.updHub t (fun x => { x with hires := x.hires.map (fun (r : Hire) =>
        if r.seq = seq ∧ r.uid = uid ∧ r.state = .onPage then { r with state := .queued } else r) })
    | _ => s) s

/-- The waits for a page end: with the page present they are gone, otherwise each waiter finds its failure. -/
def State.endWaits (s : State) (h p : Nat) (ok : Bool) : State :=
  let mine (w : PageWait) : Bool := w.handle == h && w.page == p
  { s with pageWaits := if ok then s.pageWaits.filter (fun w => !mine w)
      else (s.pageWaits.filter (fun w => !(mine w && w.who == .host))).map (fun (w : PageWait) =>
        if mine w then { w with failed := true } else w) }

/-- A page is brought to an HBM frame within the partition's share: filled when absent, moved when it lies in another layer. -/
def State.bringPage (s : State) (h p : Nat) (unit : BitVec 4) (frame : BitVec 36) : Option State :=
  let e := s.handle h
  let z := pageSize e.psz
  let x := s.page h p
  let l : Loc := ⟨.hbm, unit.toNat, frame.toNat * 4096⟩
  let dirty := s.uncleared 1 unit.toNat l.addr z
  if !s.frameFree 1 unit.toNat frame.toNat z || !s.shareHolds e.tenant.toNat 1 z then none
  else
    let y : Page := { x with p := true, layer := 1#2, unit := unit, frame := frame, fill := 0 }
    if x.p then
      if x.transit || dirty || s.pageBusy h p then none
      else some (((s.moveFrame (pageLoc x 0) l z).setPage h p y).shootPage h p)
    else match s.fillBytes e.tenant.toNat x.fill z with
    | (none, _) => none
    | (some bs, s) =>
      if dirty && !bs.isEmpty then none
      else some (((s.wipe l z).writeFresh l bs).setPage h p { y with clear := dirty, replicas := [] })

/-- PAGER_RESOLUTION (07 R136, R139): one fill serves every waiter; a failure is each one's PAGE. -/
def execPagerResolution (n : Nat) (ok : Bool) (unit : BitVec 4) (frame : BitVec 36) (s : State) : Out :=
  match listGet s.pageWaits n with
  | none => idle s
  | some w =>
    if w.failed then idle s
    else
      let h := w.handle
      let p := w.page
      let x := s.page h p
      if x.p && x.layer == 1#2 then .next ((s.releasePage h p).endWaits h p true)
      else if !ok then .next ((s.releasePage h p).endWaits h p false)
      else match s.bringPage h p unit frame with
      | none => idle s
      | some s => .next ((s.releasePage h p).endWaits h p true)

/-- PAGE_MOVE (07 R137): TRANSIT is set and the page's translations are shot down. -/
def execPageMove (h p : Nat) (s : State) : Out :=
  let x := s.page h p
  if !x.p || x.transit || x.clear then idle s
  else .next ((s.setPage h p { x with transit := true }).shootPage h p)

/-- PAGE_MOVE_COMMIT (07 R137): once every access translated under the old entry has been performed. A replicated page keeps its
home copy in HBM (R138). -/
def execPageMoveCommit (h p : Nat) (layer : BitVec 2) (unit : BitVec 4) (frame : BitVec 36) (s : State) : Out :=
  let x := s.page h p
  let z := pageSize (s.handle h).psz
  let y : Page := { x with transit := false, layer := layer, unit := unit, frame := frame }
  let e := s.handle h
  if !x.p || !x.transit || s.pageBusy h p || !s.frameFree layer.toNat unit.toNat frame.toNat z
      || (e.repl && layer != 1#2) || (layer != x.layer && !s.shareHolds e.tenant.toNat layer.toNat z)
      || s.uncleared layer.toNat unit.toNat (frame.toNat * 4096) z then idle s
  else .next (((s.moveFrame (pageLoc x 0) (pageLoc y 0) z).setPage h p y).shootPage h p)

/-- The bytes of a page are those that a fill list gives: no write is lost (DEDUCED, log 59). -/
def State.keptFrame (s : State) (h p fill : Nat) : Bool :=
  let e := s.handle h
  let z := pageSize e.psz
  let now := s.peek (pageLoc (s.page h p) 0) z
  match (s.fillBytes e.tenant.toNat fill z).1 with
  | none => false
  | some [] => now.all (· == 0#8)
  | some bs => bs == now

/-- PAGE_EVICT (07 R137), in its two steps: TRANSIT is set and the page's translations are shot down; then P clears, once every
translated access has been performed, with a fill list that gives the page's bytes again. Of a replicated page the replicas go too,
once every write has come to them (DESIGN CHOICE, log 61). -/
def execPageEvict (h p fill : Nat) (s : State) : Out :=
  let x := s.page h p
  if !x.p || x.clear then idle s
  else if !x.transit then .next ((s.setPage h p { x with transit := true }).shootPage h p)
  else if s.pageBusy h p || s.forwarding h p || !s.keptFrame h p fill then idle s
  else
    let z := pageSize (s.handle h).psz
    let s := x.replicas.foldl (fun (s : State) r => s.wipe (replicaLoc r.1 r.2 0) z) ((s.shootPage h p).wipe (pageLoc x 0) z)
    .next (s.setPage h p { Page.zero with fill := fill, held := x.held })

/-- PAGE_CLEAR_COMPLETE (07 R134). -/
def execPageClearComplete (h p : Nat) (s : State) : Out :=
  let x := s.page h p
  if !x.clear then idle s
  else
    let z := pageSize (s.handle h).psz
    let s := s.setPage h p { x with clear := false }
    .next { s with clearing := s.clearing.filter (fun c => !c.meets x.layer.toNat x.unit.toNat (x.frame.toNat * 4096) z) }

/-! ### Handle entries (07 R132, 05 R90) -/

/-- The entry that four dwords describe. -/
def handleOf (d0 d1 d2 d3 : Word) : Handle where
  v := d0.getLsbD 0
  pr := d0.getLsbD 1
  pw := d0.getLsbD 2
  px := d0.getLsbD 3
  priv := d0.getLsbD 4
  psz := d0.extractLsb' 5 3
  repl := d0.getLsbD 8
  scl := d0.getLsbD 9
  geo := d0.extractLsb' 10 2
  fmt := d0.extractLsb' 12 4
  tenant := d0.extractLsb' 16 5
  wid := d0.extractLsb' 24 24
  limit := d1.extractLsb' 0 36
  pmap := d2
  ext := d3

/-- The must-be-zero bits of the four dwords. -/
def handleZeros (d0 d1 d2 : Word) : Bool :=
  d0.extractLsb' 21 3 == 0#3 && d0.extractLsb' 48 16 == 0#16 && d1.extractLsb' 36 28 == 0#28 && d2.extractLsb' 0 12 == 0#12

/-- WID and GEO agree (05 R90). -/
def Handle.geometryOk (e : Handle) : Bool :=
  let w := e.wid.toNat
  match e.geo.toNat with
  | 0 => w % 256 == 0
  | 1 => w % 16 == 0
  | _ => true

/-- A 256×1 handle holds whole bands of 256 rows (05 R90). -/
def Handle.bandsOk (e : Handle) : Bool :=
  if e.geo = 2#2 then
    let elems := (e.limit.toNat + 1) * 8 / elemBits e.fmt.toNat
    elems % (256 * e.wid.toNat) == 0
  else true

/-- The conditions under which the walker accepts an entry (07 R132). -/
def State.acceptsHandle (s : State) (e : Handle) : Bool :=
  let fmt := e.fmt.toNat
  let scale := s.handle (e.ext.extractLsb' 36 24).toNat
  e.psz != 7#3 && e.geo != 3#2 && (decide (fmt ≤ 8) || fmt == 15) && decide (e.tenant.toNat ≤ 16)
    && (e.limit.toNat + 1) % pageSize e.psz == 0
    && (if e.scl then
        !e.priv && (fmt == 3 || fmt == 4 || fmt == 7) && e.wid != 0#24 && addrClass e.ext == 2 && scale.v
          && scale.tenant == e.tenant && scale.pr && e.geometryOk && e.bandsOk
      else fmt != 7 && (if e.priv then e.ext.extractLsb' 24 40 == 0#40 else e.ext == 0#64))

/-- A registered image, or the code handle of one: its PW stays clear until the image is retired (18 R340). -/
def State.pwHeld (s : State) (h : Nat) : Bool :=
  s.images.any (fun (e : Nat × Image) => e.1 == h || e.2.code.toNat == h)

/-- HANDLE_ENTRY_COMMIT (07 R132): accepted, or refused, left with V = 0 and reported to the firmware. An entry that a request frees
is not written before that is over (18 R337). -/
def execHandleEntryCommit (h : Nat) (d0 d1 d2 d3 : Word) (s : State) : Out :=
  let e := handleOf d0 d1 d2 d3
  if h = 0 ∨ 2 ^ 24 ≤ h ∨ (!(s.handle h).v && s.handleUsed h) then idle s
  else if !e.v then .next ({ s with handles := s.handles.set h { e with v := false } }.shootHandle h)
  else if handleZeros d0 d1 d2 && s.acceptsHandle e then
    .next ({ s with handles := s.handles.set h { e with pw := e.pw && !s.pwHeld h } }.shootHandle h)
  else
    .next ({ s with handles := s.handles.set h { (s.handle h) with v := false }, badHandles := s.badHandles ++ [h] }.shootHandle h)

/-- REPLICA_FORWARD (07 R138): the replica takes the write and acknowledges. Writes of one location come to it in the order in which
the home copy performed them (15 R287). -/
def execReplicaForward (n : Nat) (s : State) : Out :=
  match listGet s.forwards n with
  | none => idle s
  | some f =>
    if (s.forwards.take n).any (fun g => g.col == f.col && g.meets f.key f.off f.data.length) then idle s
    else
      let s := { s with forwards := listErase s.forwards n }
      match (s.pages.get Page.zero f.key).replica f.col f.off with
      | some l => .next (s.writeColumn 0 l f.data).2
      | none => .next s

end Sys2Proof.Machine
end

