-- ==== Sys2Proof/Machine/Bind.lean ====
section
/-! DEFINITION. Dispatch and the binder: slots, teams, dependences and quanta (08 R156-R158; 16 R305-R311; 18 R340). -/

namespace Sys2Proof.Machine

open Sys2Proof

/-! ### Dispatch (08 R156-R158) -/

/-- A team index of its strand j of a cell (02 R37). -/
def strandIndex (r : BindRec) (c j : Nat) : Nat := teamCellIndex r c * (r.sm1.toNat + 1) + j

def BindRec.strands (r : BindRec) : Nat := 16 * (r.wm1.toNat + 1) * (r.hm1.toNat + 1) * (r.sm1.toNat + 1)

/-- The conditions under which dispatch accepts a record (08 R158). -/
def BindRec.accepted (r : BindRec) : Bool :=
  r.v && decide (r.x0.toNat + r.wm1.toNat ≤ 15) && decide (r.y0.toNat + r.hm1.toNat ≤ 15) && decide (1 ≤ r.part.toNat)
    && decide (r.part.toNat ≤ 16) && !(r.lock && r.die) && r.first == 0#14 && r.last.toNat + 1 == r.strands
    && r.rsvd == 0#91

/-- A launch argument, dword k at ARGS (08 R157), its column checked; with the late POISON of a poisoned one, which the strand takes
that it is for (DESIGN CHOICE, log 45). -/
def State.launchArg (s : State) (part : Nat) (args : Word) (k : Nat) : Word × List LateTrap × State :=
  let ea := args + BitVec.ofNat 64 (8 * k)
  let h := (ea.extractLsb' 36 24).toNat
  let off := (ea.extractLsb' 0 36).toNat
  let e := s.handle h
  if addrClass ea = 2 ∧ e.v ∧ e.tenant.toNat = part ∧ e.pr ∧ ¬ e.priv ∧ off + 8 ≤ e.limit.toNat + 1 then
    let l := s.hwLoc h off
    let (bs, bad, s) := s.readRaw l 8
    (leWord bs, (bad.take 1).map (fun _ => poisonTrap 0 l ea), s)
  else (Config.unreadArg ea, [], s)

/-- The launch arguments from number k on, n of them. -/
def State.launchArgs (s : State) (part : Nat) (args : Word) (k : Nat) : Nat → List Word × List LateTrap × State
  | 0 => ([], [], s)
  | n + 1 =>
    let (v, ls, s) := s.launchArg part args k
    let (vs, ms, s) := s.launchArgs part args (k + 1) n
    (v :: vs, ls ++ ms, s)

/-- The first absent page of the launch arguments. -/
def State.argsAbsent (s : State) (args : Word) : Option (Nat × Nat) :=
  let h := (args.extractLsb' 36 24).toNat
  if addrClass args = 2 ∧ (s.handle h).v then s.hwAbsent h (args.extractLsb' 0 36).toNat 56 else none

/-- The strand of slot j of a cell of a team that is first bound, with the launch arguments. -/
def State.teamStrand (s : State) (r : BindRec) (c j : Nat) (args : List Word) (late : List LateTrap) : Strand :=
  let ix := strandIndex r c j
  { freshStrand r s.uids with
    pc := r.entry
    sp := stackTop (r.stkh.toNat + ix) (s.imageOf r).stackSize
    splh := handleAddr (BitVec.ofNat 24 (r.splh.toNat + ix)) 0
    ra := argRegs args
    sidx := BitVec.ofNat 14 ix
    team := r.team
    late := late
    lastIssue := s.cycle.toNat }

/-- A lockstep pair's first checkpoint: its strands as created or restored, an empty log (02 R48, 17 R331). -/
def State.armPair (s : State) (p : Nat) : State :=
  let n := s.pairCount p
  s.updPair p (fun q => { q.keep (s.cell p) ((s.group (groupOf p)).walksOf p) n with diverged := false, checkpoints := 0 })

/-- The bytes that the column core has allocated to a team's save image. -/
def State.imageLimit (s : State) (r : BindRec) : Nat := (s.handle (r.save.extractLsb' 36 24).toNat).limit.toNat + 1

/-- LIMIT of the image (17 R322). -/
def State.setImageLimit (s : State) (r : BindRec) : State :=
  (s.writeColumn 0 (s.hwLoc (r.save.extractLsb' 36 24).toNat 0x10) (leBytes 8 (s.imageLimit r))).2

/-- A team whose last slot is bound: its creation is complete, and its residence begins (16 R308). -/
def State.created (s : State) (g rec : Nat) : State :=
  if s.allBound g rec (s.bindRec g rec) then s.updRec g rec (fun r => { r with since := s.cycle.toNat }) else s

/-- SLOT_BIND (08 R156): V is set and dispatch creates the strand. A rejected record binds nothing and is reported to the column
core (R158), and a record to restore waits for TEAM_RESTORE. -/
def execSlotBind (g i : Nat) (rec : BitVec 8) (s : State) : Out :=
  let r := s.bindRec g rec.toNat
  let c := g * 4096 + i / 4
  let j := i % 4
  let k : Fin 5 := Fin.ofNat 5 j
  if r.v && !r.accepted then
    if s.badBinds.contains (g, rec.toNat) then idle s else .next { s with badBinds := s.badBinds ++ [(g, rec.toNat)] }
  else if !r.v || !(cellsOf g r).contains c || decide (r.sm1.toNat < j) || decide ((s.cell c).bind ≠ some (g, rec.toNat))
      || ((s.sg g).slots.get SlotEntry.zero i).v then idle s
  else
    let set (s : State) : State := s.updSg g (fun h => { h with slots := h.slots.set i ⟨rec, true⟩ })
    if r.rst then .next (set s)
    else if !s.slotFree c k then idle s
    else match (s.argsAbsent r.args).or (s.hwAbsent (r.save.extractLsb' 36 24).toNat 0 64) with
    | some (h, p) => .next (s.askPager .host h p)
    | none =>
      if s.hwHeld (r.save.extractLsb' 36 24).toNat 0 64 then idle s
      else
        let s := { (set s).setImageLimit r with uids := s.uids + 1 }
        let (args, late, s) := s.launchArgs r.part.toNat r.args 0 7
        let s := s.setStrand ⟨c, k⟩ (s.teamStrand r c j args late)
        let s := s.created g rec.toNat
        .next (if r.lock then s.armPair (pairOf c) else s)

/-! ### Rectangles (16 R306) -/

/-- The super-group hubs of a partition in the binder's order: column, super-group, die. -/
def Part.hubs (p : Part) (lock : Bool) : List Nat :=
  (List.range 16).flatMap (fun col => (List.range 5).flatMap (fun k =>
    if p.pairs.getLsbD (5 * col + k) then
      (if lock then [col * 16 + k] else [col * 16 + k, col * 16 + 8 + k])
    else []))

/-- A tile holds no team, and no pair of it is fenced off (02 R48). -/
def State.tileFree (s : State) (t : Nat) : Bool :=
  (s.cell (16 * t)).bind.isNone && !s.pairs.any (fun (e : Nat × Pair) => e.2.fenced && bondOf (tileOf e.1) == bondOf t)

/-- The rectangle with an origin is free; of a lockstep team on both dies. -/
def State.rectFree (s : State) (g x y w h : Nat) (lock : Bool) : Bool :=
  (List.range h).all (fun j => (List.range w).all (fun i =>
    let t := g * 256 + (y + j) * 16 + (x + i)
    s.tileFree t && (!lock || s.tileFree (twinTile t))))

/-- The first free rectangle of a shape in a list of hubs: hub, x and y. -/
def State.firstRect (s : State) (w h : Nat) (lock : Bool) (hubs : List Nat) : Option (Nat × Nat × Nat) :=
  hubs.findSome? (fun g => (List.range (17 - h)).findSome? (fun y => (List.range (17 - w)).findSome? (fun x =>
    if s.rectFree g x y w h lock then some (g, x, y) else none)))

/-- The rectangle that a pending entry may take. A team bound before stays in its super-group unless it may move. -/
def State.rectFor (s : State) (pt : Nat) (e : PendEntry) : Option (Nat × Nat × Nat) :=
  let p := s.partOf pt
  match e with
  | .grid id =>
    let x := s.grid (gridKey pt id)
    s.firstRect (x.wm1.toNat + 1) (x.hm1.toNat + 1) x.lock (p.hubs x.lock)
  | .saved _ t =>
    let r := t.record
    s.firstRect (r.wm1.toNat + 1) (r.hm1.toNat + 1) r.lock (if r.move then p.hubs r.lock else [r.homeSg])

/-! ### The pending list (16 R305, R307) -/

/-- A dependence is met: a bind dependence once every team of the producer has been bound, a completion dependence (marked
by 65,536) once it has ended; one that names no live grid is met. It is looked at again at every bind, so a grid that takes the
number later is waited for (DESIGN CHOICE, log 67). -/
def State.depMet (s : State) (pt d : Nat) : Bool :=
  let key := gridKey pt (d % 65536)
  !s.gridLive key || (decide (d < 65536) && decide ((s.grid key).teams ≤ (s.grid key).bound))

/-- A dependence holds the entry; a team bound before is not held. -/
def State.entryHeld (s : State) (pt : Nat) : PendEntry → Bool
  | .grid id => !(s.grid (gridKey pt id)).deps.all (s.depMet pt)
  | .saved _ _ => false

/-- The head: the first entry that no dependence holds, with its place in the list. -/
def State.headEntry (s : State) (pt : Nat) : Option (Nat × PendEntry) :=
  let l := (s.partOf pt).pending
  match listFind (fun e => !s.entryHeld pt e) l with
  | none => none
  | some k => (listGet l k).map (fun e => (k, e))

/-! ### Binding (16 R306, 18 R340) -/

/-- The bytes of a handle from an offset that is a multiple of 64, in runs of 64, their columns checked (07 R129), and
whether one of them was poisoned. -/
def State.hwRead (s : State) (h off : Nat) : Nat → List Byte × Bool × State
  | 0 => ([], false, s)
  | n + 1 =>
    let (bs, bad, s) := s.readRaw (s.hwLoc h off) 64
    let (rest, bads, s) := s.hwRead h (off + 64) n
    (bs ++ rest, !bad.isEmpty || bads, s)

/-- A class table entry (08 R154). -/
def classOf (d : Nat) : ClassEntry := ⟨decide (d % 2 = 1), BitVec.ofNat 62 (d / 4)⟩

/-- A cell of a newly bound team: registers of the cell at zero, the class table and local memory from the image. -/
def State.initCell (s : State) (x : Image) (data : List Byte) (b : Nat × Nat) (c : Nat) : State :=
  let s := s.wipe ⟨.local, c, 0⟩ 0xC000
  let s := s.poke ⟨.local, c, 0⟩ data
  s.updCell c (fun y => { y.fresh with
    bind := some b
    classes := Vector.ofFn (fun (k : Fin 8) => classOf (x.field (0x40 + 8 * k.val) 8)) })

/-- The handles that the column core makes for a team of n strands on cs cells: stacks, spill handles, the deque and the
save image, at base and after (06 R109; 08 R155, R157). The last two are the firmware's own. -/
def State.makeTeamHandles (s : State) (r : BindRec) (base n cs save : Nat) : State :=
  let s := (List.range n).foldl (fun (s : State) k => s.makeStacks r (base + k) (base + n + k)) s
  let own (size : Nat) : Handle :=
    { Handle.zero with v := true, pr := true, pw := true, fmt := 15#4, limit := BitVec.ofNat 36 (size - 1) }
  (s.setHandle (base + 2 * n) (own (65536 * cs))).setHandle (base + 2 * n + 1) (own ((save / 4096 + 1) * 4096))

/-- The bind record of a team of a grid that is first bound. -/
def State.newRecord (s : State) (pt id g x y base : Nat) : BindRec :=
  let q := s.grid (gridKey pt id)
  let n := 16 * (q.wm1.toNat + 1) * (q.hm1.toNat + 1) * (q.sm1.toNat + 1)
  { BindRec.zero with
    v := true
    lock := q.lock
    move := q.move
    prio := q.prio
    dcls := q.dcls
    part := BitVec.ofNat 5 pt
    x0 := BitVec.ofNat 4 x
    y0 := BitVec.ofNat 4 y
    wm1 := q.wm1
    hm1 := q.hm1
    sm1 := q.sm1
    die := decide (dieOf (g * 4096) = 1)
    team := BitVec.ofNat 16 q.bound
    first := 0#14
    last := BitVec.ofNat 14 (n - 1)
    grid := BitVec.ofNat 16 id
    tvec := Config.runtimeEntry (s.partOf pt).test
    entry := q.entry
    stkh := BitVec.ofNat 24 base
    splh := BitVec.ofNat 24 (base + n)
    args := q.args
    save := handleAddr (BitVec.ofNat 24 (base + 2 * n + 1)) 0
    dqh := BitVec.ofNat 24 (base + 2 * n)
    homeSg := g
    homeX := BitVec.ofNat 4 x
    homeY := BitVec.ofNat 4 y
    since := s.cycle.toNat }

/-- Handle numbers base to base + n - 1 name no object. -/
def State.runFree (s : State) (base n : Nat) : Bool :=
  decide (0 < base) && decide (base + n ≤ 2 ^ 24)
    && !s.handles.any (fun (e : Nat × Handle) => s.handleUsed e.1 && decide (base ≤ e.1) && decide (e.1 < base + n))

/-- y0-y3 of a pair read zero after a bind (06 R110). -/
def State.clearPairY (s : State) (p : Nat) : State :=
  let zeros : Vector Word 4 := Vector.replicate 4 0#64
  if (s.pair p).y = zeros ∧ (s.pair p).savedY = zeros then s
  else s.updPair p (fun q => { q with y := zeros, savedY := zeros, yw := Vector.replicate 4 none })

/-- The record is written and its cells are made ready. A poisoned column of the image's local bytes comes as the pattern (07 R130). -/
def State.placeTeam (s : State) (g rec : Nat) (r : BindRec) : State :=
  let x := s.imageOf r
  let image := (s.grid r.gridKey).image
  let len := x.field 0x1C 4
  let (data, _, s) := s.hwRead image (x.field 0x18 4) (len / 64 + 1)
  let s := s.updRec g rec (fun _ => r)
  (occupies g r).foldl (fun (s : State) c => (s.initCell x (data.take len) (g, rec) c).clearPairY (pairOf c)) s

/-- The first absent page of the image's local bytes. -/
def State.imageAbsent (s : State) (r : BindRec) : Option (Nat × Nat) :=
  let x := s.imageOf r
  if x.field 0x1C 4 = 0 then none else s.hwAbsent (s.grid r.gridKey).image (x.field 0x18 4) (x.field 0x1C 4)

/-- BIND_TEAM (16 R305, R306): the head of the pending list takes the first free rectangle of its shape. -/
def execBindTeam (pt g : Nat) (die : Bool) (x0 y0 : BitVec 4) (rec : BitVec 8) (hbase : BitVec 24) (s : State) : Out :=
  match s.headEntry pt with
  | none => idle s
  | some (n, e) =>
    let x := x0.toNat
    let y := y0.toNat
    if s.rectFor pt e ≠ some (g, x, y) ∨ die ≠ decide (dieOf (g * 4096) = 1) ∨ (s.bindRec g rec.toNat).v then idle s
    else match e with
    | .grid id =>
      let r := s.newRecord pt id g x y hbase.toNat
      let size := r.strands
      match s.imageAbsent r with
      | some (h, p) => .next (s.askPager .host h p)
      | none =>
        if !s.runFree hbase.toNat (2 * size + 2) then idle s
        else
          let key := gridKey pt id
          let s := s.makeTeamHandles r hbase.toNat size (size / (r.sm1.toNat + 1)) (Config.saveBytes key r.team.toNat)
          let s := s.updGrid key (fun q => { q with bound := q.bound + 1 })
          let s := s.updPart pt (fun p => { p with
            stall := 0
            pending := if (s.grid key).bound < (s.grid key).teams then p.pending else listErase p.pending n })
          .next (s.placeTeam g rec.toNat r)
    | .saved _ t =>
      let r : BindRec := { t.record with
        v := true, rst := true, saving := 0, x0 := x0, y0 := y0, die := die, since := s.cycle.toNat }
      match s.imageAbsent r with
      | some (h, p) => .next (s.askPager .host h p)
      | none =>
        let s := s.updPart pt (fun p => { p with stall := 0, pending := listErase p.pending n })
        let s := s.placeTeam g rec.toNat r
        .next (s.updSg g (fun h => { h with restores := h.restores.set rec.toNat t }))

/-! ### Quanta and idle teams (16 R308-R311) -/

def Part.quantum (p : Part) : Nat := 2 ^ p.qshift.toNat

/-- The bound teams of a partition. -/
def State.teamsOf (s : State) (pt : Nat) : List (Nat × Nat) := s.teamsWhere (fun r => r.part.toNat == pt)

/-- The rectangle of a team counted as free: the entry would have one. -/
def State.frees (s : State) (pt : Nat) (e : PendEntry) (g rec : Nat) : Bool :=
  let r := s.bindRec g rec
  let t := (occupies g r).foldl (fun (s : State) c => s.updCell c (fun x => { x with bind := none })) s
  (t.rectFor pt e).isSome

/-- A team whose saving would let an entry be bound: its slots are all bound, it is not being saved, and it frees a rectangle for
the entry. -/
def State.candidate (s : State) (pt : Nat) (e : PendEntry) (q : Nat × Nat) : Bool :=
  let r := s.bindRec q.1 q.2
  r.v && r.saving == 0 && s.allBound q.1 q.2 r && !(s.sg q.1).restores.any (fun (x : Nat × SavedTeam) => x.1 == q.2)
    && s.frees pt e q.1 q.2

/-- A team has residence of a quantum at the boundary (16 R309). -/
def Part.resident (p : Part) (r : BindRec) : Bool := decide (r.since + p.quantum ≤ p.quantaAt)

/-- A strand stalls on a register: its next instruction reads or writes it (02 R32). -/
def State.stalledOn (s : State) (t : Strand) (r : SReg) : Bool :=
  match decode (s.codeWords t.pc) with
  | .ok (x, _) => (Instr.reads x ++ Instr.writes x).contains (.s r)
  | .error _ => false

/-- The tokens of a strand's launches whose grids have not ended. -/
def State.launchRegs (s : State) (uid : Nat) : List SReg :=
  let reg (n : Notify) : Option SReg := match n with | .token _ u d => if u = uid then some d else none | _ => none
  s.launches.filterMap (fun (l : DevLaunch) => reg l.grid.notify)
    ++ s.grids.filterMap (fun (e : Nat × Grid) => reg e.2.notify)

/-- A strand waits in one of the waits of R310, or stalls on the pending token of a launch, for longer than a quantum. -/
def State.idleStrand (s : State) (t : Strand) (quantum : Nat) : Bool :=
  t.status == .free || (decide (t.lastIssue + quantum < s.cycle.toNat) && (match t.status with
    | .parked (.waita _ _) | .parked (.waitt _ _) | .parked (.sleep _) | .parked (.barwait _ _) | .parked (.join _ _)
    | .parked (.take .take _ _ _) | .parked (.twwait _ _) => true
    | .ready => !t.sup && addrClass t.pc == 2
        && (s.launchRegs t.uid).any (fun d => t.pending d && s.stalledOn t d)
    | _ => false))

/-- Every strand of a team is idle; one that waits in an arrival queue is in none of those waits. -/
def State.idleTeam (s : State) (q : Nat × Nat) (quantum : Nat) : Bool :=
  (cellsOf q.1 (s.bindRec q.1 q.2)).all (fun c => (s.cell c).goQueue.isEmpty && (List.finRange 5).all (fun (k : Fin 5) =>
    s.idleStrand ((s.cell c).strands[k]) quantum))

/-- An idle team is a victim at any cycle (16 R310), and another at a boundary when it has residence (16 R309). -/
def State.victimOk (s : State) (pt : Nat) (e : PendEntry) (idleOnly : Bool) (q : Nat × Nat) : Bool :=
  let p := s.partOf pt
  let r := s.bindRec q.1 q.2
  !r.noswap && s.candidate pt e q && (if idleOnly then s.idleTeam q p.quantum else p.resident r)

/-- The order of victims: longest residence, then lowest grid, then lowest team number. -/
def BindRec.precedes (a b : BindRec) : Bool :=
  decide (a.since < b.since) || (a.since == b.since && (decide (a.grid.toNat < b.grid.toNat)
    || (a.grid == b.grid && decide (a.team.toNat < b.team.toNat))))

/-- No qualifying team of the partition comes before this one. -/
def State.firstVictim (s : State) (pt : Nat) (e : PendEntry) (idleOnly : Bool) (q : Nat × Nat) : Bool :=
  (s.teamsOf pt).contains q && s.victimOk pt e idleOnly q && !(s.teamsOf pt).any (fun o => o != q
    && s.victimOk pt e idleOnly o && (s.bindRec o.1 o.2).precedes (s.bindRec q.1 q.2))

/-- A team of the partition is being saved. -/
def State.swapping (s : State) (pt : Nat) : Bool := (s.teamsOf pt).any (fun o => (s.bindRec o.1 o.2).saving != 0)

/-- An entry for which a boundary makes room: a team that has been saved since the boundary waits for the next one, as in the
worked example of R311. -/
def Part.rotatesFor (p : Part) : PendEntry → Bool
  | .grid _ => true
  | .saved _ t => decide (t.record.since < p.quantaAt)

/-- The head of the pending list cannot be bound, and no save is under way: the entry for which a victim is looked for. -/
def State.stuckHead (s : State) (pt : Nat) : Option PendEntry :=
  match s.headEntry pt with
  | some (_, e) => if s.swapping pt || (s.rectFor pt e).isSome then none else some e
  | none => none

/-- QUANTUM_BOUNDARY (16 R309): the save of the victim is asked for, one at a time, as long as the head cannot be bound. Idle
teams go first (16 R312). -/
def execQuantumBoundary (pt g : Nat) (rec : BitVec 8) (s : State) : Out :=
  let p := s.partOf pt
  let q := (g, rec.toNat)
  match s.stuckHead pt with
  | none => idle s
  | some e =>
    if p.live && p.rotating && p.rotatesFor e && s.firstVictim pt e false q
        && !(s.teamsOf pt).any (s.victimOk pt e true) then
      .next (s.updRec g rec.toNat (fun r => { r with saving := 1 }))
    else idle s

/-- IDLE_TEAM_SWAP (16 R310): at any cycle while an entry waits. -/
def execIdleTeamSwap (g : Nat) (rec : BitVec 8) (s : State) : Out :=
  let pt := (s.bindRec g rec.toNat).part.toNat
  match s.stuckHead pt with
  | none => idle s
  | some e =>
    if s.firstVictim pt e true (g, rec.toNat) then .next (s.updRec g rec.toNat (fun r => { r with saving := 1 })) else idle s

/-- A quantum of a partition begins: victims are chosen, and quanta through which NOSWAP alone keeps the head unbound are
counted (16 R309, R311): at the boundary that first finds it stuck the count is 1 (DESIGN CHOICE, log 68). -/
def State.beginQuantum (s : State) (pt : Nat) : State :=
  let n := s.cycle.toNat
  let s := s.updPart pt (fun q => { q with quantaAt := n, rotating := true })
  let p := s.partOf pt
  let may (e : PendEntry) : List (Nat × Nat) := (s.teamsOf pt).filter (fun q =>
    s.candidate pt e q && (p.resident (s.bindRec q.1 q.2) || s.idleTeam q p.quantum))
  let stuck : Option PendEntry := (s.stuckHead pt).filter (fun e =>
    !(may e).isEmpty && (may e).all (fun q => (s.bindRec q.1 q.2).noswap))
  s.updPart pt (fun q => { q with
    stall := if stuck.isNone then 0 else if stuck = q.stallHead then q.stall + 1 else 1
    stallHead := stuck })

/-- At the clock's turn the rotation of a boundary ends when it can choose no victim more. -/
def State.endRotation (s : State) (pt : Nat) : State :=
  let p := s.partOf pt
  let goesOn : Bool := s.swapping pt || (match s.headEntry pt with
    | none => false
    | some (_, e) => (s.rectFor pt e).isSome || (p.rotatesFor e && (s.teamsOf pt).any (s.victimOk pt e false)))
  if p.rotating && !goesOn then s.updPart pt (fun q => { q with rotating := false }) else s

/-- BINDING_STALL_REPORT (16 R311): every 64 quanta, with the head's GRID. -/
def execBindingStallReport (pt : Nat) (s : State) : Out :=
  let p := s.partOf pt
  match p.stallHead with
  | none => idle s
  | some e =>
    if p.stall < 64 then idle s
    else .next ((s.report pt (.bindingStall (gridKey pt e.gridId))).updPart pt (fun p => { p with stall := p.stall - 64 }))

end Sys2Proof.Machine
end

