-- ==== Sys2Proof/Machine/Save.lean ====
section
/-! DEFINITION. The save engine: the save image of a team (17 R320-R329; 12 R236), the save and the restore (17 R330, R331).
What the image has no place for goes with the pending entry (log 22). -/

namespace Sys2Proof.Machine

open Sys2Proof

/-! ### Records as bytes -/

/-- n bytes: pieces at rising offsets, zeros elsewhere. -/
def layoutFrom (n : Nat) : Nat → List (Nat × List Byte) → List Byte
  | pos, [] => List.replicate (n - pos) 0#8
  | pos, (off, bs) :: r => List.replicate (off - pos) 0#8 ++ bs ++ layoutFrom n (off + bs.length) r

def layout (n : Nat) (ps : List (Nat × List Byte)) : List Byte := layoutFrom n 0 ps

/-- Dword k of a record's words at an offset. -/
def wordAt (bs : List Byte) (off : Nat) : Word := leWord ((bs.drop off).take 8)
/-- n bytes at an offset as a number. -/
def natAt (bs : List Byte) (off n : Nat) : Nat := leNat ((bs.drop off).take n)

def bit (b : Bool) : Nat := if b then 1 else 0

/-- Dword 0 of a bind record (08 R157). -/
def BindRec.dword0 (r : BindRec) : Nat :=
  bit r.v + 2 * bit r.lock + 4 * bit r.move + 8 * bit r.prio + 16 * bit r.noswap + 2 ^ 5 * r.dcls.toNat
    + 2 ^ 8 * r.part.toNat + 2 ^ 13 * bit r.rst + 2 ^ 16 * r.x0.toNat + 2 ^ 20 * r.y0.toNat + 2 ^ 24 * r.wm1.toNat
    + 2 ^ 28 * r.hm1.toNat + 2 ^ 32 * r.sm1.toNat + 2 ^ 34 * bit r.die + 2 ^ 48 * r.team.toNat

/-! ### Strand records (17 R323) -/

/-- What the WAIT field and the wait operands say of a wait. -/
def Wait.image : Wait → Nat × Word × Word
  | .results => (1, 0#64, 0#64)
  | .waitb b _ => (2, 0#64, BitVec.ofNat 64 b.val)
  | .take .take m _ _ => (3, 0#64, BitVec.ofNat 64 m.val)
  | .take .peek m _ _ => (4, 0#64, BitVec.ofNat 64 m.val)
  | .take .takef m _ _ => (5, 0#64, BitVec.ofNat 64 m.val)
  | .join ea _ => (6, ea, 0#64)
  | .waita ea _ => (7, ea, 0#64)
  | .waitt limit _ => (8, limit, 0#64)
  | .sleep limit => (9, BitVec.ofNat 64 (limit.getD 0), 0#64)
  | .barwait ea _ => (10, ea, 0#64)
  | .twwait n _ => (11, 0#64, BitVec.ofNat 64 n.val)
  | _ => (0, 0#64, 0#64)

/-- A control register of a strand as the record holds it: zero for one that the strand does not own. -/
def Strand.csrImage (t : Strand) (n : Nat) : Word :=
  if n = 20 ∨ (22 ≤ n ∧ n ≤ 28) then 0#64 else (State.reset.setStrand ⟨0, 0⟩ t).csr ⟨0, 0⟩ n

/-- A strand to record: its home cell, slot, place in the GO queue, context, the value a monitor expects, and the word of a
held arrival. -/
structure SaveItem where
  home : Nat
  cell : Nat
  slot : Fin 5
  queue : Option Nat
  t : Strand
  exp : Word
  arrival : Option Word

def SaveItem.bytes (x : SaveItem) : List Byte :=
  let t := x.t
  let w : Nat × Word × Word := match t.status with
    | .parked w => w.image
    | _ => (0, 0#64, 0#64)
  let state := if x.queue.isSome then 3 else if w.1 = 0 then 0 else 1
  let third := if w.1 = 7 then x.exp else w.2.2
  let late : Word × Word × Word := match t.late with
    | [] => (0#64, 0#64, 0#64)
    | l :: _ => (BitVec.ofNat 64 (256 + l.cause.code), l.eval, l.ehseq.setWidth 64)
  layout 2048 [
    (0x000, leBytes 8 (state + 2 ^ 4 * w.1 + 2 ^ 9 * (x.slot.val % 4) + 2 ^ 16 * (x.home % 65536)
      + 2 ^ 32 * (x.queue.getD 0) + 2 ^ 34 * bit x.arrival.isSome)),
    (0x008, leBytes 8 t.pc.toNat),
    (0x010, wordsBytes ((List.range 30).map t.csrImage)),
    (0x100, leBytes 8 t.pend.toNat),
    (0x108, leBytes 8 t.seqCtr.toNat),
    (0x110, leBytes 8 t.join.toNat),
    (0x118, wordsBytes [late.1, late.2.1, late.2.2]),
    (0x130, wordsBytes [w.2.1, third]),
    (0x140, wordsBytes t.rn.toList),
    (0x180, leBytes 8 t.sp.toNat),
    (0x188, (t.k.toList.map (fun k => leBytes 4 k.toNat)).flatten),
    (0x198, leBytes 8 (x.arrival.getD 0#64).toNat),
    (0x200, ((t.lower.reverse ++ [(⟨t.ra, t.rl⟩ : Window)]).map windowBytes).flatten),
    (0x400, wordsBytes (t.sa.toList ++ t.sl.toList ++ t.sn.toList)),
    (0x500, (t.v.toList.map (fun v => leBytes 16 v.toNat)).flatten)]

/-- A cause from its code (17 R314). -/
def Cause.ofCode (n : Nat) : Cause :=
  ([.ill, .priv, .addr, .prot, .privmem, .align, .page, .poison, .spill, .fill, .accbusy, .hiref, .copyf, .order, .trapi,
    .bkpt, .sstep, .lockstep, .handlong, .saveovf, .redfail, .ended] : List Cause).getD (n - 1) .ill

/-- The strand of a record, with what the record has no place for. -/
def strandOfRecord (r : BindRec) (x : SavedStrand) (b : List Byte) : Strand :=
  let csr (n : Nat) : Word := wordAt b (0x10 + 8 * n)
  let st := csr 0
  let n := (st.extractLsb' 8 2).toNat
  let win (k : Nat) : Window := windowOf ((b.drop (0x200 + 128 * k)).take 128)
  let cur := win n
  let lates : List LateTrap :=
    if natAt b 0x118 8 = 0 then []
    else [⟨Cause.ofCode (natAt b 0x118 1), wordAt b 0x120, (wordAt b 0x128).setWidth 18⟩]
  let wait := natAt b 0 2 / 2 ^ 4 % 32
  let t : Strand := { Strand.zero with
    status := (match x.wait with | some w => .parked w | none => .ready)
    uid := x.uid
    pc := wordAt b 8
    words := x.words
    marker := x.marker
    ra := cur.a
    rl := cur.l
    rn := vectorAt 8 8 0x140 b
    lower := (List.range n).reverse.map win
    sa := vectorAt 8 8 0x400 b
    sl := vectorAt 8 8 0x440 b
    sn := vectorAt 8 8 0x480 b
    sp := wordAt b 0x180
    v := vectorAt 16 16 0x500 b
    k := vectorAt 4 4 0x188 b
    pend := BitVec.ofNat 24 (natAt b 0x100 3)
    sup := st.getLsbD 0
    psup := st.getLsbD 1
    lock := r.lock
    wspill := st.extractLsb' 16 32
    ecause := (csr 2).setWidth 9
    eval := csr 3
    ehseq := (csr 4).setWidth 18
    clsmask := (csr 11).setWidth 8
    instret := csr 21
    seqCtr := BitVec.ofNat 16 (natAt b 0x108 2)
    marks := x.marks
    sidx := x.sidx
    child := x.child
    team := r.team
    join := wordAt b 0x110
    spawnCell := x.spawnCell
    late := lates ++ x.held
    stepDue := x.stepDue
    woken := decide (wait = 7) }
  [0, 1, 5, 6, 7, 8, 9, 10, 12, 13, 14, 15, 16, 17, 18, 19, 29].foldl (fun (t : Strand) k => t.setCsr k (csr k)) t

/-! ### Stopping (17 R319, R320) -/

/-- A wait that the strand re-enters after a restore; any other instruction is issued again. -/
def Wait.kept : Wait → Bool
  | .waitb _ _ | .take _ _ _ _ | .join _ _ | .waitt _ _ | .sleep _ | .barwait _ _ | .twwait _ _ => true
  | _ => false

/-- The strand as the save leaves it, its near-bank operation apart. -/
def Strand.settle (t : Strand) : Strand :=
  match t.status with
  | .parked (.rwacc _ _ _ done _ poison) =>
    { t with status := .ready, progIndex := BitVec.ofNat 48 done, progValid := true, late := t.late ++ poison.toList }
  | .parked w => if w.kept then t else { t with status := .ready }
  | _ => t

/-- A near-bank operation stops at a column boundary: the partial sum in D, PROG at the elements done (10 R194). -/
def State.stopNear (s : State) (c : Nat) (r : NearRun) : State :=
  let i : SlotId := ⟨c, r.slot⟩
  let s := (s.writeReg i r.d (r.acc.setWidth 64)).setProg i r.done
  s.lateOpt i (s.strand i).uid r.poison

/-- Long instructions and queued requests of the team's cells are withdrawn; waits stay. -/
def State.settleTeam (s : State) (g : Nat) (r : BindRec) : State :=
  let cs := cellsOf g r
  let s := ((tilesOf g r).map (· / 16)).dedup.foldl (fun (s : State) k => s.stopWalker cs k) s
  let s := cs.foldl (fun (s : State) c =>
    let s := (s.cell c).near.foldl (fun (s : State) n => s.stopNear c n) s
    let s := (s.cell c).ranking.foldl (fun (s : State) n => s.stopRank c n) s
    s.updCell c (fun x => { x with near := [], ranking := [], strands := x.strands.map (fun (t : Strand) =>
      match t.status with
      | .parked (.waita _ _) => t
      | _ => t.settle) })) s
  s

/-- A parked release has nothing left to do but wait for room. -/
def State.stuckRelease (s : State) (c : Nat) : RelOp → Bool
  | .spawn _ _ => (s.cell c).dequeFull
  | .twsig n => (s.cell (twinOfCell c)).sig[n] == 255#8
  | _ => false

/-- A hire that the save waits for: its D writes, and its completion unless the trap of that is held at the master's slot. -/
def State.hireDrains (s : State) (h : Hire) : Bool :=
  !h.writes.isEmpty || (h.state == .writing && (s.strand ⟨h.cell, h.slot⟩).late.isEmpty)

/-- The team's traffic has drained (17 R320 step 2; 12 R236 steps 1 and 2); a packet that waits at a full queue is awaited too
(DEDUCED, log 60). -/
def State.teamDrained (s : State) (g : Nat) (r : BindRec) : Bool :=
  let cs := occupies g r
  let moving (c : Nat) (t : Strand) : Bool := match t.status with
    | .parked (.release _ op) => !s.stuckRelease c op
    | .parked .goFlight => true
    | _ => false
  cs.all (fun c =>
      let x := s.cell c
      x.blk.isEmpty && x.stealing.isEmpty && decide ((x.strands[(4 : Fin 5)] : Strand).status = .free)
        && !x.strands.toList.any (moving c))
    && !s.net.any (fun (f : Flight) => match f.body with
      | .arrival _ _ => false
      | _ => cs.contains f.srcCell || cs.contains f.who.cell || f.dstCell.any cs.contains)
    && !s.forwards.any (fun f => cs.any (fun c => (s.cell c).strands.toList.any (fun (t : Strand) => f.seen.contains t.uid)))
    && (tilesOf g r).all (fun t =>
      !(s.hub t).hires.any s.hireDrains
        && !((s.group (t / 16)).running.any (fun q => cs.contains q.cell && !s.walkStops q)))

/-! ### What is saved -/

/-- The held arrivals of a team's strands: index in the network, strand's slot, strand and word. -/
def State.heldArrivals (s : State) (cs : List Nat) : List (SlotId × Nat × Word) :=
  s.net.filterMap (fun (f : Flight) => match f.body with
    | .arrival _ ea => if cs.contains f.who.cell then some (f.who, f.uid, ea) else none
    | _ => none)

/-- The strands of the slots and then the queued arrivals, in the order of the records. -/
def insertItem (x : SaveItem) : List SaveItem → List SaveItem
  | [] => [x]
  | y :: l => if x.t.sidx.toNat < y.t.sidx.toNat then x :: y :: l else y :: insertItem x l

def State.saveItems (s : State) (g : Nat) (r : BindRec) : List SaveItem :=
  let cs := cellsOf g r
  let held := s.heldArrivals cs
  let slots : List SaveItem := cs.flatMap (fun c => ((List.finRange 5).take 4).filterMap (fun k =>
    let t := s.strand ⟨c, k⟩
    if t.status = .free then none
    else
      let exp := match t.status with
        | .parked (.waita ea _) => (((s.cell c).monitors.find? (fun m => m.slot == k && m.addr == ea)).map (·.exp)).getD 0#64
        | _ => 0#64
      some ⟨s.homeOf c, c, k, none, t, exp, (held.find? (fun a => a.2.1 == t.uid)).map (·.2.2)⟩))
  let queued : List SaveItem := cs.flatMap (fun c => (s.cell c).goQueue.zipIdx.map (fun (e : GoPacket × Nat) =>
    let t := goStrand r e.1
    ⟨s.homeOf c, c, 0, some e.2, t, 0#64, (held.find? (fun a => a.2.1 == t.uid)).map (·.2.2)⟩))
  slots.foldr insertItem [] ++ queued

/-- What the strand record has no place for. -/
def SaveItem.extra (x : SaveItem) : SavedStrand :=
  let t := x.t
  { uid := t.uid, sidx := t.sidx, child := t.child, spawnCell := t.spawnCell, marks := t.marks, held := t.late.drop 1,
    stepDue := t.stepDue,
    wait := (match t.status with | .parked w => if w.kept then some w else none | _ => none),
    words := t.words, marker := t.marker }

/-! ### Transaction records (17 R325) -/

/-- Leading units of a copy that have been performed. -/
def Copy.leading (k : Copy) (fmt : Nat) : Nat :=
  ((unitsOf k.shape k.dst fmt).takeWhile (fun u => !k.todo.contains u)).length

def State.copyRecord (s : State) (k : Copy) (sidx : BitVec 14) : List Byte :=
  layout 64 [
    (0x00, leBytes 8 (1 + 2 ^ 4 * k.member + 2 ^ 8 * k.token.code.toNat + 2 ^ 16 * sidx.toNat)),
    (0x08, wordsBytes [k.dst, k.src, k.ext]),
    (0x20, leBytes 8 (k.leading ((s.formatAt k.dst).getD 15))),
    (0x28, leBytes 8 (k.fmode.toNat + 2 ^ 8 * k.rmode.toNat))]

/-- The copies of a team's cells in order. -/
def State.savedCopies (s : State) (cs : List Nat) : List (Nat × Copy) :=
  cs.flatMap (fun c => (s.cell c).copies.toList.filterMap (fun k => k.map (fun k => (c, k))))

def launchRecord (d : SReg) (sidx : BitVec 14) (grid : Nat) : List Byte :=
  layout 64 [(0x00, leBytes 8 (2 + 2 ^ 8 * d.code.toNat + 2 ^ 16 * sidx.toNat)), (0x30, leBytes 8 grid)]

/-- The launches of a strand whose tokens are pending: token and child grid, 0 before it is named. -/
def State.launchTokens (s : State) (uid : Nat) : List (SReg × Nat) :=
  let of (n : Notify) (id : Nat) : Option (SReg × Nat) := match n with
    | .token _ u d => if u = uid then some (d, id) else none
    | _ => none
  s.launches.filterMap (fun (l : DevLaunch) => of l.grid.notify 0)
    ++ s.grids.filterMap (fun (e : Nat × Grid) => of e.2.notify (e.1 % 65536))

/-! ### Cell, slot and hire records (17 R324, R326; 08 R147) -/

def bytesOfBits (n : Nat) (set : List Nat) : List Byte :=
  (List.range n).map (fun j => BitVec.ofNat 8 (((List.range 8).map (fun k => if set.contains (8 * j + k) then 2 ^ k else 0)).sum))

def RankEntry.dword (e : RankEntry) : Nat := e.index.toNat + 2 ^ 8 * e.stream.val + 2 ^ 16 * e.rank.toNat + 2 ^ 32

/-- Class in [2:0], sender in [51:32], bit 63 set (log 22); then a0-a7 of the handler. -/
def Msg.bytes (m : Msg) : List Byte :=
  leBytes 8 (m.cls.val + 2 ^ 32 * m.sender + 2 ^ 63)
    ++ wordsBytes (m.payload ++ List.replicate (7 - m.payload.length) 0#64 ++ [BitVec.ofNat 64 m.sender])

/-- Index in [4:0], source cell in [31:16], the scope in [35:32], bit 63 set (log 22); then the value. -/
def HeldPost.bytes (h : HeldPost) (home : Nat) : List Byte :=
  leBytes 8 (h.m.val + 2 ^ 16 * (home % 65536) + 2 ^ 32 * h.scope.code + 2 ^ 63) ++ leBytes 8 h.value.toNat

/-- Home cell id in [19:0], slot in [22:20], bit 31 set (log 22). -/
def bounceBytes (home : Nat) (k : Fin 5) : List Byte := leBytes 4 (home + 2 ^ 20 * k.val + 2 ^ 31)

/-- An entry of the hire record ring (08 R149). -/
def RingEntry.bytes (e : RingEntry) : List Byte :=
  leBytes 8 (e.seq.toNat + 2 ^ 16 * (e.slot.val % 4) + 2 ^ 18 * e.batch.val + 2 ^ 20 * e.status.toNat + 2 ^ 22 * e.cause.toNat)
    ++ leBytes 8 e.blk.toNat

def ringEntryOf (b : List Byte) : RingEntry :=
  let d := natAt b 0 8
  ⟨BitVec.ofNat 16 d, Fin.ofNat 5 (d / 2 ^ 16 % 4), Fin.ofNat 4 (d / 2 ^ 18 % 4), BitVec.ofNat 2 (d / 2 ^ 20), BitVec.ofNat 8 (d / 2 ^ 22),
    wordAt b 8⟩

/-- The rank tables, their poisoned columns as words of 0x7FE0_0000 (07 R130). -/
def Cell.rankBytes (x : Cell) (bad : List Nat) : List Byte :=
  (List.range 2048).map (fun j =>
    if bad.contains (j / 32) then poisonBytes j else BitVec.ofNat 8 ((x.rankTab.get 0#16 (j / 2)).toNat / 256 ^ (j % 2)))

/-- A cell record (17 R324). The hire record ring, which 08 R145 saves and R324 gives no place, stands at 0x0B10 (log 22). -/
def State.cellRecord (s : State) (c : Nat) (poisoned ranks : List Nat) : List Byte :=
  let x := s.cell c
  layout 0x1800 [
    (0x0000, wordsBytes (x.posts.toList.map (·.value))),
    (0x0100, leBytes 4 (presenceMask x).toNat),
    (0x0104, x.sig.toList),
    (0x0108, wordsBytes [s.yreg c 0, s.yreg c 1, s.yreg c 2, s.yreg c 3]),
    (0x0128, leBytes 8 (x.deque.length + 2 ^ 5 * x.acnt + 2 ^ 16 * x.ahead)),
    (0x0130, wordsBytes (x.classes.toList.map (fun e => e.entry ++ 0#1 ++ BitVec.ofBool e.perm))),
    (0x0170, (x.held.map (fun h => HeldPost.bytes h (s.homeOf h.src))).flatten),
    (0x01F0, (x.rankCount.toList.map (fun v => leBytes 2 v.toNat)).flatten),
    (0x0200, (x.ranks.map (fun e => leBytes 8 e.dword)).flatten),
    (0x0400, (x.deque.map childBytes).flatten),
    (0x0800, (x.inbox.map Msg.bytes).flatten),
    (0x0A40, (x.bounced.map (fun i => bounceBytes (s.homeOf i.cell) i.slot)).flatten),
    (0x0A50, bytesOfBits 192 poisoned),
    (0x0B10, (x.ring.map RingEntry.bytes).flatten),
    (0x1000, x.rankBytes ranks)]

/-- The slots of a hub that a team's masters own. -/
def State.ownedSlots (s : State) (t : Nat) : List (Nat × AccOwner) :=
  (s.hub t).owners.filter (fun (e : Nat × AccOwner) => e.2.state != 0#2)

def State.slotImage (s : State) (t slot : Nat) : List Byte :=
  ((List.range 256).map (fun n => leBytes 4 ((s.hub t).acc.get 0#32 (256 * slot + n)).toNat)).flatten

def State.slotRecord (s : State) (r : BindRec) (t slot : Nat) (o : AccOwner) : List Byte :=
  leBytes 16 (slot + 2 ^ 8 * (t % 16 - r.x0.toNat) + 2 ^ 12 * (t / 16 % 16 - r.y0.toNat) + 2 ^ 16 * (o.cell % 16)
    + 2 ^ 20 * (o.slot.val % 4) + 2 ^ 22 * o.busy + 2 ^ 28 * o.state.toNat) ++ s.slotImage t slot

def HireState.code : HireState → Nat
  | .queued => 0 | .running => 1 | .onPage => 2 | .stopped => 3 | .cancelled => 4 | .writing => 5

def Hire.record (r : Hire) : List Byte :=
  layout 128 [
    (0x00, r.block),
    (0x38, leBytes 8 r.masks.toNat),
    (0x40, leBytes 8 (r.seq.toNat + 2 ^ 16 * r.batch.val + 2 ^ 18 * bit r.z + 2 ^ 19 * bit r.l + 2 ^ 20 * bit r.o
      + 2 ^ 21 * bit r.rk + 2 ^ 22 * bit r.mma + 2 ^ 23 * (r.cell % 16) + 2 ^ 27 * (r.slot.val % 4) + 2 ^ 29 * bit r.prio
      + 2 ^ 30 * r.state.code)),
    (0x48, leBytes 8 (r.done % 2 ^ 32 + 2 ^ 32 * r.total)),
    (0x50, leBytes 8 (r.fmode.toNat + 2 ^ 8 * r.rmode.toNat))]

/-! ### Local memory (17 R329) -/

/-- The columns of a cell's memory from column 1536 - n: their bytes, and the poisoned ones. -/
def State.saveColumns (s : State) (c : Nat) : Nat → List Byte × List Nat × State
  | 0 => ([], [], s)
  | n + 1 =>
    let (bs, bad, s) := s.readRaw ⟨.local, c, 32 * (1535 - n)⟩ 32
    let (rest, bads, s) := s.saveColumns c n
    (bs ++ rest, if bad.isEmpty then bads else (1535 - n) :: bads, s)

/-- A cell's memory and rank tables as the save reads them: the bytes, and the poisoned columns of each. -/
def State.saveMemories (s : State) : List Nat → List (List Byte × List Nat × List Nat) × State
  | [] => ([], s)
  | c :: cs =>
    let (bs, bad, s) := s.saveColumns c 1536
    let (ranks, s) := s.checkRankColumns c (List.range 64)
    let (rest, s) := s.saveMemories cs
    ((bs, bad, ranks) :: rest, s)

/-! ### The image (17 R321, R322) -/

structure Counts where
  nx : Nat
  ns : Nat
  nc : Nat
  nsl : Nat
  nh : Nat
  deriving DecidableEq, Repr

def Counts.tOff (n : Counts) : Nat := 256 + 64 * n.nx
def Counts.sOff (n : Counts) : Nat := n.tOff + 2048 * n.ns
def Counts.cOff (n : Counts) : Nat := n.sOff + 6144 * n.nc
def Counts.hOff (n : Counts) : Nat := n.cOff + 1040 * n.nsl
def Counts.qOff (n : Counts) : Nat := n.hOff + 128 * n.nh
def Counts.size (n : Counts) : Nat := n.qOff + 49152 * n.nc

def saveHeader (n : Counts) (progress limit shape : Nat) : List Byte :=
  layout 256 [
    (0x08, leBytes 8 progress),
    (0x10, leBytes 8 limit),
    (0x18, leBytes 4 n.nx ++ leBytes 4 n.ns),
    (0x20, leBytes 4 n.nc ++ leBytes 4 n.nsl),
    (0x28, leBytes 8 n.nh),
    (0x30, leBytes 8 shape)]

/-- The strand that a copy or launch belongs to, its index. -/
def itemSidx (items : List SaveItem) (uid : Nat) : BitVec 14 := ((items.find? (fun x => x.t.uid == uid)).map (·.t.sidx)).getD 0#14

def State.transactions (s : State) (cs : List Nat) (items : List SaveItem) : List (List Byte) :=
  (s.savedCopies cs).map (fun e => s.copyRecord e.2 (itemSidx items e.2.uid))
    ++ items.flatMap (fun x => (s.launchTokens x.t.uid).map (fun l => launchRecord l.1 x.t.sidx l.2))

/-- The hires of a team's tiles, per tile in queue order. -/
def State.teamHires (s : State) (g : Nat) (r : BindRec) : List Hire := (tilesOf g r).flatMap (fun t => (s.hub t).hires)

def State.saveCounts (s : State) (g : Nat) (r : BindRec) : Counts :=
  let cs := cellsOf g r
  let items := s.saveItems g r
  ⟨(s.transactions cs items).length, items.length, cs.length, ((tilesOf g r).map (fun t => (s.ownedSlots t).length)).sum,
    (s.teamHires g r).length⟩

/-- Every unit of the team's slots is checked before it is read; the master of a slot takes its late POISON (07 R131). -/
def State.checkSlots (s : State) (g : Nat) (r : BindRec) : State :=
  (tilesOf g r).foldl (fun (s : State) t =>
    (s.ownedSlots t).foldl (fun (s : State) e =>
      let (ls, s) := s.checkUnits t e.1 (List.range 32)
      let i : SlotId := ⟨e.2.cell, e.2.slot⟩
      ls.foldl (fun (s : State) l => s.late i (s.strand i).uid l) s) s) s

/-- PROGRESS when a write past LIMIT is met: whole columns of the region that it falls in. -/
def Counts.progress (n : Counts) (limit : Nat) : Nat :=
  if n.size ≤ limit then n.size
  else if n.qOff ≤ limit then n.qOff + (limit - n.qOff) / 32 * 32
  else limit / 32 * 32

/-- The image of a team that has been settled, VALID clear, and the state after the reads. -/
def State.saveImage (s : State) (g : Nat) (r : BindRec) (limit : Nat) : List Byte × State :=
  let cs := cellsOf g r
  let s := s.checkSlots g r
  let (mems, s) := s.saveMemories cs
  let items := s.saveItems g r
  let n := s.saveCounts g r
  let cells := (cs.zip mems).map (fun (e : Nat × (List Byte × List Nat × List Nat)) => s.cellRecord e.1 e.2.2.1 e.2.2.2)
  let slots := (tilesOf g r).flatMap (fun t => (s.ownedSlots t).map (fun e => s.slotRecord r t e.1 e.2))
  (saveHeader n (n.progress limit) limit r.dword0 ++ (s.transactions cs items).flatten ++ (items.map SaveItem.bytes).flatten
    ++ cells.flatten ++ slots.flatten ++ ((s.teamHires g r).map Hire.record).flatten ++ (mems.map Prod.fst).flatten, s)

/-- What goes with the pending entry (log 22). -/
def State.savedTeam (s : State) (g : Nat) (r : BindRec) : SavedTeam :=
  let cs := cellsOf g r
  let items := s.saveItems g r
  let recorded := items.filterMap (fun x => x.arrival.map (fun ea => (x.t.uid, ea)))
  { record := { r with since := s.cycle.toNat }
    strands := items.map SaveItem.extra
    copies := (s.savedCopies cs).map (fun e => (e.2.uid, e.2.sup, e.2.poison,
      s.reductions.find? (fun x => x.cell == e.1 && (s.cell e.1).copies[x.copy] == some e.2)))
    hires := (tilesOf g r).map (fun t => (s.hub t).hires.map (fun (h : Hire) => (h.sup, h.poison, h.fault)))
    badRanks := cs.map (fun c => (s.checkRankColumns c (List.range 64)).1)
    lastSeqs := (tilesOf g r).flatMap (fun t => (s.ownedSlots t).map (fun e => e.2.lastSeq))
    arrivals := (s.heldArrivals cs).filterMap (fun (a : SlotId × Nat × Word) =>
      if recorded.contains a.2 then none else some (s.homeOf a.1.cell, a.1.slot, a.2.1, a.2.2)) }

/-- Bytes of a handle written in columns of 32. The count bounds the columns. -/
def State.writeHandle (s : State) (h off : Nat) : Nat → List Byte → State
  | 0, _ => s
  | n + 1, bs =>
    if bs.isEmpty then s else (s.writeFresh (s.hwLoc h off) (bs.take 32)).writeHandle h (off + 32) n (bs.drop 32)

/-! ### The save (17 R320, R327, R328) -/

/-- TEAM_SAVE_REQUEST (17 R320 step 1, R331): the team's slots stop; each lockstep pair takes a checkpoint first, or rolls
back. -/
def execTeamSaveRequest (g : Nat) (rec : BitVec 8) (s : State) : Out :=
  let r := s.bindRec g rec.toNat
  if !r.v || r.saving != 1 then idle s
  else if r.lock then
    match (cellsOf g r).find? (fun c => (s.pair (pairOf c)).diverged) with
    | some c => .next (s.rollback (pairOf c))
    | none =>
      let s := (cellsOf g r).foldl (fun (s : State) c => s.checkpointOk (pairOf c)) s
      .next (s.updRec g rec.toNat (fun r => { r with saving := 2 }))
  else .next (s.updRec g rec.toNat (fun r => { r with saving := 2 }))

/-- A save is abandoned: the team goes on where it stands and is never swapped again, and the host is told. -/
def State.abandonSave (s : State) (g rec : Nat) (overflow : Bool) (why : Report) : State :=
  let r := s.bindRec g rec
  let s := s.updRec g rec (fun r => { r with saving := 0, noswap := true })
  let s := if overflow then s.updGrid r.gridKey (fun q => { q with saveovf := true }) else s
  s.report r.part.toNat why

/-- A dword of the header is written: part of a column, which is checked first (07 R129, R130). -/
def State.setHeader (s : State) (h base off n : Nat) : State := (s.writeColumn 0 (s.hwLoc h (base + off)) (leBytes 8 n)).2

/-- PROGRESS of an image whose header can be written (17 R322). -/
def State.setProgress (s : State) (h base n : Nat) : State :=
  if (s.hwAbsent h base 64).isSome then s else s.setHeader h base 8 n

/-- The team's held effects go out after the save's checkpoint too: those of a handler that ran on (17 R320, R331). -/
def State.savePending (s : State) (g : Nat) (r : BindRec) : Option Nat :=
  if r.lock then (cellsOf g r).find? (fun c => decide ((s.strand ⟨c, 4⟩).status = .free) && s.net.any (fun f => f.heldBy == some (pairOf c)))
  else none

/-- SAVE_DRAINED (17 R320 steps 2 to 5, R327, R328): the image is written, as far as LIMIT lets it. A team whose image does not fit
goes on from where step 1 has stopped it. -/
def execSaveDrained (g : Nat) (rec : BitVec 8) (s : State) : Out :=
  let r := s.bindRec g rec.toNat
  if !r.v || r.saving != 2 then idle s
  else match s.savePending g r with
  | some c => .next (s.checkpointAt (pairOf c))
  | none =>
  if !s.teamDrained g r then idle s
  else
    let h := (r.save.extractLsb' 36 24).toNat
    let base := (r.save.extractLsb' 0 36).toNat
    let limit := (s.handle h).limit.toNat + 1
    let t := s.settleTeam g r
    let n := t.saveCounts g r
    let end_ := n.progress limit
    let need := Nat.max 256 end_
    match s.hwAbsent h base need with
    | some (h, p) =>
      match s.pageFailed (.saver g rec.toNat) h p with
      | some s => .next (s.abandonSave g rec.toNat false (.savePage r.gridKey r.team.toNat p))
      | none => .next ((s.setProgress h base (p * pageSize (s.handle h).psz - base)).askPager (.saver g rec.toNat) h p)
    | none =>
      if s.hwHeld h base need then idle s
      else
      let (bs, t) := t.saveImage g r limit
      if n.size ≤ limit then
        .next ((t.writeHandle h base (bs.length / 32 + 1) bs).updRec g rec.toNat (fun r => { r with saving := 3 }))
      else
        .next ((t.writeHandle h base (end_ / 32 + 1) (bs.take end_)).abandonSave g rec.toNat true
          (.saveovf r.gridKey r.team.toNat n.size))

/-- SAVE_COMMIT (17 R320 step 6): VALID is set, the team's slots, entries, licences and cells are freed, and the team
stands at the tail of the pending list (16 R309). -/
def execSaveCommit (g : Nat) (rec : BitVec 8) (s : State) : Out :=
  let r := s.bindRec g rec.toNat
  let h := (r.save.extractLsb' 36 24).toNat
  let base := (r.save.extractLsb' 0 36).toNat
  if !r.v || r.saving != 3 || s.hwHeld h base 64 then idle s
  else
    let t := s.savedTeam g r
    let cs := occupies g r
    let s := (s.setHeader h base 0 1).setHeader h base 0x38 s.cycle.toNat
    let s := { s with net := s.net.filter (fun (f : Flight) => match f.body with
      | .arrival _ _ => !cs.contains f.who.cell
      | _ => true) }
    let s := (tilesOf g r).foldl (fun (s : State) t => if s.holds t then s.yieldLicence t else s) s
    let s := s.releaseTeam g rec.toNat r
    .next (s.updPart r.part.toNat (fun p => { p with pending := p.pending ++ [.saved r.grid.toNat t] }))

/-! ### The restore (17 R330, R331) -/

/-- The team cell that a home cell number of 16 bits names, in the home column. -/
def BindRec.savedCell (r : BindRec) (g n : Nat) : Nat :=
  (homeToCell g r (r.homeSg / 16 * 65536 + n % 65536)).getD ((cellsOf g r).headD 0)

def classEntryOf (w : Word) : ClassEntry := ⟨w.getLsbD 0, w.extractLsb' 2 62⟩

/-- The records of one size that follow one another in an image. -/
def recordsAt (size : Nat) (bs : List Byte) (n : Nat) : List (List Byte) :=
  (List.range n).map (fun k => (bs.drop (size * k)).take size)

def setBits (bs : List Byte) : List Nat := (List.range (8 * bs.length)).filter (fun n => (bs.getD (n / 8) 0#8).getLsbD (n % 8))

/-- A cell of a restored team: its record, its memory, and the poisoned columns of its rank tables. -/
def State.restoreCell (s : State) (g : Nat) (r : BindRec) (c : Nat) (b mem : List Byte) (ranks : List Nat) : State :=
  let dq := natAt b 0x128 4
  let held (x : List Byte) : HeldPost :=
    ⟨Fin.ofNat 32 (natAt x 0 1 % 32), r.savedCell g (natAt x 2 2), wordAt x 8, (Scope.ofCode (natAt x 4 1 % 16)).getD .sys⟩
  let msg (x : List Byte) : Msg :=
    ⟨Fin.ofNat 8 (natAt x 0 1 % 8), natAt x 4 3, (List.range 7).map (fun k => wordAt x (8 + 8 * k))⟩
  let rank (x : List Byte) : RankEntry :=
    ⟨BitVec.ofNat 8 (natAt x 0 1), Fin.ofNat 4 (natAt x 1 1 % 4), BitVec.ofNat 16 (natAt x 2 2), 0⟩
  let source (x : List Byte) : SlotId := ⟨(homeToCell g r (natAt x 0 3 % 2 ^ 20)).getD c, Fin.ofNat 5 (natAt x 2 1 / 16 % 8)⟩
  let live (size off n mark : Nat) : List (List Byte) :=
    (recordsAt size (b.drop off) n).filter (fun x => decide ((x.getD mark 0#8).msb = true))
  let mask := natAt b 0x100 4
  let s := s.updCell c (fun x => { x with
    posts := Vector.ofFn (fun (m : Fin 32) => ⟨wordAt b (8 * m.val), decide (mask / 2 ^ m.val % 2 = 1), .sys⟩)
    sig := vectorAt 4 1 0x104 b
    classes := Vector.ofFn (fun (k : Fin 8) => classEntryOf (wordAt b (0x130 + 8 * k.val)))
    held := (live 16 0x170 8 7).map held
    rankCount := vectorAt 4 2 0x1F0 b
    ranks := ((recordsAt 8 (b.drop 0x200) 64).filter (fun x => (x.getD 4 0#8).getLsbD 0)).map rank
    deque := (recordsAt 64 (b.drop 0x400) (dq % 32)).map childOfBytes
    acnt := dq / 2 ^ 5 % 2 ^ 11
    ahead := dq / 2 ^ 16 % 2 ^ 10
    inbox := (live 72 0x800 8 7).map msg
    bounced := (live 4 0xA40 4 3).map source
    rankTab := (List.range 1024).foldl (fun (t : Table (BitVec 16)) n =>
      let v := natAt b (0x1000 + 2 * n) 2
      if v = 0 then t else t.set n (BitVec.ofNat 16 v)) []
    rankBad := ranks.foldl (fun (t : Table (List Nat)) n => t.set n poisonCode) []
    ring := ((recordsAt 16 (b.drop 0xB10) 16).map ringEntryOf).filter (fun e => e.status != 0#2) })
  let s := (List.finRange 4).foldl (fun (s : State) n => s.setY c n (wordAt b (0x108 + 8 * n.val))) s
  let fill (s : State) (c : Nat) : State :=
    let s := (s.wipe ⟨.local, c, 0⟩ 0xC000).poke ⟨.local, c, 0⟩ mem
    (setBits ((b.drop 0xA50).take 192)).foldl (fun (s : State) n =>
      { s with flips := s.flips.set ({ space := .local, unit := c, addr := 32 * n : Loc }).key poisonCode }) s
  if r.lock then fill (fill s c) (twinOfCell c) else fill s c

/-- A slot record goes back at its own number. -/
def State.restoreSlot (s : State) (g : Nat) (r : BindRec) (b : List Byte) (lastSeq : BitVec 16) : State :=
  let d := natAt b 0 4
  let t := g * 256 + (r.y0.toNat + d / 2 ^ 12 % 16) * 16 + (r.x0.toNat + d / 2 ^ 8 % 16)
  let slot := d % 128
  let o : AccOwner :=
    ⟨BitVec.ofNat 2 (d / 2 ^ 28), 16 * t + d / 2 ^ 16 % 16, Fin.ofNat 5 (d / 2 ^ 20 % 4), d / 2 ^ 22 % 64, lastSeq⟩
  let s := s.zeroSlot t slot
  s.updHub t (fun h => { h with
    owners := h.owners.set slot o
    acc := (List.range 256).foldl (fun (a : Table (BitVec 32)) n =>
      let v := natAt b (16 + 4 * n) 4
      if v = 0 then a else a.set (256 * slot + n) (BitVec.ofNat 32 v)) h.acc })

def HireState.ofCode (n : Nat) : HireState := ([.queued, .running, .onPage, .stopped, .cancelled, .writing] : List HireState).getD n .queued

/-- A hire from its record, for the cell and strand of its master. -/
def hireOfRecord (b : List Byte) (cell uid : Nat) (x : Bool × List LateTrap × Option (Cause × Word)) : Hire :=
  let d := natAt b 0x40 8
  let flag (n : Nat) : Bool := decide (d / 2 ^ n % 2 = 1)
  { block := b.take 56, masks := BitVec.ofNat 48 (natAt b 0x38 6), seq := BitVec.ofNat 16 d,
    batch := Fin.ofNat 4 (d / 2 ^ 16 % 4), z := flag 18, l := flag 19, o := flag 20, rk := flag 21, mma := flag 22,
    cell := cell, slot := Fin.ofNat 5 (d / 2 ^ 27 % 4), uid := uid, prio := flag 29,
    state := HireState.ofCode (d / 2 ^ 30 % 8),
    done := natAt b 0x48 4, total := natAt b 0x4C 4, fmode := BitVec.ofNat 8 (natAt b 0x50 1),
    rmode := BitVec.ofNat 3 (natAt b 0x51 1), sup := x.1, fetched := [], writes := [], fault := x.2.2, poison := x.2.1 }

/-- The hires of several masters in sequence-number order, those of one master in the order of their issue. The count bounds the
hires. -/
def mergeHires : Nat → List Hire → List Hire
  | 0, l => l
  | n + 1, l =>
    let heads := l.zipIdx.filter (fun (e : Hire × Nat) => !(l.take e.2).any (fun q => q.sameMaster e.1))
    match heads.find? (fun e => heads.all (fun f => decide (e.1.seq.toNat ≤ f.1.seq.toNat))) with
    | none => l
    | some (r, k) => r :: mergeHires n (listErase l k)

/-- The hire records of one tile, at the tail of its queue in sequence-number order (12 R236). -/
def State.restoreHires (s : State) (tile : Nat) (bs : List (List Byte × (Bool × List LateTrap × Option (Cause × Word)))) : State :=
  let hires := bs.map (fun e =>
    let d := natAt e.1 0x40 8
    let cell := 16 * tile + d / 2 ^ 23 % 16
    hireOfRecord e.1 cell (s.strand ⟨cell, Fin.ofNat 5 (d / 2 ^ 27 % 4)⟩).uid e.2)
  s.updHub tile (fun h => { h with hires := h.hires ++ mergeHires hires.length hires })

/-- A strand record: the strand goes to its slot, or the arrival to its queue. -/
def State.restoreStrand (s : State) (g : Nat) (r : BindRec) (b : List Byte) (x : SavedStrand) : State :=
  let d := natAt b 0 8
  let c := r.savedCell g (d / 2 ^ 16)
  let t := strandOfRecord r x b
  if d % 16 = 3 then
    let p : GoPacket := { (goPacketOf ⟨c, 0⟩ t) with pc := t.pc }
    s.updCell c (fun y => { y with goQueue := y.goQueue ++ [p] })
  else s.setStrand ⟨c, Fin.ofNat 5 (d / 2 ^ 9 % 4)⟩ { t with lastIssue := s.cycle.toNat }

/-- Where a strand of the team now is. -/
def State.slotOf (s : State) (cs : List Nat) (uid : Nat) : Option SlotId :=
  cs.findSome? (fun c => ((List.finRange 5).take 4).findSome? (fun k =>
    if (s.strand ⟨c, k⟩).uid = uid ∧ (s.strand ⟨c, k⟩).status ≠ .free then some ⟨c, k⟩ else none))

/-- The shape of a copy from its member and extension word (10 R186). -/
def shapeOf (member : Nat) (ext : Word) : CopyShape :=
  let h (k : Nat) : Nat := ext.toNat / 2 ^ (16 * k) % 65536
  match member with
  | 4 => .bytes (ext.toNat % 2 ^ 32)
  | 5 => .strided (h 0) (h 1) (h 2) (h 3)
  | 6 => .gather (h 0) (2 ^ h 1)
  | 7 => .scatter (h 0) (2 ^ h 1)
  | _ => .convert (ext.toNat % 2 ^ 32)

/-- A copy is armed again at unit DONE, in a free transaction of its strand's cell. -/
def State.restoreCopy (s : State) (cs : List Nat) (b : List Byte) (x : Nat × Bool × Option LateTrap × Option Reduction) : State :=
  let d := natAt b 0 8
  match s.slotOf cs x.1 with
  | none => s
  | some i =>
    match (s.cell i.cell).freeCopy with
    | none => s
    | some n =>
      let dst := wordAt b 8
      let shape := shapeOf (d / 2 ^ 4 % 16) (wordAt b 0x18)
      let k : Copy := {
        slot := i.slot, uid := x.1, token := SReg.ofCode (BitVec.ofNat 5 (d / 2 ^ 8)), member := d / 2 ^ 4 % 16,
        shape := shape, dst := dst, src := wordAt b 0x10, ext := wordAt b 0x18, fmode := BitVec.ofNat 8 (natAt b 0x28 1),
        rmode := BitVec.ofNat 3 (natAt b 0x29 1), sup := x.2.1,
        todo := (unitsOf shape dst ((s.formatAt dst).getD 15)).drop (natAt b 0x20 6), poison := x.2.2.1, fault := none }
      let s := s.updCell i.cell (fun y => { y with copies := y.copies.set n (some k) })
      match x.2.2.2 with
      | some q => { s with reductions := s.reductions ++ [{ q with cell := i.cell, copy := n }] }
      | none => s

/-- The tokens of the team's launches follow their strands, and a grid that has ended meanwhile tells them. -/
def State.retarget (s : State) (cs : List Nat) : State :=
  let move (n : Notify) : Notify := match n with
    | .token i u d => .token ((s.slotOf cs u).getD i) u d
    | n => n
  let s := { s with
    launches := s.launches.map (fun (l : DevLaunch) => ⟨{ l.grid with notify := move l.grid.notify }⟩)
    grids := s.grids.map (fun (e : Nat × Grid) => (e.1, { e.2 with notify := move e.2.notify })) }
  s.grids.foldl (fun (s : State) (e : Nat × Grid) => match e.2.notify with
    | .token i _ _ => if cs.contains i.cell then s.notifyGrid e.1 else s
    | _ => s) s

/-- A held arrival of a saved team, to be issued again: its slot, the strand that it is of, and its word. -/
structure Arrival where
  slot : SlotId
  uid : Nat
  ea : Word
  sup : Bool
  splh : Word
  dcls : BitVec 3
  deriving DecidableEq, Repr

/-- The held arrivals of an image: those of its strand records, and those that no record names. -/
def SavedTeam.held (t : SavedTeam) (g : Nat) (r : BindRec) (strands : List (List Byte × SavedStrand)) : List Arrival :=
  strands.filterMap (fun e =>
    let d := natAt e.1 0 8
    let st := wordAt e.1 0x10
    if d / 2 ^ 34 % 2 = 1 then
      some ⟨⟨r.savedCell g (d / 2 ^ 16), Fin.ofNat 5 (d / 2 ^ 9 % 4)⟩, e.2.uid, wordAt e.1 0x198, st.getLsbD 0, wordAt e.1 0xF8,
        st.extractLsb' 4 3⟩
    else none)
  ++ t.arrivals.map (fun a => ⟨⟨(homeToCell g r a.1).getD 0, a.2.1⟩, a.2.2.1, a.2.2.2, false, 0#64, r.dcls⟩)

/-- The places of the arrivals, checked in order for the save engine; the first check that does not pass ends the list. -/
def State.checkArrivals (s : State) (a : Agent) (r : BindRec) : List Arrival → List (Arrival × Loc) × Option Chk × State
  | [] => ([], none, s)
  | x :: xs =>
    match s.check ⟨a, x.slot, x.uid, x.slot.cell, r.part.toNat, x.sup, x.splh, r.lock⟩ x.ea 8 8 .write atomicPromote with
    | .ok l s =>
      if s.blocked x.dcls x.slot.cell l then ([], some (.stall s), s)
      else
        let (ls, q, s) := s.checkArrivals a r xs
        ((x, l) :: ls, q, s)
    | q => ([], some q, s)

/-- An arrival is issued again at its word. Its word's memory has acknowledged it before, so TSM does not wait for it again. -/
def State.reissueArrival (s : State) (x : Arrival) (l : Loc) : State :=
  let i := x.slot
  let tsm := (s.strand i).tsm
  let s := (s.request i .barrier l 8 x.ea).upd i (fun t => { t with tsm := tsm })
  { s with net := s.net.map (fun (f : Flight) =>
      if f.who = i ∧ f.body = .mem .barrier l 8 x.ea then { f with uid := x.uid, slice := none } else f) }

/-- Splits a list into runs of the given lengths. -/
def runs {α : Type} : List Nat → List α → List (List α)
  | [], _ => []
  | n :: ns, l => l.take n :: runs ns (l.drop n)

/-- The strand records of an image, each with what it has no place for. -/
def Counts.strands (n : Counts) (t : SavedTeam) (img : List Byte) : List (List Byte × SavedStrand) :=
  (recordsAt 2048 (img.drop n.tOff) n.ns).zip t.strands

/-- The regions of an image, in their order; then the copies, the launches and the held arrivals. -/
def State.restoreAll (s : State) (g : Nat) (r : BindRec) (t : SavedTeam) (n : Counts) (img : List Byte) (held : List (Arrival × Loc)) :
    State :=
  let cs := cellsOf g r
  let part (off : Nat) : List Byte := img.drop off
  let strands := n.strands t img
  let cells := cs.zip ((recordsAt 6144 (part n.sOff) n.nc).zip (t.badRanks.zip (recordsAt 49152 (part n.qOff) n.nc)))
  let hires := (recordsAt 128 (part n.hOff) n.nh).zip t.hires.flatten
  let copies := (recordsAt 64 (part 256) n.nx).zip t.copies
  let s := cells.foldl (fun (s : State) e => s.restoreCell g r e.1 e.2.1 e.2.2.2 e.2.2.1) s
  let s := ((recordsAt 1040 (part n.cOff) n.nsl).zip t.lastSeqs).foldl (fun (s : State) e => s.restoreSlot g r e.1 e.2) s
  let s := strands.foldl (fun (s : State) e => s.restoreStrand g r e.1 e.2) s
  let s := ((tilesOf g r).zip (runs (t.hires.map List.length) hires)).foldl (fun (s : State) e => s.restoreHires e.1 e.2) s
  let s := copies.foldl (fun (s : State) e => s.restoreCopy cs e.1 e.2) s
  held.foldl (fun (s : State) a => s.reissueArrival a.1 a.2) (s.retarget cs)

/-! ### The check of an image (17 R321-R326, R330; 00 R6) -/

/-- Ranges of zero bytes, and of zero bits: offset, then width. -/
def zerosAt (bytes : List (Nat × Nat)) (bits : List (Nat × Nat)) (b : List Byte) : Bool :=
  bytes.all (fun e => ((b.drop e.1).take e.2).all (· == 0#8))
    && bits.all (fun e => decide (natAt b (e.1 / 8) ((e.1 % 8 + e.2 + 7) / 8) / 2 ^ (e.1 % 8) % 2 ^ e.2 = 0))

/-- The zero fields of the header and of each kind of record. -/
def imageHeaderZeros : List Byte → Bool := zerosAt [(0x0E, 2), (0x16, 2), (0x2C, 4), (0x40, 192)] [(1, 63)]
def transactionZeros : List Byte → Bool :=
  zerosAt [(0x04, 4), (0x26, 2), (0x32, 6), (0x38, 8)] [(13, 3), (30, 2), (8 * 0x28 + 11, 53)]
def strandZeros : List Byte → Bool :=
  zerosAt [(0x103, 5), (0x10A, 6), (0x1A0, 96), (0x4C0, 64), (0x600, 512)] [(11, 5), (35, 29)]
def cellZeros : List Byte → Bool :=
  zerosAt [(0x1F8, 8), (0xC10, 1008)] ((8 * 0x128 + 26, 38) :: (List.range 8).map (fun k => (8 * (0x130 + 8 * k) + 1, 1))
    ++ (List.range 64).flatMap (fun k => [(8 * (0x200 + 8 * k) + 10, 6), (8 * (0x200 + 8 * k) + 33, 31)])
    ++ (List.range 16).map (fun k => (8 * (0xB10 + 16 * k) + 30, 34)))
def slotZeros : List Byte → Bool := zerosAt [(4, 12)] [(7, 1), (30, 2)]
def hireZeros : List Byte → Bool := zerosAt [(0x58, 40)] [(8 * 0x40 + 33, 31), (8 * 0x50 + 11, 53)]

def imageZeros (n : Counts) (img : List Byte) : Bool :=
  imageHeaderZeros (img.take 256) && (recordsAt 64 (img.drop 256) n.nx).all transactionZeros
    && (recordsAt 2048 (img.drop n.tOff) n.ns).all strandZeros && (recordsAt 6144 (img.drop n.sOff) n.nc).all cellZeros
    && (recordsAt 1040 (img.drop n.cOff) n.nsl).all slotZeros && (recordsAt 128 (img.drop n.hOff) n.nh).all hireZeros

/-- TEAM_RESTORE (17 R330): once V is set in every slot of a record with RST = 1. An image that is not valid, has another shape or
a nonzero zero field (00 R6) is reported, and ends the grid with PROT. The restore waits until every held arrival has its place; one
that finds none ends the grid with its cause, and an image with a poisoned column ends it with POISON (R332; DESIGN CHOICE, log 22). -/
def execTeamRestore (g : Nat) (rec : BitVec 8) (s : State) : Out :=
  let r := s.bindRec g rec.toNat
  let key := r.gridKey
  if !r.v || !r.rst || !s.allBound g rec.toNat r then idle s
  else match (s.sg g).restores.find? (fun (e : Nat × SavedTeam) => e.1 == rec.toNat) with
  | none => idle s
  | some (_, t) =>
    let h := (r.save.extractLsb' 36 24).toNat
    let base := (r.save.extractLsb' 0 36).toNat
    let drop (s : State) : State := s.updSg g (fun x =>
      { x with restores := x.restores.filter (fun (e : Nat × SavedTeam) => e.1 != rec.toNat) })
    let ask (h p : Nat) (s : State) : Out :=
      match s.pageFailed (.saver g rec.toNat) h p with
      | some s => .next ((drop s).killGrid key .page)
      | none => .next ((s.setProgress h base (p * pageSize (s.handle h).psz - base)).askPager (.saver g rec.toNat) h p)
    let reject (c : Cause) (s : State) : Out :=
      .next ((drop { s with badBinds := s.badBinds ++ [(g, rec.toNat)] }).killGrid key c)
    match s.hwAbsent h base 256 with
    | some (h, p) => ask h p s
    | none =>
      let (head, bad, s) := s.hwRead h base 4
      let n : Counts := ⟨natAt head 0x18 4, natAt head 0x1C 4, natAt head 0x20 4, natAt head 0x24 4, natAt head 0x28 4⟩
      let shape := natAt head 0x30 8
      if bad then reject .poison s
      else if natAt head 0 1 % 2 = 0 ∨ shape / 2 ^ 24 % 2 ^ 10 ≠ r.dword0 / 2 ^ 24 % 2 ^ 10 ∨ shape / 2 % 2 ≠ r.dword0 / 2 % 2 then
        reject .prot s
      else match s.hwAbsent h base n.size with
      | some (h, p) => ask h p s
      | none =>
        let (img, bad, s) := s.hwRead h base (n.size / 64 + 1)
        if bad then reject .poison s
        else if !imageZeros n img then reject .prot s
        else if s.hwHeld h base 64 then idle s
        else match s.checkArrivals (.saver g rec.toNat) r (t.held g r (n.strands t img)) with
        | (_, some (.absent h p s), _) => .next (s.askPager (.saver g rec.toNat) h p)
        | (_, some (.bad c _ s), _) => .next ((drop s).killGrid key c)
        | (_, some (.stall s), _) => .next s
        | (_, some (.ok _ _), s) => idle s
        | (held, none, s) =>
        let s := s.restoreAll g r t n img held
        let s := (s.setProgress h base n.size).setHeader h base 0 0
        let s := (drop s).updRec g rec.toNat (fun r => { r with rst := false, since := s.cycle.toNat })
        .next (if r.lock then (cellsOf g r).foldl (fun (s : State) c => s.armPair (pairOf c)) s else s)

end Sys2Proof.Machine
end

