-- ==== Sys2Proof/Machine/Streams.lean ====
section
/-! DEFINITION. Command streams of the host and the column management cores that follow them (16 R299-R303, R305). A core takes
one command per event, and its streams take turns. -/

namespace Sys2Proof.Machine

open Sys2Proof

/-! ### Addresses that a core uses -/

/-- The place of n bytes at a class 3 address of a partition. -/
def State.streamLoc (s : State) (part : Nat) (ea : Word) (n : Nat) (p : Perm) : Option Loc :=
  if addrClass ea = 3 then s.windowLoc part (ea.extractLsb' 56 4).toNat (ea.extractLsb' 0 56).toNat n p else none

/-- n bytes at an address lie in a window of the partition, or in a handle of it (16 R303 ERR 5). -/
def State.inReach (s : State) (part : Nat) (ea : Word) (n : Nat) : Bool :=
  match addrClass ea with
  | 2 =>
    let e := s.handle (ea.extractLsb' 36 24).toNat
    e.v && e.tenant.toNat == part && decide ((ea.extractLsb' 0 36).toNat + n ≤ e.limit.toNat + 1)
  | 3 =>
    let off := (ea.extractLsb' 0 56).toNat
    match s.windowAt part (ea.extractLsb' 56 4).toNat off with
    | some w => decide (off + n ≤ w.base + w.size)
    | none => false
  | _ => false

/-- The fault of a core's access to n bytes: no permission, or a private handle. -/
def State.coreFault (s : State) (part : Nat) (ea : Word) (n : Nat) (p : Perm) : Option Cause :=
  if addrClass ea = 2 then
    let e := s.handle (ea.extractLsb' 36 24).toNat
    if e.priv then some .privmem
    else
      let okPerm : Bool := match p with | .read | .readHome => e.pr | .write => e.pw | .exec => e.px
      if okPerm then none else some .prot
  else if (s.streamLoc part ea n p).isSome then none
  else some .prot

/-- The place of one byte of a range that has been checked. -/
def State.coreLoc (s : State) (part : Nat) (ea : Word) (p : Perm) : Loc :=
  if addrClass ea = 2 then s.hwLoc (ea.extractLsb' 36 24).toNat (ea.extractLsb' 0 36).toNat
  else (s.streamLoc part ea 1 p).getD ⟨.host, part, 0⟩

/-- The first absent page of a range. -/
def State.coreAbsent (s : State) (ea : Word) (n : Nat) : Option (Nat × Nat) :=
  if addrClass ea = 2 ∧ 0 < n then s.hwAbsent (ea.extractLsb' 36 24).toNat (ea.extractLsb' 0 36).toNat n else none

/-- n bytes read one by one, none for a poisoned one. -/
def State.coreRead (s : State) (part : Nat) (ea : Word) : Nat → List (Option Byte) × State
  | 0 => ([], s)
  | n + 1 =>
    let (bs, bad, s) := s.readRaw (s.coreLoc part ea .read) 1
    let (rest, s) := s.coreRead part (ea + 1#64) n
    ((if bad.isEmpty then bs.map some else [none]) ++ rest, s)

/-- The units of a COPY in order: each is read and written in full (log 10), poisoned bytes in the form of the destination (07 R130). -/
def State.coreCopy (s : State) (part : Nat) (dst src : Word) (n : Nat) : State :=
  (List.range (unitCount dst.toNat n)).foldl (fun (s : State) u =>
    let (off, len) := unitSpan dst.toNat n u
    let (bs, s) := s.coreRead part (src + BitVec.ofNat 64 off) len
    let ea := dst + BitVec.ofNat 64 off
    let bs := rawBytes (s.rawFormatAt ea) ea.toNat (src.toNat + off) 0 bs
    let (bad, s) := s.writeColumn 0 (s.coreLoc part ea .write) bs
    if bad then s else s.forward 0 true ea bs) s

/-! ### Taking a command -/

def State.streamAt (s : State) (n : Nat) : Option Stream := listGet s.streams n
def State.setStream (s : State) (n : Nat) (x : Stream) : State := { s with streams := listSet s.streams n x }

/-- A dword of the control block is written, where the window still allows it. -/
def State.writeControl (s : State) (x : Stream) (off v : Nat) : State :=
  match s.streamLoc x.part (x.ctl + BitVec.ofNat 64 off) 8 .write with
  | some l => s.poke l (leBytes 8 v)
  | none => s

/-- The stream stops with an error; HEAD stays (16 R303). -/
def State.stopStream (s : State) (n : Nat) (x : Stream) (err : Nat) : State :=
  (s.setStream n { x with err := BitVec.ofNat 8 err }).writeControl x 0x10 err

/-- A stream from which a core can take a command. -/
def Stream.ready (x : Stream) : Bool := x.live && x.err == 0#8 && decide (x.head < x.tail)

/-- A stream's place in the round-robin order of its core (16 R300). -/
def State.turnOf (s : State) (core n : Nat) : Nat := if n < s.coreTurns.get 0 core then n + s.streams.length else n

/-- No stream of the core that could give a command comes before this one. -/
def State.streamTurn (s : State) (n : Nat) (x : Stream) : Bool :=
  !(s.streams.zipIdx.any (fun (e : Stream × Nat) =>
    e.1.core == x.core && e.1.ready && decide (s.turnOf x.core e.2 < s.turnOf x.core n)))

/-- The bytes of a command outside its named fields are zero; named are offset and length. -/
def zeroOutside (b : List Byte) (named : List (Nat × Nat)) : Bool :=
  (List.range b.length).all (fun j => named.any (fun f => decide (f.1 ≤ j) && decide (j < f.1 + f.2)) || b.getD j 0#8 == 0#8)

/-- TAIL_POLL (16 R300): TAIL is read while HEAD = TAIL; a bad TAIL stops the stream with ERR 7, and a control block with a nonzero
zero field with ERR 1, the code of such a field in a command (00 R6, 16 R299; DESIGN CHOICE, log 26). -/
def execTailPoll (n : Nat) (s : State) : Out :=
  match s.streamAt n with
  | none => idle s
  | some x =>
    if !x.live || x.err != 0#8 || x.head != x.tail then idle s
    else match s.streamLoc x.part x.ctl 64 .read with
    | none => .next (s.stopStream n x 5)
    | some l =>
      let b := s.peek l 64
      let tail := natAt b 0 8
      if !zeroOutside b [(0, 17)] then .next (s.stopStream n x 1)
      else if tail % 64 ≠ 0 ∨ tail < x.head then .next (s.stopStream n x 7)
      else .next (s.setStream n { x with tail := tail })

/-- A command under way with what every command carries. -/
def cmdOf (x : Stream) (b : List Byte) (done : Bool) : Cmd where
  index := x.next
  op := natAt b 0 1
  sig := decide (natAt b 1 1 % 2 = 1)
  sigAddr := wordAt b 0x28
  sigVal := wordAt b 0x30
  dst := wordAt b 8
  src := wordAt b 0x10
  len := natAt b 0x18 6
  grid := none
  status := 0#8
  done := done

/-- HEAD moves past the command, which is under way from then on; the next one lies at an address, and the turn passes on. -/
def State.takeCmd (s : State) (n : Nat) (x : Stream) (c : Cmd) (ring : Word) : State :=
  ({ s with coreTurns := s.coreTurns.set x.core (n + 1) }.setStream n { x with head := x.head + 64, ring := ring, next := x.next + 1, cmds := x.cmds ++ [c] }).writeControl x 0x08
    (x.head + 64)

/-- SIGADDR with SIG = 1: a class 3 word of the partition, a multiple of 8. -/
def State.sigOk (s : State) (part : Nat) (b : List Byte) : Bool :=
  natAt b 1 1 % 2 == 0
    || (addrClass (wordAt b 0x28) == 3 && natAt b 0x28 1 % 8 == 0 && (s.streamLoc part (wordAt b 0x28) 8 .write).isSome)

/-- The next command of a stream, when it has OP as its code and it is the stream's turn. A command outside the partition's
windows stops the stream. -/
def State.onCommand (s : State) (n : Nat) (p : Nat → Bool) (k : Stream → List Byte → Out) : Out :=
  match s.streamAt n with
  | none => idle s
  | some x =>
    if !x.ready || !s.streamTurn n x then idle s
    else match s.streamLoc x.part x.ring 64 .read with
    | none => .next (s.stopStream n x 5)
    | some l =>
      let b := s.peek l 64
      if p (natAt b 0 1) then k x b else idle s

/-- ERR 1 of a command without GRID and DEP: bits beside SIG, other bytes, SIGVAL's bit 63. -/
def plainBad (b : List Byte) (named : List (Nat × Nat)) : Bool :=
  !zeroOutside b ([(0, 2), (0x28, 16)] ++ named) || decide (1 < natAt b 1 1) || (wordAt b 0x30).msb

/-- NOP_COMMAND (16 R301). -/
def execNopCommand (n : Nat) (s : State) : Out :=
  s.onCommand n (· == 0) (fun x b =>
    if plainBad b [] then .next (s.stopStream n x 1)
    else if !s.sigOk x.part b then .next (s.stopStream n x 5)
    else .next (s.takeCmd n x (cmdOf x b true) (x.ring + 64#64)))

/-- The dependences of a LAUNCH command: 65,536 marks a completion dependence. -/
def cmdDeps (b : List Byte) : List Nat :=
  (List.range 4).filterMap (fun i =>
    let d := natAt b (0x20 + 2 * i) 2
    if d = 0 then none else some (if natAt b 1 1 / 2 ^ (i + 1) % 2 = 1 then d + 65536 else d))

/-- LAUNCH_COMMAND (16 R302, R303, R305): the checks in the order of ERR, then the grid at the tail of the pending list. -/
def execLaunchCommand (n : Nat) (grid : BitVec 16) (s : State) : Out :=
  s.onCommand n (· == 1) (fun x b =>
    let id := natAt b 2 2
    let teams := natAt b 4 4
    let image := natAt b 8 3
    let entry := natAt b 0xC 4
    let shape := natAt b 0x10 2
    let move := decide (shape / 2 ^ 15 = 1)
    let key := gridKey x.part id
    let args := wordAt b 0x18
    if id ≠ grid.toNat then idle s
    else if !zeroOutside b [(0, 11), (12, 6), (0x18, 32)] || decide (32 ≤ natAt b 1 1) || (wordAt b 0x30).msb
        || (cmdDeps b).any (fun d => d % 65536 == id) then .next (s.stopStream n x 1)
    else if teams = 0 ∨ entry % 4 ≠ 0 ∨ (shape / 2 ^ 10 % 2 = 1 ∧ move) then .next (s.stopStream n x 2)
    else if !s.imageFits x.part image shape then .next (s.stopStream n x 3)
    else if id = 0 ∨ 0x8000 ≤ id ∨ s.gridLive key then .next (s.stopStream n x 4)
    else if addrClass args ≠ 2 ∨ args.toNat % 8 ≠ 0 ∨ !s.inReach x.part args 56 ∨ !s.sigOk x.part b then
      .next (s.stopStream n x 5)
    else if !s.mayEnter x.part x.core then idle s
    else
      let code := (s.images.get Image.zero image).code
      let g := gridOf x.part image (handleAddr code entry) (shape % 2 ^ 15) teams args x.core
      let g := { g with move := move, deps := cmdDeps b, notify := .command n x.next }
      let s := { s with grids := s.grids.set key g }
      let s := s.updPart x.part (fun p => { p with
        pending := p.pending ++ [.grid id]
        entered := some (s.cycle.toNat, x.core) })
      .next (s.takeCmd n x { cmdOf x b false with grid := some id } (x.ring + 64#64)))

/-- COPY_COMMAND (16 R301): it starts when it is taken; its bytes follow (COMMAND_COMPLETION). -/
def execCopyCommand (n : Nat) (s : State) : Out :=
  s.onCommand n (· == 2) (fun x b =>
    let dst := wordAt b 8
    let src := wordAt b 0x10
    let len := natAt b 0x18 6
    if plainBad b [(8, 16), (0x18, 6)] then .next (s.stopStream n x 1)
    else if !s.inReach x.part dst len || !s.inReach x.part src len || !s.sigOk x.part b then .next (s.stopStream n x 5)
    else .next (s.takeCmd n x (cmdOf x b false) (x.ring + 64#64)))

/-- The pages of a range that are absent or in LPDDR are asked for, for a stream. -/
def State.askRange (s : State) (n h : Nat) : Nat → Nat → State
  | _, 0 => s
  | p, m + 1 =>
    let x := s.page h p
    (if !x.p || x.layer == 2#2 then s.askPager (.stream n) h p else s).askRange n h (p + 1) m

/-- HINT_COMMAND (16 R301, 07 R139). -/
def execHintCommand (n : Nat) (s : State) : Out :=
  s.onCommand n (· == 3) (fun x b =>
    let ea := wordAt b 8
    let len := natAt b 0x18 6
    let h := (ea.extractLsb' 36 24).toNat
    let off := (ea.extractLsb' 0 36).toNat
    let z := pageSize (s.handle h).psz
    if plainBad b [(8, 8), (0x18, 6)] then .next (s.stopStream n x 1)
    else if addrClass ea ≠ 2 ∨ !s.inReach x.part ea len ∨ !s.sigOk x.part b then .next (s.stopStream n x 5)
    else
      let pages := if len = 0 then 0 else (off + len - 1) / z - off / z + 1
      .next ((s.askRange n h (off / z) pages).takeCmd n x (cmdOf x b false) (x.ring + 64#64)))

/-- FENCE_COMMAND (16 R301). -/
def execFenceCommand (n : Nat) (s : State) : Out :=
  s.onCommand n (· == 4) (fun x b =>
    if plainBad b [] then .next (s.stopStream n x 1)
    else if !s.sigOk x.part b then .next (s.stopStream n x 5)
    else .next (s.takeCmd n x (cmdOf x b false) (x.ring + 64#64)))

/-- JUMP_COMMAND (16 R301). -/
def execJumpCommand (n : Nat) (s : State) : Out :=
  s.onCommand n (· == 5) (fun x b =>
    let t := wordAt b 8
    if plainBad b [(8, 8)] then .next (s.stopStream n x 1)
    else if addrClass t ≠ 3 ∨ t.toNat % 64 ≠ 0 ∨ (s.streamLoc x.part t 64 .read).isNone ∨ !s.sigOk x.part b then
      .next (s.stopStream n x 5)
    else .next (s.takeCmd n x (cmdOf x b true) t))

/-- UNKNOWN_COMMAND_OP (16 R303): ERR 1. -/
def execUnknownCommandOp (n : Nat) (s : State) : Out := s.onCommand n (fun op => decide (6 ≤ op)) (fun x _ => .next (s.stopStream n x 1))

/-- The pager has finished with the pages that a stream asked for. -/
def State.hintDone (s : State) (n : Nat) : Bool := !s.pageWaits.any (fun (w : PageWait) => w.who == .stream n && !w.failed)

/-- The value that a completion writes: SIGVAL, or bit 63 with the cause. -/
def Cmd.signal (c : Cmd) : Nat := if c.status = 0#8 then c.sigVal.toNat else 2 ^ 63 + c.status.toNat

/-- Command i of a stream has a status. A fault stops the stream, unless an earlier failure has (16 R303). -/
def State.endCopyCmd (s : State) (n i : Nat) (x : Stream) (c : Cmd) (status : BitVec 8) : State :=
  let x : Stream := { x with cmds := listSet x.cmds i { c with done := true, status := status } }
  if status = 0#8 ∨ x.err ≠ 0#8 then s.setStream n x else (s.setStream n x).stopStream n x 6

/-- The bytes of a COPY: once its pages are present and no write to them waits, every byte in one step (log 10). A fault stops the
stream after the command (16 R303 ERR 6). -/
def State.performCopy (s : State) (n i : Nat) (x : Stream) (c : Cmd) : State :=
  match (s.coreFault x.part c.src c.len .read).or (s.coreFault x.part c.dst c.len .write) with
  | some e => s.endCopyCmd n i x c (BitVec.ofNat 8 e.code)
  | none =>
    match (s.coreAbsent c.src c.len).or (s.coreAbsent c.dst c.len) with
    | some (h, p) =>
      match s.pageFailed (.stream n) h p with
      | some s => s.endCopyCmd n i x c (BitVec.ofNat 8 Cause.page.code)
      | none => s.askPager (.stream n) h p
    | none =>
      if addrClass c.dst = 2 ∧ s.hwHeld (c.dst.extractLsb' 36 24).toNat (c.dst.extractLsb' 0 36).toNat c.len then s
      else (s.coreCopy x.part c.dst c.src c.len).endCopyCmd n i x c 0#8

/-- The strand that a flight is of has left its slot. -/
def State.orphan (s : State) (f : Flight) : Bool :=
  let t := s.strand f.who
  t.status == .free || t.uid != f.uid

def State.strandLives (s : State) (uid : Nat) : Bool :=
  s.cells.any (fun (e : Nat × Cell) => e.2.strands.toList.any (fun (t : Strand) => t.uid == uid && t.status != .free))

/-- A write on its way to a replica belongs to a partition. -/
def State.forwardIn (s : State) (part : Nat) (w : Forward) : Bool := (s.pageOfKey w.key).any (fun q => decide (q.2.tenant.toNat = part))

/-- And no running strand that made it still owes it. -/
def State.forwardOwed (s : State) (part : Nat) (w : Forward) : Bool :=
  s.forwardIn part w && (w.core || !(w.seen.take 1).any s.strandLives)

/-- The release at `sys` before a signal: the writes of a partition that no running strand still owes have been performed, at the
replicas too, and the cores' own among them (16 R301). -/
def State.coreReleased (s : State) (part : Nat) : Bool :=
  !s.net.any (fun f => f.part == part && s.orphan f && (match f.body with
      | .mem op _ _ _ => op.writes
      | _ => false))
    && !s.forwards.any (s.forwardOwed part)

/-- COMMAND_COMPLETION (16 R301): a COPY is performed, a fence waits for the commands before it, a hint for the pager. -/
def execCommandCompletion (n i : Nat) (s : State) : Out :=
  match s.streamAt n with
  | none => idle s
  | some x =>
    match listGet x.cmds i with
    | none => idle s
    | some c =>
      let ended := if c.op = 4 then i == 0 else if c.op = 3 then s.hintDone n else c.done
      if c.op == 2 && !c.done then .next (s.performCopy n i x c)
      else if !ended || (c.sig && !s.coreReleased x.part) then idle s
      else
        let s := s.setStream n { x with cmds := listErase x.cmds i }
        let s := { s with pageWaits := s.pageWaits.filter (fun (w : PageWait) => !(w.who == .stream n && w.failed)) }
        if !c.sig then .next s
        else match s.streamLoc x.part c.sigAddr 8 .write with
        | some l => .next (s.poke l (leBytes 8 c.signal))
        | none => .next s

end Sys2Proof.Machine
end

