-- ==== Sys2Proof/Machine/Requests.lean ====
section
/-! DEFINITION. The requests of the host through BAR0, and the module manager's answers (18 R334-R342, R347, R348; 16 R299, R308;
08 R162, R165). -/

namespace Sys2Proof.Machine

open Sys2Proof

/-! ### BAR0 (18 R334, R337) -/

/-- n bytes of a function's BAR0 as a number. -/
def State.bar (s : State) (fn off n : Nat) : Nat := leNat (s.peek (barLoc fn off) n)
def State.barWord (s : State) (fn off : Nat) : Word := BitVec.ofNat 64 (s.bar fn off 8)

/-- A function of the part: the physical one, and one per partition. -/
def State.functionLive (s : State) (fn : Nat) : Bool := fn == 0 || (s.partOf fn).live

/-- The response: result and data, then RESPSEQ. -/
def State.respond (s : State) (fn : Nat) (result : Nat) (data : List Byte) : State :=
  let s := s.poke (barLoc fn 0x100) (leBytes 8 result)
  let s := s.poke (barLoc fn 0x108) data
  s.poke (barLoc fn 0x08) (leBytes 8 (s.bar fn 0 8))

/-- A refusal with a reason; 0 for a request that has no reason codes. -/
def State.refuse (s : State) (fn reason : Nat) : Out := .next (s.respond fn 1 (leBytes 8 reason))
/-- A request done. -/
def State.granted (s : State) (fn : Nat) (data : List Byte) : Out := .next (s.respond fn 0 data)

/-- The bytes of REQ. -/
def State.req (s : State) (fn : Nat) : List Byte := s.peek (barLoc fn 0x40) 0xC0

/-- A request of a code that waits. A function that may not issue it, or a byte of REQ that the request does not name, has it
refused. Offsets of named fields count from 0x48. -/
def State.onRequest (s : State) (fn code : Nat) (physical : Bool) (named : List (Nat × Nat)) (k : Out) : Out :=
  if !s.started || s.bar fn 0 8 == s.bar fn 8 8 || s.bar fn 0x40 1 != code then idle s
  else if (s.partOf fn).resetting && code != 8 then idle s
  else if !s.functionLive fn || (physical && fn != 0) then s.refuse fn 0
  else if !zeroOutside (s.req fn) ((0, 1) :: named.map (fun f => (f.1 + 8, f.2))) then s.refuse fn 0
  else k

/-- UNKNOWN_REQUEST_CODE (18 R334): result 2. -/
def execUnknownRequestCode (fn : Fin 17) (s : State) : Out :=
  let f := fn.val
  let code := s.bar f 0x40 1
  if !s.started || s.bar f 0 8 == s.bar f 8 8 || !(code == 0 || code == 15 || decide (19 ≤ code)) then idle s
  else .next (s.respond f 2 [])

/-! ### Streams and the quantum (16 R299, R308) -/

/-- The streams that a core follows. -/
def State.followed (s : State) (core : Nat) : Nat := (s.streams.filter (fun (x : Stream) => x.live && x.core == core)).length

/-- The core that follows the fewest streams, the lowest column on a tie; in minimal mode that of column 0 (18 R354). -/
def State.nextCore (s : State) : Nat :=
  if s.minimal then 0 else (List.range 16).foldl (fun best c => if s.followed c < s.followed best then c else best) 0

/-- Stream numbers that a partition uses. -/
def State.streamNums (s : State) (part : Nat) : List Nat :=
  s.streams.filterMap (fun (x : Stream) => if x.live && x.part == part then some x.num else none)

/-- A new stream takes the place of one that is gone and has nothing under way. -/
def State.addStream (s : State) (x : Stream) : State :=
  match listFind (fun (y : Stream) => !y.live && y.cmds.isEmpty) s.streams with
  | none => { s with streams := s.streams ++ [x] }
  | some k => { s with streams := listSet s.streams k { x with next := ((listGet s.streams k).map (·.next)).getD 0 } }

/-- REGISTER_STREAM (16 R299). -/
def execRegisterStream (fn : Fin 17) (core : Fin 16) (s : State) : Out :=
  let f := fn.val
  s.onRequest f 1 false [(0, 16)] (
    let ctl := s.barWord f 0x48
    let ring := s.barWord f 0x50
    let nums := s.streamNums f
    let c := s.nextCore
    if 16 ≤ nums.length then s.refuse f 1
    else if 8 ≤ s.followed c then s.refuse f 2
    else if ctl.toNat % 64 ≠ 0 ∨ ring.toNat % 64 ≠ 0 ∨ (s.streamLoc f ctl 64 .read).isNone
        ∨ (s.streamLoc f ctl 64 .write).isNone ∨ (s.streamLoc f ring 64 .read).isNone then s.refuse f 3
    else if core.val ≠ c then idle s
    else
      let num := ((List.range 16).find? (fun k => !nums.contains k)).getD 0
      let x : Stream := {
        live := true, part := f, num := num, core := c, ctl := ctl, ring := ring, next := 0, head := 0, tail := 0,
        err := 0#8, cmds := [] }
      (((s.addStream x).writeControl x 0x08 0).writeControl x 0x10 0).granted f (leBytes 8 num))

/-- UNREGISTER_STREAM (18 R335). -/
def execUnregisterStream (fn : Fin 17) (s : State) : Out :=
  let f := fn.val
  s.onRequest f 2 false [(0, 1)] (
    match listFind (fun (x : Stream) => x.live && x.part == f && x.num == s.bar f 0x48 1) s.streams with
    | none => s.refuse f 0
    | some k =>
      ({ s with streams := s.streams.zipIdx.map (fun (e : Stream × Nat) => if e.2 = k then { e.1 with live := false } else e.1) } :
        State).granted f [])

/-- SET_QUANTUM (16 R308). -/
def execSetQuantum (fn : Fin 17) (s : State) : Out :=
  let f := fn.val
  let q := s.bar f 0x48 1
  s.onRequest f 4 false [(0, 1)] (
    if q < 20 ∨ 28 < q then s.refuse f 0
    else
      (s.updPart f (fun p => { p with qshift := BitVec.ofNat 6 q })).granted f [])

/-! ### Windows (18 R341, R342) -/

/-- The bits of an entry that must be zero, and RED: of a valid entry or not. -/
def WindowEntry.zeros (w : WindowEntry) : Bool :=
  !w.d0.getLsbD 7 && w.d0.extractLsb' 56 8 == 0#8 && w.d1.extractLsb' 56 8 == 0#8 && w.d2.extractLsb' 56 8 == 0#8
    && decide (w.red ≤ 4)

/-- The limits of the fields of a valid entry. -/
def WindowEntry.legal (w : WindowEntry) : Bool :=
  let memb := (w.d0.extractLsb' 16 8).toNat
  let idx := (w.d0.extractLsb' 24 8).toNat
  let tmo := (w.d0.extractLsb' 48 8).toNat
  (w.red == 0 || (w.kind == 1 && decide (2 ≤ memb) && decide (idx < memb) && decide (1 ≤ tmo)))
    && w.base % 4096 == 0 && w.size % 4096 == 0 && decide (4096 ≤ w.size) && decide (w.base + w.size ≤ 2 ^ 56)

def WindowEntry.overlaps (w v : WindowEntry) : Bool :=
  w.kind == v.kind && decide (w.base < v.base + v.size) && decide (v.base < w.base + w.size)

/-- SET_WINDOW (18 R341): VER stays the module manager's. A peer's confirmation is part of the time that the request takes. -/
def execSetWindow (fn : Fin 17) (s : State) : Out :=
  let f := fn.val
  s.onRequest f 3 false [(0, 1), (8, 32)] (
    let n := s.bar f 0x48 1
    let old := (s.partOf f).windows.get WindowEntry.zero n
    let d0 := s.barWord f 0x50
    let w : WindowEntry :=
      ⟨(d0 &&& ~~~0xFF00#64) ||| (old.d0 &&& 0xFF00#64), s.barWord f 0x58, s.barWord f 0x60, s.barWord f 0x68⟩
    if 32 ≤ n ∨ !w.zeros then s.refuse f 0
    else if w.valid && (!w.legal || (s.partOf f).windows.any (fun (e : Nat × WindowEntry) =>
        e.1 != n && e.2.valid && e.2.overlaps w)) then s.refuse f 0
    else (s.updPart f (fun p => { p with windows := p.windows.set n w })).granted f [])

/-! ### Attestation (18 R338, R351, R352) -/

/-- n bytes of a free value. -/
def keyBytes (f : Nat → Byte) (n : Nat) : List Byte := (List.range n).map f

/-- The response of 8,660 bytes in the layout of R338. The keys and Velwiso's signature are fixed at manufacture or by the serial,
and a signature is a function of the key, its index and the bytes signed (log 6). -/
def State.attestation (s : State) (fn : Nat) : List Byte :=
  let serial := s.signatures / 2 ^ 16
  let head := layout 0x128 [
    (0x0000, (s.peek (barLoc fn 0x48) 32)),
    (0x0020, (s.measures.toList.map (fun m => leBytes 32 m.toNat)).flatten),
    (0x0120, leBytes 1 fn)]
  let key := layout 0x50 [(0, keyBytes (Config.attestKeyByte serial) 68), (0x48, leBytes 8 serial)]
  let identity := layout 0x48 [(0, keyBytes Config.identityByte 68)]
  let velwiso := layout 2824 [(0, keyBytes Config.velwisoByte 2820)]
  let cert := layout 2696 [(0, keyBytes (Config.identitySign serial key) 2692)]
  let body := head ++ key ++ identity ++ velwiso ++ cert
  body ++ keyBytes (Config.attestSign serial (s.signatures % 2 ^ 16) body) 2692

/-- ATTEST (18 R338, R352): the counter advances before the signature is released; with every index of the identity key
spent the request is refused. -/
def execAttest (fn : Fin 17) (s : State) : Out :=
  let f := fn.val
  let buf := s.bar f 0x68 8
  s.onRequest f 5 false [(0, 40)] (
    if buf % 64 ≠ 0 ∨ 2 ^ 32 ≤ s.signatures then s.refuse f 0
    else
      (({ s with signatures := s.signatures + 1 } : State).poke ⟨.host, f, buf⟩ (s.attestation f)).granted f (leBytes 8 8660))

/-! ### Muslin routines (08 R162) -/

/-- A routine from its 128 bytes. -/
def routineOf (tenant : BitVec 5) (b : List Byte) : Routine where
  len := BitVec.ofNat 5 (natAt b 0 1)
  v := true
  ret := decide (natAt b 0 1 / 2 ^ 6 % 2 = 1)
  w64 := decide (natAt b 0 1 / 2 ^ 7 % 2 = 1)
  tenant := tenant
  uops := (List.range 16).map (fun k => BitVec.ofNat 32 (natAt b (8 + 4 * k) 4))

/-- The zero bits of a routine, and the IMM bits that its micro-operations do not use (08 R162, 10 R192). -/
def routineZeros (b : List Byte) : Bool :=
  zeroOutside b [(0, 2), (8, 64)] && decide (natAt b 1 1 < 32)
    && (List.range 16).all (fun k =>
      let w := natAt b (8 + 4 * k) 4
      w % 16 == 15 || decide (w < 2 ^ 13))

/-- LOAD_MUSLIN_ROUTINE (08 R162): routines 13 to 63. No muslin core is within a routine between two steps. MR4 is extended
(log 6). -/
def execLoadMuslinRoutine (fn : Fin 17) (s : State) : Out :=
  let f := fn.val
  let n := s.bar f 0x48 1
  s.onRequest f 6 false [(0, 1), (8, 8)] (
    let b := s.peek ⟨.host, f, s.bar f 0x50 8⟩ 128
    let tenant : BitVec 5 := if f = 0 then BitVec.ofNat 5 (natAt b 1 1) else BitVec.ofNat 5 f
    let len := natAt b 0 1 % 32
    if n < 13 ∨ 63 < n ∨ len = 0 ∨ 16 < len ∨ !routineZeros b then s.refuse f 0
    else
      ({ s with muslin := s.muslin.set n (routineOf tenant b)
                measures := s.measures.set 4 (extendMeasure s.measures[4] b) } : State).granted f [])

/-! ### Ending grids and partitions (18 R335, R348) -/

/-- END_GRID (18 R335): 0x16, or 0x14 when SAVEOVF was reported for the grid. -/
def execEndGrid (fn : Fin 17) (s : State) : Out :=
  let f := fn.val
  let key := gridKey f (s.bar f 0x48 2)
  s.onRequest f 7 false [(0, 2)] (
    if !s.gridLive key then s.refuse f 0
    else (s.killGrid key (if (s.grid key).saveovf then .saveovf else .ended)).granted f [])

/-- The frames of a handle are zeroed and wait to be cleared (07 R134, 18 R348, R349); its pages are gone. -/
def State.freePages (s : State) (h : Nat) : State :=
  let e := s.handle h
  let z := pageSize e.psz
  let mine := s.pages.filter (fun (q : Nat × Page) => e.maps q.1)
  let s := mine.foldl (fun (s : State) q =>
    let x := q.2
    let s := x.replicas.foldl (fun (s : State) (c : Nat × Nat) => s.wipe (replicaLoc c.1 c.2 0) z) s
    if x.p then
      { s.wipe (pageLoc x 0) z with
        clearing := s.clearing ++ [⟨x.layer.toNat, x.unit.toNat, x.frame.toNat * 4096, z⟩] }
    else s) s
  { s with pages := s.pages.filter (fun (q : Nat × Page) => !e.maps q.1) }

/-- A handle loses V and its translations (18 R337). -/
def State.closeHandle (s : State) (h : Nat) : State :=
  { s.shootHandle h with handles := s.handles.set h { (s.handle h) with v := false } }

/-- A handle loses V, its translations and its frames (18 R337). -/
def State.dropHandle (s : State) (h : Nat) : State := (s.closeHandle h).freePages h

/-- Accesses of a handle translated before it lost V are not all performed. -/
def State.handleBusy (s : State) (h : Nat) : Bool :=
  let e := s.handle h
  s.pages.any (fun (q : Nat × Page) => e.maps q.1 && q.2.p && s.pageBusy h ((q.1 - e.pmap.toNat) / 8))

/-- A reset of a partition begins (18 R348 steps 1 to 3): STATUS reads 2; streams, pending entries, teams and packets are gone. -/
def State.beginReset (s : State) (pt : Nat) : State :=
  let s := { s with
    streams := s.streams.map (fun (x : Stream) => if x.part = pt then { x with live := false, cmds := [] } else x)
    launches := s.launches.filter (fun (l : DevLaunch) => l.grid.part != pt) }
  let s := (s.teamsOf pt).foldl (fun (s : State) (e : Nat × Nat) => s.releaseTeam e.1 e.2 (s.bindRec e.1 e.2)) s
  let owned (h : Nat) : Bool := (s.handle h).tenant.toNat == pt
  let s := { s with
    net := s.net.filter (fun (f : Flight) => f.part != pt)
    forwards := s.forwards.filter (fun (w : Forward) => !s.forwardIn pt w)
    walks := s.walks.filter (fun (w : Walk) => w.tenant != pt)
    fills := s.fills.filter (fun (w : Fill) => w.part != pt)
    pageWaits := s.pageWaits.filter (fun (w : PageWait) => !owned w.handle)
    grids := s.grids.filter (fun (e : Nat × Grid) => e.2.part != pt) }
  (s.poke (barLoc pt 0x10) [2#8]).updPart pt (fun p => { p with resetting := true, pending := [], rotating := false, stall := 0 })

/-- A reset ends (18 R348 steps 4 and 5): handles, the one that a request was freeing among them, windows and key slots are gone, and the pairs and shares are free (log 27). -/
def State.endReset (s : State) (pt : Nat) : State :=
  let owned := (s.handles.filter (fun (e : Nat × Handle) => e.2.v && e.2.tenant.toNat == pt)).map Prod.fst
    ++ (s.partOf pt).freeing.toList
  let s := { s with images := s.images.filter (fun (e : Nat × Image) => e.2.part != pt) }
  let s := owned.foldl (fun (s : State) h => s.dropHandle h) s
  (s.poke (barLoc pt 0x10) [if s.minimal then 1#8 else 0#8]).updPart pt (fun p =>
    { Part.zero with heatuse := p.heatuse, report := p.report, reportIx := p.reportIx })

/-- The two steps of a reset: none while it is under way. -/
def State.resetPartition (s : State) (pt : Nat) : Bool × State :=
  if (s.partOf pt).resetting then (true, s.endReset pt) else (false, s.beginReset pt)

/-- RESET_PARTITION (18 R335, R348): a virtual function's own, or the one that the physical function names. The response comes
with the end of the reset. -/
def execResetPartition (fn : Fin 17) (s : State) : Out :=
  let f := fn.val
  let pt := if f = 0 then s.bar f 0x48 1 else f
  s.onRequest f 8 false (if f = 0 then [(0, 1)] else []) (
    if pt = 0 ∨ 16 < pt ∨ !(s.partOf pt).live then s.refuse f 0
    else
      let (ended, s) := s.resetPartition pt
      if ended then s.granted f [] else .next s)

/-- FUNCTION_LEVEL_RESET (18 R348): of a virtual function. -/
def execFunctionLevelReset (fn : Fin 17) (s : State) : Out :=
  if fn.val = 0 ∨ !(s.partOf fn.val).live then idle s else .next (s.resetPartition fn.val).2

/-! ### Handles (18 R337) -/

/-- CREATE_HANDLE (18 R337): the lowest free number, its pages filled with zeros when first touched. The page map's place is
the firmware's (log 21). -/
def execCreateHandle (fn : Fin 17) (h : BitVec 24) (pmap : Word) (s : State) : Out :=
  let f := fn.val
  let n := h.toNat
  s.onRequest f 9 false [(0, 24)] (
    let d0 := (s.barWord f 0x48 &&& ~~~0x1F0001#64) ||| 1#64 ||| BitVec.ofNat 64 (2 ^ 16 * f)
    let d1 := s.barWord f 0x50
    let e := handleOf d0 d1 pmap (s.barWord f 0x58)
    if !handleZeros d0 d1 0#64 ∨ !s.acceptsHandle e then s.refuse f 1
    else if 2 ^ 24 - 1 ≤ (s.handles.filter (fun (x : Nat × Handle) => s.handleUsed x.1 && decide (0 < x.1))).length then s.refuse f 2
    else if n = 0 ∨ s.handleUsed n ∨ pmap ≠ ownMap n ∨ !(List.range n).all (fun k => k == 0 || s.handleUsed k) then idle s
    else (s.setHandle n e).granted f (leBytes 8 n))

/-- The handle is an image, or an image names it. -/
def State.inImage (s : State) (h : Nat) : Bool :=
  s.images.any (fun (e : Nat × Image) =>
    e.1 == h || e.2.code.toNat == h || e.2.field 0x10 3 == h || (List.range 8).any (fun k => e.2.field (0x80 + 8 * k) 3 == h))

/-- FREE_HANDLE (18 R337): V and the translations go at once, so later accesses raise PROT; the frames are freed when every
access already translated has been performed (07 R137). -/
def execFreeHandle (fn : Fin 17) (s : State) : Out :=
  let f := fn.val
  let h := s.bar f 0x48 3
  s.onRequest f 10 false [(0, 3)] (
    if (s.partOf f).freeing = some h then
      if s.handleBusy h then idle s
      else ((s.freePages h).updPart f (fun p => { p with freeing := none })).granted f []
    else if !(s.handle h).v ∨ (s.handle h).tenant.toNat ≠ f then s.refuse f 0
    else if s.inImage h then s.refuse f 1
    else .next ((s.closeHandle h).updPart f (fun p => { p with freeing := some h })))

/-- The bytes of a fill list of the firmware's memory. -/
def State.fillSize (s : State) (fill : Nat) : Nat := 16 + 16 * leNat (s.peek (firmwareLoc (16 * fill)) 4)

/-- Firmware memory at a place is in use by no page's fill list. -/
def State.fillFree (s : State) (fill n : Nat) : Bool :=
  decide (0 < fill) && decide (fill < 2 ^ 60) && !s.pages.any (fun (e : Nat × Page) =>
    !e.2.p && e.2.fill != 0 && decide (16 * fill < 16 * e.2.fill + s.fillSize e.2.fill) && decide (16 * e.2.fill < 16 * fill + n))

/-- SET_FILL_LIST (18 R337): the list is copied to firmware memory at a place of the firmware's choice. -/
def execSetFillList (fn : Fin 17) (dst : Nat) (s : State) : Out :=
  let f := fn.val
  let h := s.bar f 0x48 3
  let p := s.bar f 0x50 8
  let list := s.barWord f 0x58
  s.onRequest f 11 false [(0, 3), (8, 16)] (
    let e := s.handle h
    if !e.v ∨ e.tenant.toNat ≠ f ∨ e.limit.toNat < p * pageSize e.psz then s.refuse f 0
    else if (s.page h p).p then s.refuse f 1
    else match s.streamLoc f list 16 .read with
    | none => s.refuse f 3
    | some l =>
      let count := leNat (s.peek l 4)
      if list.toNat % 16 ≠ 0 then s.refuse f 3
      else if count = 0 ∨ 262144 < count then s.refuse f 2
      else match s.streamLoc f list (16 + 16 * count) .read with
      | none => s.refuse f 3
      | some l =>
        if !s.fillFree dst (16 + 16 * count) then idle s
        else
          let s := s.poke (firmwareLoc (16 * dst)) (s.peek l (16 + 16 * count))
          (s.setPage h p { Page.zero with fill := dst }).granted f [])

/-! ### Grid images (18 R339, R340) -/

/-- The zero bits of a header that the field checks leave out. -/
def headerZeros (b : List Byte) : Bool :=
  zeroOutside b [(0, 2), (8, 3), (0x10, 3), (0x18, 8), (0x20, 2), (0x28, 1), (0x30, 8), (0x40, 64), (0x80, 64)]
    && decide (natAt b 0x20 2 < 2 ^ 11) && (List.range 8).all (fun k => natAt b (0x80 + 8 * k + 3) 5 == 0)

/-- A valid handle of the partition. -/
def State.namesHandle (s : State) (part h : Nat) : Bool := (s.handle h).v && (s.handle h).tenant.toNat == part

/-- The checks of R340 on a header; LOFF is a multiple of 64 by R339. -/
def State.headerOk (s : State) (part h : Nat) (b : List Byte) : Bool :=
  let code := natAt b 8 3
  let data := natAt b 0x10 3
  let loff := natAt b 0x18 4
  let llen := natAt b 0x1C 4
  let shape := natAt b 0x20 2
  let clmask := natAt b 0x28 1
  let cl := (s.handle code).limit.toNat
  natAt b 0 2 == 1 && headerZeros b
    && s.namesHandle part code && (s.handle code).pr && (s.handle code).px
    && (data == 0 || s.namesHandle part data)
    && (List.range 8).all (fun k => let n := natAt b (0x80 + 8 * k) 3; n == 0 || s.namesHandle part n)
    && decide (llen ≤ if shape / 2 ^ 10 % 2 = 1 then 0xB000 else 0xC000) && loff % 64 == 0
    && decide (loff + llen ≤ (s.handle h).limit.toNat + 1)
    && natAt b 0x30 4 % 4096 == 0 && natAt b 0x34 4 % 4096 == 0
    && (List.range 8).all (fun k =>
      let d := natAt b (0x40 + 8 * k) 8
      if clmask / 2 ^ k % 2 = 0 then d == 0
      else d % 4 == 1 && decide (d / 4 * 4 ≤ cl))

/-- The PW bit of a handle that images name is set or cleared; its cached translations hold no permission. -/
def State.setPw (s : State) (h : Nat) (w : Bool) : State :=
  { s with handles := s.handles.set h { (s.handle h) with pw := w } }

/-- The image that a partition has registered under a handle. -/
def State.imageAt (s : State) (part h : Nat) : Option Image :=
  (s.images.find? (fun (e : Nat × Image) => e.1 == h && e.2.part == part)).map Prod.snd

/-- REGISTER_GRID_IMAGE (18 R340): PW clears on the image and its code. A handle registered already stays as it is, its
header read again. -/
def execRegisterGridImage (fn : Fin 17) (s : State) : Out :=
  let f := fn.val
  let h := s.bar f 0x48 3
  s.onRequest f 12 false [(0, 3)] (
    let e := s.handle h
    if !s.namesHandle f h ∨ !e.pr ∨ e.fmt ≠ 15#4 then s.refuse f 1
    else match s.hwAbsent h 0 256 with
    | some (h, p) => .next (s.askPager .host h p)
    | none =>
      let (b, bad, s) := s.hwRead h 0 4
      if bad ∨ !s.headerOk f h b then s.refuse f 1
      else
        let code := natAt b 8 3
        let old := s.imageAt f h
        let codeW := ((old.filter (fun x => x.code.toNat == code)).map (·.codeW)).getD (s.handle code).pw
        let x : Image := ⟨f, b, codeW, (old.map (·.imageW)).getD e.pw⟩
        ({ ((s.setPw h false).setPw code false) with images := s.images.set h x } : State).granted f [])

/-- A grid of the partition that was launched from an image has not ended. -/
def State.imageBusy (s : State) (part h : Nat) : Bool :=
  s.grids.any (fun (e : Nat × Grid) => e.2.part == part && e.2.image == h && decide (e.2.teams ≠ 0) && !e.2.finished)
    || s.launches.any (fun (l : DevLaunch) => l.grid.part == part && l.grid.image == h)

/-- RETIRE_GRID_IMAGE (18 R340): the PW bits come back, unless another image still names the code handle, which then keeps the
bit for its own retirement. -/
def execRetireGridImage (fn : Fin 17) (s : State) : Out :=
  let f := fn.val
  let h := s.bar f 0x48 3
  s.onRequest f 13 false [(0, 3)] (
    match s.imageAt f h with
    | none => s.refuse f 0
    | some x =>
      if s.imageBusy f h then s.refuse f 1
      else
        let code := x.code.toNat
        let rest := s.images.filter (fun (e : Nat × Image) => e.1 != h)
        let s := ({ s with images := rest } : State).setPw h x.imageW
        let s := match rest.find? (fun (e : Nat × Image) => e.2.part == f && e.2.code.toNat == code) with
          | some (k, y) => { s with images := s.images.set k { y with codeW := y.codeW || x.codeW } }
          | none => s.setPw code x.codeW
        s.granted f [])

/-! ### Counters (08 R165) -/

/-- A counter's value. -/
def State.counter (s : State) (n unit : Nat) : Nat :=
  let h := s.hub (tileOf unit)
  match n with
  | 0 => (s.cell unit).msgdisc.toNat
  | 1 => (s.cell unit).hlong.toNat
  | 2 => (s.cell unit).gobounce.toNat
  | 3 => h.steps.toNat
  | 4 => h.hireCount.toNat
  | 5 => h.accerr.toNat
  | 6 => h.htcmiss.toNat
  | 7 => h.pagewait.toNat
  | 8 => h.drycyc.toNat
  | 9 => (s.group (groupOf unit)).wrestart.toNat
  | 10 => (s.group (groupOf unit)).wrlock.toNat
  | 11 => (s.pair unit).lstrans.toNat
  | 12 => (s.pair unit).lslast.toNat
  | _ => (s.partOf unit).heatuse.toNat

def State.clearCounter (s : State) (n unit : Nat) : State :=
  let t := tileOf unit
  let g := groupOf unit
  match n with
  | 0 => s.updCell unit (fun x => { x with msgdisc := 0#32 })
  | 1 => s.updCell unit (fun x => { x with hlong := 0#32 })
  | 2 => s.updCell unit (fun x => { x with gobounce := 0#32 })
  | 3 => s.updHub t (fun x => { x with steps := 0#64 })
  | 4 => s.updHub t (fun x => { x with hireCount := 0#64 })
  | 5 => s.updHub t (fun x => { x with accerr := 0#32 })
  | 6 => s.updHub t (fun x => { x with htcmiss := 0#64 })
  | 7 => s.updHub t (fun x => { x with pagewait := 0#64 })
  | 8 => s.updHub t (fun x => { x with drycyc := 0#64 })
  | 9 => s.updGroup g (fun x => { x with wrestart := 0#32 })
  | 10 => s.updGroup g (fun x => { x with wrlock := 0#32 })
  | 11 => s.updPair unit (fun x => { x with lstrans := 0#32 })
  | 12 => s.updPair unit (fun x => { x with lslast := 0#32 })
  | _ => s.updPart unit (fun x => { x with heatuse := 0#64 })

/-- A unit's kind: the cell itself, cell 0 of a tile or of a group, a lower cell, or a partition. -/
def unitOk (n unit : Nat) : Bool :=
  if n = 13 then decide (1 ≤ unit) && decide (unit ≤ 16)
  else cellExists unit && (if n < 3 then true else if n < 9 then unit % 16 == 0 else if n < 11 then unit % 256 == 0
    else dieOf unit == 0)

/-- The partition that holds a cell's super-group pair. -/
def Part.holdsCell (p : Part) (c : Nat) : Bool := p.live && p.pairs.getLsbD (5 * columnOf c + sgField c)

/-- READ_COUNTER (18 R337, 08 R165). -/
def execReadCounter (fn : Fin 17) (s : State) : Out :=
  let f := fn.val
  let n := s.bar f 0x48 1
  let unit := s.bar f 0x50 3
  let clear := s.bar f 0x58 1
  s.onRequest f 14 false [(0, 1), (8, 3), (16, 1)] (
    if 13 < n ∨ 2 ^ 20 ≤ unit ∨ 1 < clear ∨ !unitOk n unit then s.refuse f 0
    else if f ≠ 0 ∧ (if n = 13 then decide (unit ≠ f) else !(s.partOf f).holdsCell unit) then s.refuse f 1
    else (if clear = 1 then s.clearCounter n unit else s).granted f (leBytes 8 (s.counter n unit)))

/-! ### Partitions (18 R347) -/

/-- A share of each layer held by the live partitions. -/
def State.shares (s : State) (f : Part → Nat) : Nat := (s.parts.map (fun (e : Nat × Part) => if e.2.live then f e.2 else 0)).sum

/-- SET_PARTITION (18 R347): free pairs, shares that are left, a report area of 16 KiB. MR5 is extended (log 6). -/
def execSetPartition (fn : Fin 17) (s : State) : Out :=
  let f := fn.val
  let pt := s.bar f 0x48 1
  s.onRequest f 17 true [(0, 1), (8, 49)] (
    let pairs : BitVec 128 := BitVec.ofNat 128 (s.bar f 0x50 16)
    let hbm := s.bar f 0x60 8
    let cap := s.bar f 0x68 8
    let lpddr := s.bar f 0x70 8
    let report := s.barWord f 0x78
    let test := s.bar f 0x80 1
    if s.minimal ∨ pt = 0 ∨ 16 < pt ∨ (s.partOf pt).live ∨ pairs = 0#128 ∨ pairs.extractLsb' 80 48 ≠ 0#48 ∨ 1 < test
        ∨ report.toNat % 16384 ≠ 0 ∨ s.parts.any (fun (e : Nat × Part) => e.2.live && (e.2.pairs &&& pairs) != 0#128)
        ∨ 16 * layerSize 1 < s.shares (·.hbm) + hbm ∨ 16 * layerSize 0 < s.shares (·.cap) + cap
        ∨ 16 * layerSize 2 < s.shares (·.lpddr) + lpddr then s.refuse f 0
    else
      let s := s.updPart pt (fun p => { Part.zero with
        live := true, pairs := pairs, hbm := hbm, cap := cap, lpddr := lpddr, report := report, test := decide (test = 1),
        key := true, heatuse := p.heatuse, quantaAt := s.cycle.toNat })
      let s := s.poke (barLoc pt 0x18) (leBytes 8 0)
      ({ s with measures := s.measures.set 5 (extendMeasure s.measures[5] (s.req f)) } : State).granted f [])

/-! ### Power (18 R355) -/

/-- POWER_STATE (18 R355, R356): a second request replaces the first, before the cycle in which that is due. -/
def execPowerState (fn : Fin 17) (s : State) : Out :=
  let f := fn.val
  let v := s.bar f 0x48 1
  s.onRequest f 16 true [(0, 1)] (
    if 4 < v then s.refuse f 0
    else if s.powerDue then idle s
    else ({ s with powerReq := some (BitVec.ofNat 3 v, s.cycle.toNat) } : State).granted f [])

end Sys2Proof.Machine
end

