-- ==== Sys2Proof/Machine/Power.lean ====
section
/-! DEFINITION. Start-up and minimal mode, part reset, power states, Jorlink ports and in-switch reductions (18 R343-R346,
R353-R357; 07 R144; 08 R162, R163). -/

namespace Sys2Proof.Machine

open Sys2Proof

/-! ### Power states (18 R355, R356) -/

/-- RATE, CEIL and VSP of a power state. -/
def powerTable (p : BitVec 3) : Nat × Nat × Nat :=
  match p.toNat with
  | 0 => (2048, 4096, 4)
  | 1 => (1024, 4096, 2)
  | 2 => (256, 1024, 1)
  | 3 => (512, 2048, 4)
  | _ => (0, 0, 8)

/-- A power state everywhere: a level above CEIL is cut. -/
def State.setPower (s : State) (p : BitVec 3) : State :=
  let (rate, ceil, vsp) := powerTable p
  let cut (v : BitVec 16) : BitVec 16 := BitVec.ofNat 16 (Min.min v.toNat ceil)
  { s with
    power := p, powerReq := none, rate := BitVec.ofNat 16 rate, ceil := BitVec.ofNat 16 ceil, vsp := vsp,
    level := cut s.level
    bonds := s.bonds.map (fun (e : Nat × Bond) => (e.1, { e.2 with tokens := cut e.2.tokens })) }

/-- POWER_STATE_EFFECT (18 R356): at the first multiple of 65,536 cycles after the acceptance, before the refill of that cycle. -/
def execPowerStateEffect (s : State) : Out :=
  match s.powerReq with
  | none => idle s
  | some p => if s.powerDue then .next (s.setPower p.1) else idle s

/-! ### Reset and start (07 R144, 18 R353, R354) -/

/-- A part reset: every field at its reset value but what lies outside the part or keeps its value without power: host and
peer memory, the counters of failed starts and of signatures; and the model's own fields. -/
def State.partReset (s : State) : State :=
  let outside (e : Host.Cell) : Bool := decide (Space.host.code * 2 ^ 96 ≤ e.1) && decide (e.1 < Space.bar0.code * 2 ^ 96)
  { State.reset with
    tick := s.tick
    turn := s.turn
    cur := s.cur
    uids := s.uids
    mem := s.mem.filter outside
    failedStarts := s.failedStarts
    startReasons := s.startReasons
    signatures := s.signatures }

/-- PART_RESET (07 R144). -/
def execPartReset (s : State) : Out := .next s.partReset

/-- The built-in routines' entries (08 R162). -/
def builtinRoutines : Table Routine :=
  (List.range 13).map (fun n => (n, ⟨0#5, true, true, false, 0#5, List.replicate 16 0#32⟩))

/-- The partition of virtual function 0 in minimal mode: all five pairs of column 0 with its HBM, cap and LPDDR (18 R354). -/
def minimalPartition : Part :=
  { Part.zero with live := true, pairs := 31#128, hbm := layerSize 1, cap := layerSize 0, lpddr := layerSize 2, key := true }

/-- Every memory of the part is written with zeros and fresh check bits (07 R144, 18 R353 step 3). -/
def State.zeroMemory (s : State) : State :=
  { s with
    mem := s.mem.filter (fun (e : Host.Cell) => decide (Space.host.code * 2 ^ 96 ≤ e.1))
    flips := []
    rewrites := []
    cells := s.cells.map (fun (e : Nat × Cell) => (e.1, { e.2 with rankTab := [], rankBad := [] }))
    hubs := s.hubs.map (fun (e : Nat × Hub) => (e.1, { e.2 with acc := [], accBad := [] })) }

/-- A start that has succeeded: memory zeroed, power state 0, buckets at CEIL, routines written, boot measured, the counter of
failed starts cleared. -/
def State.startFull (s : State) : State :=
  let s := { s.zeroMemory.setPower 0#3 with
    started := true, minimal := false, full := false, failedStarts := 0, startReasons := []
    muslin := builtinRoutines
    measures := Vector.ofFn (fun (k : Fin 8) => if k.val < 6 then Config.measured k.val else 0#256) }
  { s with
    level := s.ceil, bonds := s.bonds.map (fun (e : Nat × Bond) => (e.1, { e.2 with tokens := s.ceil })) }

/-- A start in minimal mode: STATUS 1, a report for each reason; the counter stays. -/
def State.startMinimal (s : State) : State :=
  let reasons := s.startReasons
  let count := s.failedStarts
  let s := { s.startFull with minimal := true, failedStarts := count, startReasons := reasons,
                              parts := s.parts.set 1 minimalPartition }
  let s := s.poke (barLoc 0 0x10) [1#8]
  let s := s.poke (barLoc 1 0x10) [1#8]
  reasons.foldl (fun (s : State) e => s.report 0 (.start e.1 e.2)) s

/-- The unit of a reason: a stack or column of the sixteen, where the reason has one. -/
def startUnitOk (reason unit : BitVec 8) : Bool :=
  if reason = 1#8 ∨ reason = 6#8 then unit == 0#8 else decide (unit.toNat < 16)

/-- START (18 R353, R354): a failure is counted with its reason, the low byte, and its unit, the second; after three in a row
the start enters minimal mode, unless a restart was asked for. -/
def execStart (ok : Bool) (record : BitVec 16) (s : State) : Out :=
  let reason := record.extractLsb' 0 8
  let unit := record.extractLsb' 8 8
  if s.started then idle s
  else if s.failedStarts ≥ 3 && !s.full then .next s.startMinimal
  else if ok then .next s.startFull
  else if reason == 0#8 || decide (6 < reason.toNat) || !startUnitOk reason unit then idle s
  else
    let reasons := ((s.startReasons ++ [(reason, unit)]).reverse.take 3).reverse
    .next { s with full := false, failedStarts := s.failedStarts + 1, startReasons := reasons }

/-- RESTART (18 R354): from minimal mode, by a full start of a part that is reset; the counter stays. -/
def execRestart (fn : Fin 17) (s : State) : Out :=
  s.onRequest fn.val 18 true [] (
    if !s.minimal then s.refuse fn.val 0 else .next { s.partReset with full := true })

/-! ### Jorlink (18 R343, R346) -/

def State.setPort (s : State) (p : Nat) (x : Port) : State := { s with ports := s.ports.set p x }

/-- LINK_TRAINING (18 R343): session key and identities are agreed, or the port stays down. Jorlink is off in minimal mode. -/
def execLinkTraining (port : Fin 16) (ok : Bool) (s : State) : Out :=
  let x := s.port port.val
  if !s.started || s.minimal || x.trained || x.retired || !ok then idle s
  else .next (s.setPort port.val { x with trained := true, seq := 0 })

/-- JORLINK_FLIT (18 R343): a flit is delivered in order, exactly once; a flit that fails its CRC has been resent. -/
def execJorlinkFlit (port : Fin 16) (s : State) : Out :=
  let x := s.port port.val
  if x.up then .next (s.setPort port.val { x with seq := x.seq + 1 }) else idle s

/-- VER of the valid peer windows whose route uses a port rises by 1 modulo 256. -/
def State.raiseVer (s : State) (port : Nat) : State :=
  let raise (w : WindowEntry) : WindowEntry :=
    if w.valid ∧ w.kind = 1 ∧ s.portFor (w.d3.toNat / 2 ^ 48) = some port then
      { w with d0 := (w.d0 &&& ~~~0xFF00#64) ||| ((w.ver + 1#8).setWidth 64 <<< 8) }
    else w
  { s with parts := s.parts.map (fun (e : Nat × Part) =>
      (e.1, { e.2 with windows := e.2.windows.map (fun (x : Nat × WindowEntry) => (x.1, raise x.2)) })) }

/-- PORT_RETIRE (18 R346): the port takes no new packets, its windows have a new version and other routes. -/
def execPortRetire (port : Fin 16) (s : State) : Out :=
  let x := s.port port.val
  if x.retired then idle s else .next ((s.raiseVer port.val).setPort port.val { x with retired := true })

/-- What a request needs of its window. -/
def MemOp.perm (op : MemOp) : Perm := if op.writes then .write else .read

/-- PEER_VERSION_REFUSAL (18 R346): a packet of an old version stays unperformed; the sending port translates it again and
sends it to the window's new route. -/
def execPeerVersionRefusal (f : Nat) (s : State) : Out :=
  match listGet s.net f with
  | none => idle s
  | some x =>
    match x.body with
    | .mem op l n ea =>
      if l.space ≠ .peer ∨ x.heldBy.isSome ∨ x.pos ≠ x.dst ∨ s.peerTakes x then idle s
      else match s.windowLoc x.part 1 (ea.extractLsb' 0 56).toNat n op.perm with
      | none => idle s
      | some m =>
        match s.portFor m.unit with
        | none => idle s
        | some p =>
          .next { s with net := listSet s.net f
                           { x with body := .mem op m n ea, dst := sysStop p, ver := s.windowVer x.part m ea } }
    | _ => idle s

/-! ### In-switch reductions (18 R344, R345) -/

/-- The copy of a contribution. -/
def State.contribution (s : State) (n : Nat) : Option (Reduction × Copy) :=
  match listGet s.reductions n with
  | none => none
  | some r => ((s.cell r.cell).copies[r.copy]).map (fun k => (r, k))

/-- One element more in a reduction: RED 1 f32 sum, 2 bf16 sum with the element widened, 3 i32 sum, 4 f32 maximum. -/
def reduceStep (red : Nat) (x c : BitVec 32) : BitVec 32 :=
  let wide (v : BitVec 32) : FVal := f32Of 0#8 v
  match red with
  | 1 => f32Rne 0#8 (FVal.add false (wide x) (wide c))
  | 2 => f32Rne 0#8 (FVal.add false (wide x) (fmtBf16.decode false (c.toNat % 65536)))
  | 3 => x + c
  | _ => f32Rne 0#8 (FVal.max (wide x) (wide c))

/-- An element of the result: the contributions in ascending index, this module's own at idx. -/
def reduceElem (red memb idx : Nat) (own : BitVec 32) (other : Nat → BitVec 32) : BitVec 32 :=
  let c (i : Nat) : BitVec 32 := if i = idx then own else other i
  let first := if red = 2 then f32Rne 0#8 (fmtBf16.decode false ((c 0).toNat % 65536)) else c 0
  let sum := ((List.range (memb - 1)).map (fun i => c (i + 1))).foldl (reduceStep red) first
  if red = 2 then BitVec.ofNat 32 (fmtBf16.encode 0 false false 0 (f32Of 0#8 sum)) else sum

/-- The byte of a contribution at a place; a unit read again stands after the first reading (17 R325). -/
def Reduction.byteAt (r : Reduction) (p : Nat) : Byte := ((r.data.reverse.find? (fun e => e.1 == p)).map Prod.snd).getD 0#8

/-- The offset from DST of a place of a contribution. -/
def CopyShape.offsetOf (k : CopyShape) (p : Nat) : Nat :=
  match k with
  | .strided len _ _ dstr => p / len * dstr + p % len
  | _ => p

/-- The result of a reduction, byte by byte: what the other modules contribute is a free value (log 6). -/
def Reduction.result (r : Reduction) (w : WindowEntry) : List (Nat × Byte) :=
  let size := if w.red = 2 then 2 else 4
  let memb := (w.d0.extractLsb' 16 8).toNat
  let idx := (w.d0.extractLsb' 24 8).toNat
  let group := (w.d0.extractLsb' 32 16).toNat
  let places := (r.data.map Prod.fst).dedup
  places.map (fun p =>
    let e := p / size
    let own : BitVec 32 := BitVec.ofNat 32 (leNat ((List.range size).map (fun j => r.byteAt (size * e + j))))
    let v := reduceElem w.red memb idx own (fun i => Config.contributed group i r.number e)
    (p, BitVec.ofNat 8 (v.toNat / 2 ^ (8 * (p % size)))))

/-- The result stands at TARGET of the window as it was when the copy began, in the peer's memory. -/
def State.writeResult (s : State) (r : Reduction) (k : Copy) : State :=
  let w := r.entry
  let off := w.d3.toNat + (k.dst.extractLsb' 0 56).toNat - w.base
  (r.result w).foldl (fun (s : State) e =>
    s.poke ⟨.peer, w.d3.toNat / 2 ^ 48, (off + k.shape.offsetOf e.1) % 2 ^ 48⟩ [e.2]) s

/-- REDUCTION_COMPLETE (18 R344): this module's contribution has been read whole, and every unit of the result has been
performed at the peer. Poison read on the way gives status 8 as for any copy (10 R188). -/
def execReductionComplete (n : Nat) (s : State) : Out :=
  match s.contribution n with
  | none => idle s
  | some (r, k) =>
    let i : SlotId := ⟨r.cell, k.slot⟩
    if !k.todo.isEmpty || k.fault.isSome then idle s
    else match k.poison with
    | none => .next (((s.writeResult r k).dropCopy r.cell r.copy).endCopy i k.uid k.token 0)
    | some l =>
      if !(s.strand i).late.isEmpty then idle s
      else .next ((((s.writeResult r k).dropCopy r.cell r.copy).endCopy i k.uid k.token 8).lateFor i k.uid (k.kept s r.cell) l)

/-- REDUCTION_FAIL (18 R345): status 0x15 and a late REDFAIL of KIND 2; EVAL is a local fault's address. -/
def execReductionFail (n : Nat) (s : State) : Out :=
  match s.contribution n with
  | none => idle s
  | some (r, k) =>
    let i : SlotId := ⟨r.cell, k.slot⟩
    if !(s.strand i).late.isEmpty then idle s
    else
      let pt := s.partAt r.cell
      let s := ((s.dropCopy r.cell r.copy).endCopy i k.uid k.token 0x15).lateFor i k.uid (k.kept s r.cell)
        ⟨.redfail, k.fault.getD 0#64, 2#2 ++ k.token.code.setWidth 16⟩
      .next (s.report pt (.redfail r.window))

end Sys2Proof.Machine
end

