-- ==== Sys2Proof/Machine/Scalar.lean ====
section
/-! DEFINITION. The INT group, the immediate forms, the bit fields and the address arithmetic (09 R166-R173). -/

namespace Sys2Proof.Machine

open Sys2Proof

/-- ADD (09 R169): a + b. -/
def execAdd (w : Bool) (d a : SReg) (b : Src) (sw : Bool) (s : State) : Out :=
  opDAB s d a b sw (alu w valAdd)

/-- SUB (09 R169): a - b. -/
def execSub (w : Bool) (d a : SReg) (b : Src) (sw : Bool) (s : State) : Out :=
  opDAB s d a b sw (alu w valSub)

/-- MUL (09 R169): the low n bits of a b. -/
def execMul (w : Bool) (d a : SReg) (b : Src) (sw : Bool) (s : State) : Out :=
  opDAB s d a b sw (alu w valMul)

/-- DIV (09 R169): signed, truncated. -/
def execDiv (w : Bool) (d a : SReg) (b : Src) (sw : Bool) (s : State) : Out :=
  opDAB s d a b sw (alu w valDiv)

/-- DIVU (09 R169): unsigned. -/
def execDivu (w : Bool) (d a : SReg) (b : Src) (sw : Bool) (s : State) : Out :=
  opDAB s d a b sw (alu w valDivu)

/-- REM (09 R169): signed remainder. -/
def execRem (w : Bool) (d a : SReg) (b : Src) (sw : Bool) (s : State) : Out :=
  opDAB s d a b sw (alu w valRem)

/-- REMU (09 R169): unsigned remainder. -/
def execRemu (w : Bool) (d a : SReg) (b : Src) (sw : Bool) (s : State) : Out :=
  opDAB s d a b sw (alu w valRemu)

/-- SHL (09 R169): left by c. -/
def execShl (w : Bool) (d a : SReg) (b : Src) (sw : Bool) (s : State) : Out :=
  opDAB s d a b sw (alu w valShl)

/-- SHR (09 R169): right by c, zeros in. -/
def execShr (w : Bool) (d a : SReg) (b : Src) (sw : Bool) (s : State) : Out :=
  opDAB s d a b sw (alu w valShr)

/-- SAR (09 R169): right by c, sign in. -/
def execSar (w : Bool) (d a : SReg) (b : Src) (sw : Bool) (s : State) : Out :=
  opDAB s d a b sw (alu w valSar)

/-- ROL (09 R169): rotated left by c. -/
def execRol (w : Bool) (d a : SReg) (b : Src) (sw : Bool) (s : State) : Out :=
  opDAB s d a b sw (alu w valRol)

/-- MULH (09 R169): bits [127:64] of the signed product. -/
def execMulh (d a : SReg) (b : Src) (sw : Bool) (s : State) : Out :=
  opDAB s d a b sw (fun x y => valMulh x y)

/-- MULHN (09 R169): bits [127:64] of the unsigned product. -/
def execMulhn (d a : SReg) (b : Src) (sw : Bool) (s : State) : Out :=
  opDAB s d a b sw (fun x y => valMulhn x y)

/-- AND (09 R169): a and b. -/
def execAnd (d a : SReg) (b : Src) (sw : Bool) (s : State) : Out :=
  opDAB s d a b sw (fun x y => x &&& y)

/-- OR (09 R169): a or b. -/
def execOr (d a : SReg) (b : Src) (sw : Bool) (s : State) : Out :=
  opDAB s d a b sw (fun x y => x ||| y)

/-- XOR (09 R169): a xor b. -/
def execXor (d a : SReg) (b : Src) (sw : Bool) (s : State) : Out :=
  opDAB s d a b sw (fun x y => x ^^^ y)

/-- ANDN (09 R169): a and not b. -/
def execAndn (d a : SReg) (b : Src) (sw : Bool) (s : State) : Out :=
  opDAB s d a b sw (fun x y => x &&& ~~~y)

/-- ORN (09 R169): a or not b. -/
def execOrn (d a : SReg) (b : Src) (sw : Bool) (s : State) : Out :=
  opDAB s d a b sw (fun x y => x ||| ~~~y)

/-- MIN (09 R169): the smaller, signed. -/
def execMin (d a : SReg) (b : Src) (sw : Bool) (s : State) : Out :=
  opDAB s d a b sw (fun x y => if x.slt y then x else y)

/-- MAX (09 R169): the larger, signed. -/
def execMax (d a : SReg) (b : Src) (sw : Bool) (s : State) : Out :=
  opDAB s d a b sw (fun x y => if x.slt y then y else x)

/-- MINU (09 R169): the smaller, unsigned. -/
def execMinu (d a : SReg) (b : Src) (sw : Bool) (s : State) : Out :=
  opDAB s d a b sw (fun x y => if x.ult y then x else y)

/-- MAXU (09 R169): the larger, unsigned. -/
def execMaxu (d a : SReg) (b : Src) (sw : Bool) (s : State) : Out :=
  opDAB s d a b sw (fun x y => if x.ult y then y else x)

/-- SEQ (09 R169): 1 if a = b. -/
def execSeq (d a : SReg) (b : Src) (sw : Bool) (s : State) : Out :=
  opDAB s d a b sw (fun x y => boolWord (x == y))

/-- SNE (09 R169): 1 if a and b differ. -/
def execSne (d a : SReg) (b : Src) (sw : Bool) (s : State) : Out :=
  opDAB s d a b sw (fun x y => boolWord (x != y))

/-- SLT (09 R169): 1 if a < b, signed. -/
def execSlt (d a : SReg) (b : Src) (sw : Bool) (s : State) : Out :=
  opDAB s d a b sw (fun x y => boolWord (x.slt y))

/-- SLTU (09 R169): 1 if a < b, unsigned. -/
def execSltu (d a : SReg) (b : Src) (sw : Bool) (s : State) : Out :=
  opDAB s d a b sw (fun x y => boolWord (x.ult y))

/-- SLE (09 R169): 1 if a is at most b, signed. -/
def execSle (d a : SReg) (b : Src) (sw : Bool) (s : State) : Out :=
  opDAB s d a b sw (fun x y => boolWord (x.sle y))

/-- SLEU (09 R169): 1 if a is at most b, unsigned. -/
def execSleu (d a : SReg) (b : Src) (sw : Bool) (s : State) : Out :=
  opDAB s d a b sw (fun x y => boolWord (x.ule y))

/-- SEL (09 R169): a if D at issue is nonzero, else b. -/
def execSel (d a : SReg) (b : Src) (sw : Bool) (s : State) : Out :=
  scalarOp s (d :: a :: b.regs) d (if s.reg d ≠ 0#64 then s.reg a else s.src b) b.words sw

/-- CLZ (09 R169): leading zeros, 64 for 0. -/
def execClz (d a : SReg) (sw : Bool) (s : State) : Out :=
  opDA s d a sw (fun x => valClz x)

/-- CTZ (09 R169): trailing zeros, 64 for 0. -/
def execCtz (d a : SReg) (sw : Bool) (s : State) : Out :=
  opDA s d a sw (fun x => valCtz x)

/-- POPC (09 R169): one bits. -/
def execPopc (d a : SReg) (sw : Bool) (s : State) : Out :=
  opDA s d a sw (fun x => valPopc x)

/-- BREV (09 R169): bit i moved to bit 63 - i. -/
def execBrev (d a : SReg) (sw : Bool) (s : State) : Out :=
  opDA s d a sw (fun x => x.reverse)

/-- BSWAP (09 R169): byte i moved to byte 7 - i. -/
def execBswap (d a : SReg) (sw : Bool) (s : State) : Out :=
  opDA s d a sw (fun x => valBswap x)

/-- SEXB (09 R169): sext of 8 bits. -/
def execSexb (d a : SReg) (sw : Bool) (s : State) : Out :=
  opDA s d a sw (fun x => (x.setWidth 8).signExtend 64)

/-- SEXH (09 R169): sext of 16 bits. -/
def execSexh (d a : SReg) (sw : Bool) (s : State) : Out :=
  opDA s d a sw (fun x => (x.setWidth 16).signExtend 64)

/-- SEXW (09 R169): sext of 32 bits. -/
def execSexw (d a : SReg) (sw : Bool) (s : State) : Out :=
  opDA s d a sw (fun x => (x.setWidth 32).signExtend 64)

/-- ZEXB (09 R169): zext of 8 bits. -/
def execZexb (d a : SReg) (sw : Bool) (s : State) : Out :=
  opDA s d a sw (fun x => (x.setWidth 8).setWidth 64)

/-- ZEXH (09 R169): zext of 16 bits. -/
def execZexh (d a : SReg) (sw : Bool) (s : State) : Out :=
  opDA s d a sw (fun x => (x.setWidth 16).setWidth 64)

/-- ZEXW (09 R169): zext of 32 bits. -/
def execZexw (d a : SReg) (sw : Bool) (s : State) : Out :=
  opDA s d a sw (fun x => (x.setWidth 32).setWidth 64)

/-- MOV (09 R169): a. -/
def execMov (d a : SReg) (sw : Bool) (s : State) : Out :=
  opDA s d a sw (fun x => x)

/-- ADDI (09 R170): a + imm. -/
def execAddi (d a : SReg) (i : Imm) (sw : Bool) (s : State) : Out :=
  opDI s d a i sw (fun x y => x + y)

/-- ANDI (09 R170): a and imm. -/
def execAndi (d a : SReg) (i : Imm) (sw : Bool) (s : State) : Out :=
  opDI s d a i sw (fun x y => x &&& y)

/-- ORI (09 R170): a or imm. -/
def execOri (d a : SReg) (i : Imm) (sw : Bool) (s : State) : Out :=
  opDI s d a i sw (fun x y => x ||| y)

/-- XORI (09 R170): a xor imm. -/
def execXori (d a : SReg) (i : Imm) (sw : Bool) (s : State) : Out :=
  opDI s d a i sw (fun x y => x ^^^ y)

/-- SLTI (09 R170): 1 if a < imm, signed. -/
def execSlti (d a : SReg) (i : Imm) (sw : Bool) (s : State) : Out :=
  opDI s d a i sw (fun x y => boolWord (x.slt y))

/-- SLTIU (09 R170): 1 if a < imm, unsigned. -/
def execSltiu (d a : SReg) (i : Imm) (sw : Bool) (s : State) : Out :=
  opDI s d a i sw (fun x y => boolWord (x.ult y))

/-- MULI (09 R170): the low 64 bits of a imm. -/
def execMuli (d a : SReg) (i : Imm) (sw : Bool) (s : State) : Out :=
  opDI s d a i sw (fun x y => x * y)

/-- SHLI (09 R170): left by the count. -/
def execShli (d a : SReg) (n : BitVec 6) (sw : Bool) (s : State) : Out :=
  opDA s d a sw (fun x => x <<< n.toNat)

/-- SHRI (09 R170): right, zeros in. -/
def execShri (d a : SReg) (n : BitVec 6) (sw : Bool) (s : State) : Out :=
  opDA s d a sw (fun x => x >>> n.toNat)

/-- SARI (09 R170): right, sign in. -/
def execSari (d a : SReg) (n : BitVec 6) (sw : Bool) (s : State) : Out :=
  opDA s d a sw (fun x => x.sshiftRight n.toNat)

/-- LI (09 R170): the immediate or the literal. -/
def execLi (d : SReg) (i : Imm) (sw : Bool) (s : State) : Out :=
  scalarOp s [] d i.value i.words sw

/-- BFX (09 R171). -/
def execBfx (d a : SReg) (p wm1 : BitVec 6) (sw : Bool) (s : State) : Out :=
  opDA s d a sw (fun x => valBfx x p.toNat (wm1.toNat + 1))

/-- BFI (09 R171): reads D at issue. -/
def execBfi (d a : SReg) (p wm1 : BitVec 6) (sw : Bool) (s : State) : Out :=
  scalarOp s [d, a] d (valBfi (s.reg d) (s.reg a) p.toNat (wm1.toNat + 1)) 1 sw

/-- LEA0 (09 R172): a + (b << 0). -/
def execLea0 (d a : SReg) (b : Src) (sw : Bool) (s : State) : Out :=
  opDAB s d a b sw (fun x y => x + (y <<< 0))

/-- LEA1 (09 R172): a + (b << 1). -/
def execLea1 (d a : SReg) (b : Src) (sw : Bool) (s : State) : Out :=
  opDAB s d a b sw (fun x y => x + (y <<< 1))

/-- LEA2 (09 R172): a + (b << 2). -/
def execLea2 (d a : SReg) (b : Src) (sw : Bool) (s : State) : Out :=
  opDAB s d a b sw (fun x y => x + (y <<< 2))

/-- LEA3 (09 R172): a + (b << 3). -/
def execLea3 (d a : SReg) (b : Src) (sw : Bool) (s : State) : Out :=
  opDAB s d a b sw (fun x y => x + (y <<< 3))

/-- MKCA (09 R172): the class 1 address of cell a, offset b. -/
def execMkca (d a : SReg) (b : Src) (sw : Bool) (s : State) : Out :=
  opDAB s d a b sw valMkca

/-- MKHA (09 R172): the class 2 address of handle a, offset b. -/
def execMkha (d a : SReg) (b : Src) (sw : Bool) (s : State) : Out :=
  opDAB s d a b sw valMkha

/-- ACLS (09 R172): the class of address a. -/
def execAcls (d a : SReg) (sw : Bool) (s : State) : Out :=
  opDA s d a sw valAcls

/-- ACOL (09 R172): the home column owning address a. -/
def execAcol (d a : SReg) (sw : Bool) (s : State) : Out :=
  opDA s d a sw (valAcol (s.reg .ci))

/-- ACELL (09 R172): the home module cell id owning address a. -/
def execAcell (d a : SReg) (sw : Bool) (s : State) : Out :=
  opDA s d a sw (valAcell (s.reg .ci))

/-- TWINOF (09 R172): the same name or address for the twin cell. -/
def execTwinof (d a : SReg) (sw : Bool) (s : State) : Out :=
  opDA s d a sw valTwinof

end Sys2Proof.Machine
end

