-- ==== Sys2Proof/Machine/Dispatch.lean ====
section
/-! DEFINITION. One arm per constructor: which meaning an instruction or event has. -/

namespace Sys2Proof.Machine

open Sys2Proof

/-- What instruction i, or event i of the part, does at state s. -/
def exec (i : Instr) (s : State) : Host.Outcome State Fault Refusal :=
  match i with
  | .add w d a b sw => Sys2Proof.Machine.execAdd w d a b sw s
  | .sub w d a b sw => Sys2Proof.Machine.execSub w d a b sw s
  | .mul w d a b sw => Sys2Proof.Machine.execMul w d a b sw s
  | .mulh d a b sw => Sys2Proof.Machine.execMulh d a b sw s
  | .mulhn d a b sw => Sys2Proof.Machine.execMulhn d a b sw s
  | .div w d a b sw => Sys2Proof.Machine.execDiv w d a b sw s
  | .divu w d a b sw => Sys2Proof.Machine.execDivu w d a b sw s
  | .rem w d a b sw => Sys2Proof.Machine.execRem w d a b sw s
  | .remu w d a b sw => Sys2Proof.Machine.execRemu w d a b sw s
  | .and d a b sw => Sys2Proof.Machine.execAnd d a b sw s
  | .or d a b sw => Sys2Proof.Machine.execOr d a b sw s
  | .xor d a b sw => Sys2Proof.Machine.execXor d a b sw s
  | .andn d a b sw => Sys2Proof.Machine.execAndn d a b sw s
  | .orn d a b sw => Sys2Proof.Machine.execOrn d a b sw s
  | .shl w d a b sw => Sys2Proof.Machine.execShl w d a b sw s
  | .shr w d a b sw => Sys2Proof.Machine.execShr w d a b sw s
  | .sar w d a b sw => Sys2Proof.Machine.execSar w d a b sw s
  | .rol w d a b sw => Sys2Proof.Machine.execRol w d a b sw s
  | .min d a b sw => Sys2Proof.Machine.execMin d a b sw s
  | .max d a b sw => Sys2Proof.Machine.execMax d a b sw s
  | .minu d a b sw => Sys2Proof.Machine.execMinu d a b sw s
  | .maxu d a b sw => Sys2Proof.Machine.execMaxu d a b sw s
  | .seq d a b sw => Sys2Proof.Machine.execSeq d a b sw s
  | .sne d a b sw => Sys2Proof.Machine.execSne d a b sw s
  | .slt d a b sw => Sys2Proof.Machine.execSlt d a b sw s
  | .sltu d a b sw => Sys2Proof.Machine.execSltu d a b sw s
  | .sle d a b sw => Sys2Proof.Machine.execSle d a b sw s
  | .sleu d a b sw => Sys2Proof.Machine.execSleu d a b sw s
  | .sel d a b sw => Sys2Proof.Machine.execSel d a b sw s
  | .clz d a sw => Sys2Proof.Machine.execClz d a sw s
  | .ctz d a sw => Sys2Proof.Machine.execCtz d a sw s
  | .popc d a sw => Sys2Proof.Machine.execPopc d a sw s
  | .brev d a sw => Sys2Proof.Machine.execBrev d a sw s
  | .bswap d a sw => Sys2Proof.Machine.execBswap d a sw s
  | .sexb d a sw => Sys2Proof.Machine.execSexb d a sw s
  | .sexh d a sw => Sys2Proof.Machine.execSexh d a sw s
  | .sexw d a sw => Sys2Proof.Machine.execSexw d a sw s
  | .zexb d a sw => Sys2Proof.Machine.execZexb d a sw s
  | .zexh d a sw => Sys2Proof.Machine.execZexh d a sw s
  | .zexw d a sw => Sys2Proof.Machine.execZexw d a sw s
  | .mov d a sw => Sys2Proof.Machine.execMov d a sw s
  | .addi d a xi sw => Sys2Proof.Machine.execAddi d a xi sw s
  | .andi d a xi sw => Sys2Proof.Machine.execAndi d a xi sw s
  | .ori d a xi sw => Sys2Proof.Machine.execOri d a xi sw s
  | .xori d a xi sw => Sys2Proof.Machine.execXori d a xi sw s
  | .shli d a n sw => Sys2Proof.Machine.execShli d a n sw s
  | .shri d a n sw => Sys2Proof.Machine.execShri d a n sw s
  | .sari d a n sw => Sys2Proof.Machine.execSari d a n sw s
  | .slti d a xi sw => Sys2Proof.Machine.execSlti d a xi sw s
  | .sltiu d a xi sw => Sys2Proof.Machine.execSltiu d a xi sw s
  | .muli d a xi sw => Sys2Proof.Machine.execMuli d a xi sw s
  | .li d xi sw => Sys2Proof.Machine.execLi d xi sw s
  | .bfx d a p wm1 sw => Sys2Proof.Machine.execBfx d a p wm1 sw s
  | .bfi d a p wm1 sw => Sys2Proof.Machine.execBfi d a p wm1 sw s
  | .lea0 d a b sw => Sys2Proof.Machine.execLea0 d a b sw s
  | .lea1 d a b sw => Sys2Proof.Machine.execLea1 d a b sw s
  | .lea2 d a b sw => Sys2Proof.Machine.execLea2 d a b sw s
  | .lea3 d a b sw => Sys2Proof.Machine.execLea3 d a b sw s
  | .mkca d a b sw => Sys2Proof.Machine.execMkca d a b sw s
  | .mkha d a b sw => Sys2Proof.Machine.execMkha d a b sw s
  | .acls d a sw => Sys2Proof.Machine.execAcls d a sw s
  | .acol d a sw => Sys2Proof.Machine.execAcol d a sw s
  | .acell d a sw => Sys2Proof.Machine.execAcell d a sw s
  | .twinof d a sw => Sys2Proof.Machine.execTwinof d a sw s
  | .bz a disp sw => Sys2Proof.Machine.execBz a disp sw s
  | .bnz a disp sw => Sys2Proof.Machine.execBnz a disp sw s
  | .bltz a disp sw => Sys2Proof.Machine.execBltz a disp sw s
  | .bgez a disp sw => Sys2Proof.Machine.execBgez a disp sw s
  | .loop a disp sw => Sys2Proof.Machine.execLoop a disp sw s
  | .jmp disp sw => Sys2Proof.Machine.execJmp disp sw s
  | .jmpr a sw => Sys2Proof.Machine.execJmpr a sw s
  | .call disp sw => Sys2Proof.Machine.execCall disp sw s
  | .callr a sw => Sys2Proof.Machine.execCallr a sw s
  | .ret sw => Sys2Proof.Machine.execRet sw s
  | .ldb d a off sw => Sys2Proof.Machine.execLdb d a off sw s
  | .ldbn d a off sw => Sys2Proof.Machine.execLdbn d a off sw s
  | .ldh d a off sw => Sys2Proof.Machine.execLdh d a off sw s
  | .ldhn d a off sw => Sys2Proof.Machine.execLdhn d a off sw s
  | .ldw d a off sw => Sys2Proof.Machine.execLdw d a off sw s
  | .ldwn d a off sw => Sys2Proof.Machine.execLdwn d a off sw s
  | .ldd d a off sw => Sys2Proof.Machine.execLdd d a off sw s
  | .stb d a off sw => Sys2Proof.Machine.execStb d a off sw s
  | .sth d a off sw => Sys2Proof.Machine.execSth d a off sw s
  | .stw d a off sw => Sys2Proof.Machine.execStw d a off sw s
  | .std d a off sw => Sys2Proof.Machine.execStd d a off sw s
  | .ldv d a off sw => Sys2Proof.Machine.execLdv d a off sw s
  | .stv d a off sw => Sys2Proof.Machine.execStv d a off sw s
  | .ldf d a off sw => Sys2Proof.Machine.execLdf d a off sw s
  | .stf d a off sw => Sys2Proof.Machine.execStf d a off sw s
  | .ldx d a b sw => Sys2Proof.Machine.execLdx d a b sw s
  | .stx d a b sw => Sys2Proof.Machine.execStx d a b sw s
  | .pref a b sw => Sys2Proof.Machine.execPref a b sw s
  | .hint a len sw => Sys2Proof.Machine.execHint a len sw s
  | .cpy d a b n sw => Sys2Proof.Machine.execCpy d a b n sw s
  | .cpys d a b len rows sstr dstr sw => Sys2Proof.Machine.execCpys d a b len rows sstr dstr sw s
  | .gath d a b n sz sw => Sys2Proof.Machine.execGath d a b n sz sw s
  | .scat d a b n sz sw => Sys2Proof.Machine.execScat d a b n sz sw s
  | .cpyc d a b n sw => Sys2Proof.Machine.execCpyc d a b n sw s
  | .aadd w d a b sw => Sys2Proof.Machine.execAadd w d a b sw s
  | .amin w d a b sw => Sys2Proof.Machine.execAmin w d a b sw s
  | .amax w d a b sw => Sys2Proof.Machine.execAmax w d a b sw s
  | .aminu w d a b sw => Sys2Proof.Machine.execAminu w d a b sw s
  | .amaxu w d a b sw => Sys2Proof.Machine.execAmaxu w d a b sw s
  | .aand w d a b sw => Sys2Proof.Machine.execAand w d a b sw s
  | .aor w d a b sw => Sys2Proof.Machine.execAor w d a b sw s
  | .axor w d a b sw => Sys2Proof.Machine.execAxor w d a b sw s
  | .axchg w d a b sw => Sys2Proof.Machine.execAxchg w d a b sw s
  | .acas w d a b sw => Sys2Proof.Machine.execAcas w d a b sw s
  | .afadd32 d a b sw => Sys2Proof.Machine.execAfadd32 d a b sw s
  | .afadd16 d a b sw => Sys2Proof.Machine.execAfadd16 d a b sw s
  | .afmax32 d a b sw => Sys2Proof.Machine.execAfmax32 d a b sw s
  | .fship routine nr d a b sw => Sys2Proof.Machine.execFship routine nr d a b sw s
  | .ndot t d a b n sw => Sys2Proof.Machine.execNdot t d a b n sw s
  | .nsum t d a n sw => Sys2Proof.Machine.execNsum t d a n sw s
  | .nmax t d a n sw => Sys2Proof.Machine.execNmax t d a n sw s
  | .rel sc sw => Sys2Proof.Machine.execRel sc sw s
  | .acq sc sw => Sys2Proof.Machine.execAcq sc sw s
  | .fence sc sw => Sys2Proof.Machine.execFence sc sw s
  | .tsmr sc d a sw => Sys2Proof.Machine.execTsmr sc d a sw s
  | .barinit sc a b sw => Sys2Proof.Machine.execBarinit sc a b sw s
  | .bararr a sw => Sys2Proof.Machine.execBararr a sw s
  | .barwait a sw => Sys2Proof.Machine.execBarwait a sw s
  | .bartest d a sw => Sys2Proof.Machine.execBartest d a sw s
  | .waita d a b sw => Sys2Proof.Machine.execWaita d a b sw s
  | .waitt d a sw => Sys2Proof.Machine.execWaitt d a sw s
  | .yield sw => Sys2Proof.Machine.execYield sw s
  | .sleep a sw => Sys2Proof.Machine.execSleep a sw s
  | .vfpVadd t d a b sw => Sys2Proof.Machine.execVfpVadd t d a b sw s
  | .vfpVsub t d a b sw => Sys2Proof.Machine.execVfpVsub t d a b sw s
  | .vfpVmul t d a b sw => Sys2Proof.Machine.execVfpVmul t d a b sw s
  | .vfma t d a b sw => Sys2Proof.Machine.execVfma t d a b sw s
  | .vfpVmin t d a b sw => Sys2Proof.Machine.execVfpVmin t d a b sw s
  | .vfpVmax t d a b sw => Sys2Proof.Machine.execVfpVmax t d a b sw s
  | .vabs t d a sw => Sys2Proof.Machine.execVabs t d a sw s
  | .vneg t d a sw => Sys2Proof.Machine.execVneg t d a sw s
  | .vdiv t d a b sw => Sys2Proof.Machine.execVdiv t d a b sw s
  | .vsqrt t d a sw => Sys2Proof.Machine.execVsqrt t d a sw s
  | .vexp2 t d a sw => Sys2Proof.Machine.execVexp2 t d a sw s
  | .vfpVcmpeq t d a b sw => Sys2Proof.Machine.execVfpVcmpeq t d a b sw s
  | .vfpVcmplt t d a b sw => Sys2Proof.Machine.execVfpVcmplt t d a b sw s
  | .vcmple t d a b sw => Sys2Proof.Machine.execVcmple t d a b sw s
  | .vintVadd t d a b sw => Sys2Proof.Machine.execVintVadd t d a b sw s
  | .vintVsub t d a b sw => Sys2Proof.Machine.execVintVsub t d a b sw s
  | .vintVmul t d a b sw => Sys2Proof.Machine.execVintVmul t d a b sw s
  | .vintVmin t d a b sw => Sys2Proof.Machine.execVintVmin t d a b sw s
  | .vintVmax t d a b sw => Sys2Proof.Machine.execVintVmax t d a b sw s
  | .vminn t d a b sw => Sys2Proof.Machine.execVminn t d a b sw s
  | .vmaxn t d a b sw => Sys2Proof.Machine.execVmaxn t d a b sw s
  | .vand t d a b sw => Sys2Proof.Machine.execVand t d a b sw s
  | .vor t d a b sw => Sys2Proof.Machine.execVor t d a b sw s
  | .vxor t d a b sw => Sys2Proof.Machine.execVxor t d a b sw s
  | .vshl t d a b sw => Sys2Proof.Machine.execVshl t d a b sw s
  | .vshr t d a b sw => Sys2Proof.Machine.execVshr t d a b sw s
  | .vsar t d a b sw => Sys2Proof.Machine.execVsar t d a b sw s
  | .vintVcmpeq t d a b sw => Sys2Proof.Machine.execVintVcmpeq t d a b sw s
  | .vintVcmplt t d a b sw => Sys2Proof.Machine.execVintVcmplt t d a b sw s
  | .vcmpltn t d a b sw => Sys2Proof.Machine.execVcmpltn t d a b sw s
  | .vbcast t d a sw => Sys2Proof.Machine.execVbcast t d a sw s
  | .vmovs d a lane sw => Sys2Proof.Machine.execVmovs d a lane sw s
  | .vins d a lane sw => Sys2Proof.Machine.execVins d a lane sw s
  | .vshuf d a b sw => Sys2Proof.Machine.execVshuf d a b sw s
  | .vsel d a k w sw => Sys2Proof.Machine.execVsel d a k w sw s
  | .vredadd t d a sw => Sys2Proof.Machine.execVredadd t d a sw s
  | .vredmax t d a sw => Sys2Proof.Machine.execVredmax t d a sw s
  | .vredmin t d a sw => Sys2Proof.Machine.execVredmin t d a sw s
  | .kand d a b sw => Sys2Proof.Machine.execKand d a b sw s
  | .kor d a b sw => Sys2Proof.Machine.execKor d a b sw s
  | .kxor d a b sw => Sys2Proof.Machine.execKxor d a b sw s
  | .knot d a sw => Sys2Proof.Machine.execKnot d a sw s
  | .kmov f sw => Sys2Proof.Machine.execKmov f sw s
  | .vzero d sw => Sys2Proof.Machine.execVzero d sw s
  | .vmov d a sw => Sys2Proof.Machine.execVmov d a sw s
  | .vcvt dt st sat d a sw => Sys2Proof.Machine.execVcvt dt st sat d a sw s
  | .vqblk d a b st kind n sw => Sys2Proof.Machine.execVqblk d a b st kind n sw s
  | .vdqblk d a b dt kind n sw => Sys2Proof.Machine.execVdqblk d a b dt kind n sw s
  | .vscl d a b t sw => Sys2Proof.Machine.execVscl d a b t sw s
  | .hire batch z l o rk d a sw => Sys2Proof.Machine.execHire batch z l o rk d a sw s
  | .mma pair z batch d a b rows cols depth sw => Sys2Proof.Machine.execMma pair z batch d a b rows cols depth sw s
  | .waitb d n sw => Sys2Proof.Machine.execWaitb d n sw s
  | .accget d n sw => Sys2Proof.Machine.execAccget d n sw s
  | .accput a n sw => Sys2Proof.Machine.execAccput a n sw s
  | .accz a n sw => Sys2Proof.Machine.execAccz a n sw s
  | .accld a b sw => Sys2Proof.Machine.execAccld a b sw s
  | .accst a b sw => Sys2Proof.Machine.execAccst a b sw s
  | .hstat d a sw => Sys2Proof.Machine.execHstat d a sw s
  | .hcancel n sw => Sys2Proof.Machine.execHcancel n sw s
  | .accstm a b rows cols fmt stride sw => Sys2Proof.Machine.execAccstm a b rows cols fmt stride sw s
  | .licreq sw => Sys2Proof.Machine.execLicreq sw s
  | .licrel sw => Sys2Proof.Machine.execLicrel sw s
  | .licst d sw => Sys2Proof.Machine.execLicst d sw s
  | .twsig n sw => Sys2Proof.Machine.execTwsig n sw s
  | .twwait d n sw => Sys2Proof.Machine.execTwwait d n sw s
  | .rank d a b sw => Sys2Proof.Machine.execRank d a b sw s
  | .rsend c a b sw => Sys2Proof.Machine.execRsend c a b sw s
  | .rwacc d a b sw => Sys2Proof.Machine.execRwacc d a b sw s
  | .rval d a b sw => Sys2Proof.Machine.execRval d a b sw s
  | .rtld a n sw => Sys2Proof.Machine.execRtld a n sw s
  | .rcnt d n sw => Sys2Proof.Machine.execRcnt d n sw s
  | .rclr n sw => Sys2Proof.Machine.execRclr n sw s
  | .tnew d a b sw => Sys2Proof.Machine.execTnew d a b sw s
  | .tapp d a b sw => Sys2Proof.Machine.execTapp d a b sw s
  | .twalk d a b sw => Sys2Proof.Machine.execTwalk d a b sw s
  | .topen a b sw => Sys2Proof.Machine.execTopen a b sw s
  | .tsum d a b sw => Sys2Proof.Machine.execTsum d a b sw s
  | .tstat d a sel sw => Sys2Proof.Machine.execTstat d a sel sw s
  | .tdrop d a sw => Sys2Proof.Machine.execTdrop d a sw s
  | .put m a b sw => Sys2Proof.Machine.execPut m a b sw s
  | .take d m sw => Sys2Proof.Machine.execTake d m sw s
  | .peek d m sw => Sys2Proof.Machine.execPeek d m sw s
  | .takef d m sw => Sys2Proof.Machine.execTakef d m sw s
  | .pres d m sw => Sys2Proof.Machine.execPres d m sw s
  | .send c a n sw => Sys2Proof.Machine.execSend c a n sw s
  | .maskc c sw => Sys2Proof.Machine.execMaskc c sw s
  | .unmaskc c sw => Sys2Proof.Machine.execUnmaskc c sw s
  | .done sw => Sys2Proof.Machine.execDone sw s
  | .clsr d c sw => Sys2Proof.Machine.execClsr d c sw s
  | .spawn d a sw => Sys2Proof.Machine.execSpawn d a sw s
  | .join a sw => Sys2Proof.Machine.execJoin a sw s
  | .exit sw => Sys2Proof.Machine.execExit sw s
  | .go a sw => Sys2Proof.Machine.execGo a sw s
  | .steald sc sw => Sys2Proof.Machine.execSteald sc sw s
  | .launch d a b t sw => Sys2Proof.Machine.execLaunch d a b t sw s
  | .trap b sw => Sys2Proof.Machine.execTrap b sw s
  | .eret sw => Sys2Proof.Machine.execEret sw s
  | .csrr d n sw => Sys2Proof.Machine.execCsrr d n sw s
  | .csrw n b sw => Sys2Proof.Machine.execCsrw n b sw s
  | .csrs n b sw => Sys2Proof.Machine.execCsrs n b sw s
  | .csrc n b sw => Sys2Proof.Machine.execCsrc n b sw s
  | .bkpt sw => Sys2Proof.Machine.execBkpt sw s
  | .chkpt sw => Sys2Proof.Machine.execChkpt sw s
  | .spill sw => Sys2Proof.Machine.execSpill sw s
  | .fill sw => Sys2Proof.Machine.execFill sw s
  | .htcinv a sw => Sys2Proof.Machine.execHtcinv a sw s
  | .rdcyc d sw => Sys2Proof.Machine.execRdcyc d sw s
  | .ctxsv a dir sw => Sys2Proof.Machine.execCtxsv a dir sw s
  | .windowMove c k => Sys2Proof.Machine.execWindowMove c k s
  | .copyCompletion c xi => Sys2Proof.Machine.execCopyCompletion c xi s
  | .copyFault c xi => Sys2Proof.Machine.execCopyFault c xi s
  | .atomicExecute f => Sys2Proof.Machine.execAtomicExecute f s
  | .fshipExecute f => Sys2Proof.Machine.execFshipExecute f s
  | .nearBankCompletion c k => Sys2Proof.Machine.execNearBankCompletion c k s
  | .releaseComplete c k => Sys2Proof.Machine.execReleaseComplete c k s
  | .sliceAck f => Sys2Proof.Machine.execSliceAck f s
  | .barrierArrivalPerformed f => Sys2Proof.Machine.execBarrierArrivalPerformed f s
  | .barwaitPoll c k => Sys2Proof.Machine.execBarwaitPoll c k s
  | .waittExpiry c k => Sys2Proof.Machine.execWaittExpiry c k s
  | .sleepExpiry c k => Sys2Proof.Machine.execSleepExpiry c k s
  | .monitorPoll c xi => Sys2Proof.Machine.execMonitorPoll c xi s
  | .joinPoll c k => Sys2Proof.Machine.execJoinPoll c k s
  | .blockScaleCompletion c k => Sys2Proof.Machine.execBlockScaleCompletion c k s
  | .operandReadReturn t h col => Sys2Proof.Machine.execOperandReadReturn t h col s
  | .stepBoundary t => Sys2Proof.Machine.execStepBoundary t s
  | .hireCompletion t h => Sys2Proof.Machine.execHireCompletion t h s
  | .waitbReturn c k => Sys2Proof.Machine.execWaitbReturn c k s
  | .heatRefill => Sys2Proof.Machine.execHeatRefill s
  | .capHot b => Sys2Proof.Machine.execCapHot b s
  | .caphotClear b => Sys2Proof.Machine.execCaphotClear b s
  | .licenceHoldExpiry b => Sys2Proof.Machine.execLicenceHoldExpiry b s
  | .licenceGrant b => Sys2Proof.Machine.execLicenceGrant b s
  | .rankNetworkGrant t => Sys2Proof.Machine.execRankNetworkGrant t s
  | .rankArrival f => Sys2Proof.Machine.execRankArrival f s
  | .rwaccPop c k => Sys2Proof.Machine.execRwaccPop c k s
  | .walkerStart g => Sys2Proof.Machine.execWalkerStart g s
  | .walkerCompletion g => Sys2Proof.Machine.execWalkerCompletion g s
  | .putArrival f => Sys2Proof.Machine.execPutArrival f s
  | .messageArrival f => Sys2Proof.Machine.execMessageArrival f s
  | .handlerEntry c => Sys2Proof.Machine.execHandlerEntry c s
  | .handlong c => Sys2Proof.Machine.execHandlong c s
  | .handlerEnd c => Sys2Proof.Machine.execHandlerEnd c s
  | .strandEnd c k => Sys2Proof.Machine.execStrandEnd c k s
  | .goDepart c k => Sys2Proof.Machine.execGoDepart c k s
  | .goArrival f => Sys2Proof.Machine.execGoArrival f s
  | .goAcceptNotice f => Sys2Proof.Machine.execGoAcceptNotice f s
  | .goBounceReturn f => Sys2Proof.Machine.execGoBounceReturn f s
  | .goResendTimeout c k => Sys2Proof.Machine.execGoResendTimeout c k s
  | .arrivalTakesSlot c k => Sys2Proof.Machine.execArrivalTakesSlot c k s
  | .dequePop c k stk spl => Sys2Proof.Machine.execDequePop c k stk spl s
  | .stealRequest c k => Sys2Proof.Machine.execStealRequest c k s
  | .stealRecordArrival f stk spl => Sys2Proof.Machine.execStealRecordArrival f stk spl s
  | .deviceGridEntry n grid => Sys2Proof.Machine.execDeviceGridEntry n grid s
  | .lateTrapEntry c k => Sys2Proof.Machine.execLateTrapEntry c k s
  | .loadDataReturn f => Sys2Proof.Machine.execLoadDataReturn f s
  | .bankAccess r => Sys2Proof.Machine.execBankAccess r s
  | .correctedRewrite n => Sys2Proof.Machine.execCorrectedRewrite n s
  | .packetHop f => Sys2Proof.Machine.execPacketHop f s
  | .translationWalkComplete n => Sys2Proof.Machine.execTranslationWalkComplete n s
  | .codeCacheFill n => Sys2Proof.Machine.execCodeCacheFill n s
  | .pagerResolution n ok unit frame => Sys2Proof.Machine.execPagerResolution n ok unit frame s
  | .pageMove h p => Sys2Proof.Machine.execPageMove h p s
  | .pageMoveCommit h p layer unit frame => Sys2Proof.Machine.execPageMoveCommit h p layer unit frame s
  | .pageEvict h p fill => Sys2Proof.Machine.execPageEvict h p fill s
  | .pageClearComplete h p => Sys2Proof.Machine.execPageClearComplete h p s
  | .handleEntryCommit h d0 d1 d2 d3 => Sys2Proof.Machine.execHandleEntryCommit h d0 d1 d2 d3 s
  | .replicaForward n => Sys2Proof.Machine.execReplicaForward n s
  | .clrouteWrite adapt closed => Sys2Proof.Machine.execClrouteWrite adapt closed s
  | .slotBind g xi rec => Sys2Proof.Machine.execSlotBind g xi rec s
  | .bindTeam pt g die x0 y0 rec hbase => Sys2Proof.Machine.execBindTeam pt g die x0 y0 rec hbase s
  | .quantumBoundary pt g rec => Sys2Proof.Machine.execQuantumBoundary pt g rec s
  | .idleTeamSwap g rec => Sys2Proof.Machine.execIdleTeamSwap g rec s
  | .bindingStallReport pt => Sys2Proof.Machine.execBindingStallReport pt s
  | .teamSaveRequest g rec => Sys2Proof.Machine.execTeamSaveRequest g rec s
  | .saveDrained g rec => Sys2Proof.Machine.execSaveDrained g rec s
  | .saveCommit g rec => Sys2Proof.Machine.execSaveCommit g rec s
  | .teamRestore g rec => Sys2Proof.Machine.execTeamRestore g rec s
  | .tailPoll n => Sys2Proof.Machine.execTailPoll n s
  | .nopCommand n => Sys2Proof.Machine.execNopCommand n s
  | .launchCommand n grid => Sys2Proof.Machine.execLaunchCommand n grid s
  | .copyCommand n => Sys2Proof.Machine.execCopyCommand n s
  | .hintCommand n => Sys2Proof.Machine.execHintCommand n s
  | .fenceCommand n => Sys2Proof.Machine.execFenceCommand n s
  | .jumpCommand n => Sys2Proof.Machine.execJumpCommand n s
  | .commandCompletion n xi => Sys2Proof.Machine.execCommandCompletion n xi s
  | .registerStream fn core => Sys2Proof.Machine.execRegisterStream fn core s
  | .unregisterStream fn => Sys2Proof.Machine.execUnregisterStream fn s
  | .setWindow fn => Sys2Proof.Machine.execSetWindow fn s
  | .setQuantum fn => Sys2Proof.Machine.execSetQuantum fn s
  | .attest fn => Sys2Proof.Machine.execAttest fn s
  | .loadMuslinRoutine fn => Sys2Proof.Machine.execLoadMuslinRoutine fn s
  | .endGrid fn => Sys2Proof.Machine.execEndGrid fn s
  | .resetPartition fn => Sys2Proof.Machine.execResetPartition fn s
  | .createHandle fn h pmap => Sys2Proof.Machine.execCreateHandle fn h pmap s
  | .freeHandle fn => Sys2Proof.Machine.execFreeHandle fn s
  | .setFillList fn dst => Sys2Proof.Machine.execSetFillList fn dst s
  | .registerGridImage fn => Sys2Proof.Machine.execRegisterGridImage fn s
  | .retireGridImage fn => Sys2Proof.Machine.execRetireGridImage fn s
  | .readCounter fn => Sys2Proof.Machine.execReadCounter fn s
  | .powerState fn => Sys2Proof.Machine.execPowerState fn s
  | .powerStateEffect => Sys2Proof.Machine.execPowerStateEffect s
  | .setPartition fn => Sys2Proof.Machine.execSetPartition fn s
  | .restart fn => Sys2Proof.Machine.execRestart fn s
  | .functionLevelReset fn => Sys2Proof.Machine.execFunctionLevelReset fn s
  | .partReset => Sys2Proof.Machine.execPartReset s
  | .start ok reason => Sys2Proof.Machine.execStart ok reason s
  | .linkTraining port ok => Sys2Proof.Machine.execLinkTraining port ok s
  | .jorlinkFlit port => Sys2Proof.Machine.execJorlinkFlit port s
  | .peerVersionRefusal f => Sys2Proof.Machine.execPeerVersionRefusal f s
  | .portRetire port => Sys2Proof.Machine.execPortRetire port s
  | .reductionComplete n => Sys2Proof.Machine.execReductionComplete n s
  | .reductionFail n => Sys2Proof.Machine.execReductionFail n s
  | .goResendRequestArrival f => Sys2Proof.Machine.execGoResendRequestArrival f s
  | .unknownRequestCode fn => Sys2Proof.Machine.execUnknownRequestCode fn s
  | .unknownCommandOp n => Sys2Proof.Machine.execUnknownCommandOp n s

end Sys2Proof.Machine
end

