-- ==== Sys2Proof/Machine/Issue.lean ====
section
/-! DEFINITION. How the module goes on by one step: a slot fetches, decodes and issues (02 R33, 04 R64, R372, 17 R315), an
event of the module happens, the clock advances with what falls due at a cycle, or the outside world acts. Which of these
comes next is a free value (log 1). -/

namespace Sys2Proof.Machine

open Sys2Proof

/-! ### Fetch (04 R64, R372) -/

/-- What a fetch finds. -/
inductive Got (α : Type) where
  | some (x : α) (s : State)
  /-- The strand is Stalled: a walk, a page in transit, or a code cache miss. -/
  | wait (s : State)
  /-- The page is absent, and the pager has been asked for it. -/
  | page (h p : Nat) (s : State)
  | bad (c : Cause) (ev : Word) (s : State)

/-- The 32-bit word at a byte of a line, little-endian. -/
def wordIn (bs : List Byte) (off : Nat) : IWord := BitVec.ofNat 32 (leNat ((bs.drop off).take 4))

/-- A missing line is read once for all the cells of the tile that miss it. -/
def State.askLine (s : State) (i : SlotId) (part h line : Nat) : State :=
  let tile := tileOf i.cell
  let me := (i, (s.strand i).uid)
  let same (f : Fill) : Bool := f.tile == tile && f.part == part && f.handle == h && f.line == line
  if s.fills.any same then
    { s with fills := s.fills.map (fun (f : Fill) => if same f && !f.who.contains me then { f with who := f.who ++ [me] } else f) }
  else { s with fills := s.fills ++ [⟨tile, part, h, line, [me]⟩] }

/-- The fill that a strand waited for has failed. -/
def State.lineFailed (s : State) (i : SlotId) (h line : Nat) : Bool :=
  (s.hub (tileOf i.cell)).fetchFails.any (fun (f : FetchFail) =>
    f.who == i && f.uid == (s.strand i).uid && f.handle == h && f.line == line)

/-- One word of a handle through the code cache of the tile's hub: a hit needs no translation; a miss is translated, and
the line is read. A line that could not be read is the fault of the first word fetched from it (R372). -/
def State.fetchHandle (s : State) (i : SlotId) (ea : Word) (h off : Nat) : Got IWord :=
  let w := s.whoAt i
  match s.checkHandle w h off 4 .exec with
  | some c => .bad c ea s
  | none =>
    let tile := tileOf i.cell
    match (s.hub tile).code.find? (fun (x : CodeLine) => x.part == w.part && x.handle == h && x.line == off / 64) with
    | some x => .some (wordIn x.bytes (off % 64)) (s.updHub tile (fun b => { b with code := touchLine x b.code }))
    | none =>
      if s.lineFailed i h (off / 64) then
        .bad .poison ea (s.updHub tile (fun b => { b with fetchFails := b.fetchFails.filter (fun f => f.who != i) }))
      else match s.resolvePage w ea h off .exec noPromote with
      | .ok _ s => .wait (s.askLine i w.part h (off / 64))
      | .stall s => .wait s
      | .absent h p s => .page h p s
      | .bad c ev s => .bad c ev s

/-- One word at an address: the class of the program counter decides the fault (04 R64). Of class 0 or 1 it is PROT whatever the
must-be-zero field holds, for which R64 names ADDR too (DESIGN CHOICE, log 64). -/
def State.fetchWord (s : State) (i : SlotId) (ea : Word) : Got IWord :=
  if addrClass ea = 0 ∨ addrClass ea = 1 ∨ addrClass ea = 3 then .bad .prot ea s
  else match parseAddr i.cell ea with
  | some (.handle h off) => s.fetchHandle i ea h off
  | _ => .bad .addr ea s

/-- n words from an address, in order. -/
def State.fetchWords (s : State) (i : SlotId) (ea : Word) : Nat → Got (List IWord)
  | 0 => .some [] s
  | n + 1 =>
    match s.fetchWord i ea with
    | .wait s => .wait s
    | .page h p s => .page h p s
    | .bad c ev s => .bad c ev s
    | .some w s =>
      match s.fetchWords i (ea + 4#64) n with
      | .some ws s => .some (w :: ws) s
      | g => g

/-- The words of the slot's next instruction: word 0, and those its LEN asks for. All are fetched before word 0 is decoded, so of an
illegal word 0 whose further words fault in fetch the fetch fault is taken (DESIGN CHOICE, log 49). -/
def State.fetchInstr (s : State) (i : SlotId) : Got (List IWord) :=
  let pc := (s.strand i).pc
  match s.fetchWord i pc with
  | .wait s => .wait s
  | .page h p s => .page h p s
  | .bad c ev s => .bad c ev s
  | .some w s => s.fetchWords i pc (wordCount w)

/-! ### Issue (02 R32, R33; 17 R315) -/

/-- The slot could issue but for a yield: it is Ready, is not stopped by a team save, which lets handlers run on (17 R320),
and is no handler at its 2,049th instruction (02 R45). -/
def State.mayIssue (s : State) (i : SlotId) : Bool :=
  let t := s.strand i
  decide (t.status = .ready) && !(i.slot != 4 && s.saving i.cell 2)
    && !(i.slot == 4 && t.tooLong)

/-- The undo log of the slot's lockstep pair is full (02 R48, log 9). -/
def State.logFull (s : State) (i : SlotId) : Bool :=
  let q := s.pair (pairOf i.cell)
  (s.strand i).lock && !q.log.isEmpty && decide (Config.undoLog ≤ q.log.length)

/-- Something comes before the slot's next instruction (17 R315). -/
def State.preempts (s : State) (i : SlotId) : Bool := (s.strand i).stepDue || (s.strand i).takesLate || s.logFull i

/-- What an instruction of n words leaves under way once it has issued (09 R167, 11 R201): it has completed, or its strand waits in
it. -/
def State.keepResults (s : State) (i : SlotId) (x : Instr) (n : Nat) (was : Strand) : State :=
  let t := s.strand i
  if t.pc = was.pc + BitVec.ofNat 64 (4 * n) ∨ (t.pc = was.pc ∧ t.status ≠ was.status) then s.noteResults i x was else s

/-- The words decoded and run, unless the instruction is Stalled on a fixed-latency result or a busy divider (02 R32); words that are
no instruction raise ILL with EVAL word 0 (04 R80). -/
def State.runWords (s : State) (i : SlotId) (ws : List IWord) : Out :=
  let s := { s with cur := i }
  match decode ws with
  | .error _ => s.trap .ill ((ws.headD 0#32).setWidth 64)
  | .ok (ins, _) =>
    if s.interlocked i ins then .next s
    else match exec ins s with
      | .next t => .next (t.keepResults i ins ws.length (s.strand i))
      | r => r

/-- What a slot that could issue does, when it is not Stalled after a transfer or a trap: SSTEP that is due, a late trap, the
checkpoint of a full undo log, or its next instruction. -/
def State.tryIssue (s : State) (i : SlotId) : Out :=
  if s.cycle.toNat < (s.strand i).hold then .next s
  else if (s.strand i).stepDue then .next (s.enterStep i)
  else if (s.strand i).takesLate then .next (s.enterLate i)
  else if s.logFull i then .next (s.checkpoint i)
  else match s.fetchInstr i with
    | .wait s => .next s
    | .page h p s => .next (s.upd i (fun t => { t with status := .parked (.page h p), words := 0, marker := false }))
    | .bad c ev s => .next (s.trapAt i c ev)
    | .some ws s => s.runWords i ws

/-- The strand has not gone on: its instruction has not issued. -/
def Strand.still (t was : Strand) : Bool :=
  decide (t.pc = was.pc) && decide (t.status = was.status) && decide (t.instret = was.instret)

/-- The slot is Ready, and not Stalled on an interlock (02 R32). -/
def State.isReady (s : State) (i : SlotId) : Bool :=
  s.mayIssue i && (match s.tryIssue i with
    | .next t => !(t.strand i).still (s.strand i)
    | _ => true)

/-- The slot has yielded, and a slot noted then is Ready and has not issued (10 R199). -/
def State.yielding (s : State) (i : SlotId) : Bool :=
  (s.cell i.cell).yields.any (fun (y : Fin 5 × List (Fin 5)) => y.1 == i.slot && y.2.any (fun j => s.isReady ⟨i.cell, j⟩))

/-- The slots in cyclic order from the one after the slot that issued last (02 R33). -/
def slotsAfter (last : Fin 5) : List (Fin 5) := [last + 1, last + 2, last + 3, last + 4, last]

/-- It is not the slot's turn: its cell has issued in this cycle, or a slot before it in the cyclic order is Ready (02
R33). -/
def State.outOfTurn (s : State) (i : SlotId) : Bool :=
  let x := s.cell i.cell
  decide (x.issuedAt = some s.cycle.toNat)
    || ((slotsAfter x.lastSlot).takeWhile (· != i.slot)).any (fun k => !s.yielding ⟨i.cell, k⟩ && s.isReady ⟨i.cell, k⟩)

/-- The slots that yielding slots of the cell still let pass after slot j has issued. -/
def State.passYields (s : State) (c : Nat) (j : Fin 5) : State :=
  if (s.cell c).yields.isEmpty then s
  else s.updCell c (fun x =>
    { x with yields := x.yields.filterMap (fun (y : Fin 5 × List (Fin 5)) =>
        let l := y.2.filter (fun k => k != j && s.isReady ⟨c, k⟩)
        if l.isEmpty then none else some (y.1, l)) })

/-- What issuing does beside the instruction: the slot and cycle of the issue, and the yields that it ends. -/
def State.issued (s : State) (i : SlotId) (was : Strand) : State :=
  if (s.strand i).still was then s
  else
    let n := s.cycle.toNat
    let s := s.upd i (fun t => { t with lastIssue := n })
    (s.updCell i.cell (fun x => { x with lastSlot := i.slot, issuedAt := some n })).passYields i.cell i.slot

/-- A slot's turn. -/
def State.runIssue (s : State) (i : SlotId) : Out :=
  if !s.mayIssue i || s.yielding i || s.outOfTurn i then idle s
  else match s.tryIssue i with
  | .next t => if s.preempts i then .next t else .next (t.issued i (s.strand i))
  | .fault r => .fault r
  | .refused r => .refused r

/-! ### Events -/

/-- The cell of the strand that sent a flight. -/
def State.flightCell (s : State) (f : Nat) : Nat := ((listGet s.net f).map (·.srcCell)).getD 0

/-- An event of cells and tiles that stand still: their team's save image is written and not yet committed (17 R320). -/
def State.frozen (s : State) : Instr → Bool
  | .windowMove c _ | .copyCompletion c _ | .copyFault c _ | .nearBankCompletion c _ | .releaseComplete c _
  | .barwaitPoll c _ | .waittExpiry c _ | .sleepExpiry c _ | .monitorPoll c _ | .joinPoll c _
  | .blockScaleCompletion c _ | .waitbReturn c _ | .rwaccPop c _ | .handlerEntry c | .handlong c | .handlerEnd c
  | .strandEnd c _ | .goDepart c _ | .goResendTimeout c _ | .arrivalTakesSlot c _ | .dequePop c _ _ _
  | .stealRequest c _ => s.saving c 3
  | .lateTrapEntry c k => s.saving c (if k = 4 then 3 else 2)
  | .operandReadReturn t _ _ | .stepBoundary t | .hireCompletion t _ | .rankNetworkGrant t => s.saving (16 * t) 3
  | .barrierArrivalPerformed f => s.saving (s.flightCell f) 3
  | .reductionComplete n | .reductionFail n =>
    match listGet s.reductions n with
    | some r => s.saving r.cell 3
    | none => false
  | .bankAccess r =>
    match r with
    | .flight _ => false
    | .copyUnit c _ _ => s.saving c 3
    | .hireWrite t _ _ => s.saving (16 * t) 3
    | .near c _ => s.saving c 3
    | .blockScale c _ | .ranking c _ => s.saving c 3
  | _ => false

/-- An event's turn; an instruction is no event. -/
def State.runEvent (s : State) (e : Instr) : Out :=
  if e.isEvent && !s.frozen e then exec e s else idle s

/-! ### The clock (06 R122; 08 R163, R165; 16 R308; 18 R356) -/

/-- The hub's counters of a cycle: PAGEWAIT and DRYCYC (08 R165). -/
def State.countCycle (s : State) (t : Nat) (h : Hub) : Hub :=
  { h with
    pagewait := if h.hires.any (fun (r : Hire) => decide (r.state = .onPage)) then h.pagewait + 1#64 else h.pagewait
    drycyc := if (s.bondAt t).dry && s.holds t then h.drycyc + 1#64 else h.drycyc }

/-- A partition whose quantum begins at this cycle (16 R308). -/
def State.dueQuantum (s : State) : Option Nat :=
  (s.parts.find? (fun (e : Nat × Part) =>
    e.2.live && decide (s.cycle.toNat % e.2.quantum = 0) && decide (e.2.quantaAt ≠ s.cycle.toNat))).map Prod.fst

/-- The clock's turn: what falls due at this cycle comes first; then CYCLE rises by 1. -/
def State.runClock (s : State) : Out :=
  if s.powerDue then execPowerStateEffect s
  else if s.refillDue then execHeatRefill s
  else match s.dueQuantum with
    | some pt => .next (s.beginQuantum pt)
    | none =>
      let s := (s.parts.map Prod.fst).foldl State.endRotation s
      .next { s with
        cycle := s.cycle + 1#64
        hubs := s.hubs.map (fun (e : Nat × Hub) => (e.1, s.countCycle e.1 e.2)) }

/-! ### The outside world -/

/-- The bytes of BAR0 that the host writes: REQSEQ and REQ (18 R334). -/
def hostOwns (addr : Nat) : Bool := decide (addr < 8) || (decide (0x40 ≤ addr) && decide (addr < 0x100))

/-- Where a peer's write may land: bytes of one column of a cap, HBM or LPDDR layer; which of them its inbound range opens is
the host's (log 40). -/
def inboundPlace (l : Loc) (n : Nat) : Bool :=
  decide (l.addr % 32 + n ≤ 32) && match l.space with
  | .cap => decide (l.unit < 16) && decide (l.addr + n ≤ layerSize 0)
  | .hbm => decide (l.unit < 16) && decide (l.addr + n ≤ layerSize 1)
  | .lpddr => decide (l.unit < 16) && decide (l.addr + n ≤ layerSize 2)
  | _ => false

/-- Bits of a column of a memory change: where that leaves a word of the code, the data are then those (07 R128). -/
def State.upsetColumn (s : State) (l : Loc) (bits : List Nat) : State :=
  let ps := flipAll (s.flips.get [] l.column) (bits.filter (fun p => decide (p < 266)))
  match l.space with
  | .host | .peer | .bar0 => s
  | .hbm => s.setFlips l.column ps
  | _ => (s.flipData l.column (correction ps).1).setFlips l.column (correction ps).2

/-- Elements of w bits of a table with the data bits at some positions inverted: the first element is number base. -/
def flipElems {w : Nat} (t : Table (BitVec w)) (base : Nat) (ps : List Nat) : Table (BitVec w) :=
  (List.range 256).foldl (fun (t : Table (BitVec w)) d =>
    if ps.contains (dataPosition d) then t.set (base + d / w) (t.get 0#w (base + d / w) ^^^ BitVec.ofNat w (2 ^ (d % w))) else t) t

/-- The positions of a unit that read wrong. -/
def setBad (t : Table (List Nat)) (u : Nat) (ps : List Nat) : Table (List Nat) := if ps.isEmpty then freshUnit t u else t.set u ps

/-- What the outside world does (logs 1, 3). A peer's packet is performed only when its version is the current one of its
sender, and is otherwise held at the sender (18 R346); a peer that retires a port raises its version. -/
def State.runWorld (s : State) : World → Out
  | .hostWrite fn addr b => if fn < 17 ∧ addr < 2 ^ 64 then .next (s.poke ⟨.host, fn, addr⟩ [b]) else idle s
  | .peerWrite m addr b => if m < 2 ^ 16 ∧ addr < 2 ^ 48 then .next (s.poke ⟨.peer, m, addr⟩ [b]) else idle s
  | .inboundWrite m ver l bs =>
    if m < 2 ^ 16 ∧ (s.portFor m).isSome ∧ ver = s.senders.get 0#8 m ∧ inboundPlace l bs.length then
      .next (s.writeColumn 0 l bs).2
    else idle s
  | .adoptVersion m =>
    if m < 2 ^ 16 then .next { s with senders := s.senders.set m (s.senders.get 0#8 m + 1#8) } else idle s
  | .barWrite fn addr b => if fn < 17 ∧ hostOwns addr then .next (s.poke (barLoc fn addr) [b]) else idle s
  | .upset l bits => .next (s.upsetColumn l bits)
  | .accUpset tile unit bits =>
    .next (s.updHub tile (fun h =>
      let (data, rest) := correction (flipAll (h.accBad.get [] unit) (bits.filter (fun p => decide (p < 266))))
      { h with acc := flipElems h.acc (8 * unit) data, accBad := setBad h.accBad unit rest }))
  | .rankUpset cell col bits =>
    .next (s.updCell cell (fun x =>
      let (data, rest) := correction (flipAll (x.rankBad.get [] col) (bits.filter (fun p => decide (p < 266))))
      { x with rankTab := flipElems x.rankTab (16 * col) data, rankBad := setBad x.rankBad col rest }))
  | .diverge p held =>
    if dieOf p = 0 ∧ (s.recOf p).any (·.lock) ∧ !(s.pair p).fenced then
      .next (if held then s.updPair p (fun q => { q with diverged := true }) else s.rollback p)
    else idle s
  | .endGrid g cause => .next (s.killGrid g cause)
  | .runtime i => if s.mayIssue i then .next (s.runtime i) else idle s
  | .measure upper digest =>
    let k : Fin 8 := if upper then 7 else 6
    .next { s with measures := s.measures.set k (extendDigest s.measures[k] (leBytes 32 digest.toNat)) }

/-! ### A step -/

/-- The turn of the agent that State.turn names. -/
def State.runTurn (s : State) : Out :=
  match s.turn with
  | .clock => s.runClock
  | .issue i => s.runIssue i
  | .event e => s.runEvent e
  | .world w => s.runWorld w

/-- The count of steps rises, and a free value names the agent that moves next (log 1). -/
def State.nextTurn (s : State) : State := { s with tick := s.tick + 1, turn := Config.schedule (s.tick + 1) }

/-- One step of the module. -/
def State.oneStep (s : State) : Out :=
  match s.runTurn with
  | .next t => .next t.nextTurn
  | .fault r => .fault r
  | .refused r => .refused r

end Sys2Proof.Machine
end

