-- ==== Sys2Proof/Machine/Step.lean ====
section
/-! DEFINITION. One step of the module, and the state in which a given instruction is the next to be fetched. -/

namespace Sys2Proof.Machine

open Sys2Proof

/-- One step (log 1). -/
def step (s : State) : Host.Outcome State Fault Refusal := s.oneStep

/-- The bind record of the team that withFetchWord binds: one tile of die 0 of column 0, one strand a cell, partition 1. -/
def fetchRecord : BindRec := { BindRec.zero with v := true, part := 1#5 }

/-- The code handle of that team: handle 1, executable, one 4 KiB page. -/
def fetchHandleEntry : Handle := { Handle.zero with v := true, px := true, tenant := 1#5, limit := 0xFFF#36 }

/-- The page of it: frame 0 of column 0's HBM. -/
def fetchPage : Page := { Page.zero with p := true, layer := 1#2 }

/-- The state with an instruction placed where the next step fetches: the words stand at the start of a code handle and in
the code cache of tile 0, whose cell 0 is bound to a team of that handle, and slot 0 of it is Ready there and moves next
(log 8 says how a program comes to run without this). -/
def State.withFetchWord (s : State) (nbits w : Nat) : State :=
  let v := w % 2 ^ nbits
  let bytes := leBytes 20 v
  let line : CodeLine := ⟨1, 1, 0, leBytes 64 v⟩
  let s := s.poke ⟨.hbm, 0, 0⟩ bytes
  let s := { s with
    handles := s.handles.set 1 fetchHandleEntry
    pages := s.pages.set 0 fetchPage
    turn := .issue ⟨0, 0⟩ }
  let s := s.updHub 0 (fun h => { h with code := [line] })
  let s := s.updSg 0 (fun h => { h with recs := h.recs.set 0 fetchRecord, slots := h.slots.set 0 ⟨0#8, true⟩ })
  let s := s.updCell 0 (fun x => { x with bind := some (0, 0), yields := [], lastSlot := 4, issuedAt := none, sdiv := 0, vdiv := 0 })
  s.upd ⟨0, 0⟩ (fun t => { t with
    status := .ready, pc := handleAddr 1#24 0, late := [], stepDue := false, lock := false,
    ready := [], hold := 0 })

end Sys2Proof.Machine
end

