-- ==== Sys2Proof/Laws/Encode.lean ====
section
/-! SUPPORT. The fields, operand codes and operand shapes of the encoder read back by the decoder. -/

namespace Sys2Proof

/-! ### Codes -/

@[simp] theorem SReg.ofCode_code (r : SReg) : SReg.ofCode r.code = r := by
  cases r with
  | a i => revert i; decide
  | l i => revert i; decide
  | n i => revert i; decide
  | y i => revert i; decide
  | zr => decide
  | sp => decide
  | ci => decide
  | si => decide
@[simp] theorem vreg_vcode (r : VReg) : vreg (vcode r) = .ok r := by revert r; decide
@[simp] theorem kreg_kcode (r : KReg) : kreg (kcode r) = .ok r := by revert r; decide
theorem kreg_vcode (r : VReg) : kreg (vcode r) = .error .badOperand := by revert r; decide
theorem vreg_kcode (r : KReg) : vreg (kcode r) = .error .badOperand := by revert r; decide
@[simp] theorem dst_code (r : SReg) (h : r.writable = true) : dst r.code = .ok r := by simp [dst, h]
@[simp] theorem tok_code (r : SReg) (h : r.isWindow = true) : tok r.code = .ok r := by simp [tok, h]
@[simp] theorem small_2 (n : Fin 2) : small 2 (BitVec.ofNat 5 n.val) = .ok n := by revert n; decide
@[simp] theorem small_4 (n : Fin 4) : small 4 (BitVec.ofNat 5 n.val) = .ok n := by revert n; decide
@[simp] theorem small_8 (n : Fin 8) : small 8 (BitVec.ofNat 5 n.val) = .ok n := by revert n; decide
@[simp] theorem small_30 (n : Fin 30) : small 30 (BitVec.ofNat 5 n.val) = .ok n := by revert n; decide
@[simp] theorem small_32 (n : Fin 32) : small 32 (BitVec.ofNat 5 n.val) = .ok n := by revert n; decide
@[simp] theorem zero5_zero : zero5 0#5 = .ok () := rfl

/-! ### Words -/

theorem word_halves (v : Word) : v.extractLsb' 32 32 ++ v.extractLsb' 0 32 = v := by
  apply BitVec.eq_of_getLsbD_eq
  intro i hi
  simp only [BitVec.getLsbD_append, BitVec.getLsbD_extractLsb']
  by_cases h : i < 32
  · simp [h]
  · simp only [h, if_false]
    have : 32 + (i - 32) = i := by omega
    simp [this]; omega

theorem Fields.word0_bit (x : Fields) (i : Nat) : x.word0.getLsbD i =
    if i < 2 then x.len.getLsbD i else if i < 3 then x.sw else if i < 10 then x.op.getLsbD (i - 3)
    else if i < 15 then x.d.getLsbD (i - 10) else if i < 20 then x.a.getLsbD (i - 15)
    else if i < 25 then x.b.getLsbD (i - 20) else x.f.getLsbD (i - 25) := by
  simp only [Fields.word0, BitVec.getLsbD_append]
  by_cases h1 : i < 2
  · simp [h1]
  by_cases h2 : i < 3
  · have : i = 2 := by omega
    subst this; simp
  have e1 : i - 2 - 1 = i - 3 := by omega
  by_cases h3 : i < 10
  · simp [h1, h2, h3, e1, show ¬ (i - 2 < 1) by omega, show i - 3 < 7 by omega]
  have e2 : i - 3 - 7 = i - 10 := by omega
  by_cases h4 : i < 15
  · simp [h1, h2, h3, h4, e1, e2, show ¬ (i - 2 < 1) by omega, show ¬ (i - 3 < 7) by omega, show i - 10 < 5 by omega]
  have e3 : i - 10 - 5 = i - 15 := by omega
  by_cases h5 : i < 20
  · simp [h1, h2, h3, h4, h5, e1, e2, e3, show ¬ (i - 2 < 1) by omega, show ¬ (i - 3 < 7) by omega,
      show ¬ (i - 10 < 5) by omega, show i - 15 < 5 by omega]
  have e4 : i - 15 - 5 = i - 20 := by omega
  have e5 : i - 20 - 5 = i - 25 := by omega
  by_cases h6 : i < 25
  · simp [h1, h2, h3, h4, h5, h6, e1, e2, e3, e4, show ¬ (i - 2 < 1) by omega, show ¬ (i - 3 < 7) by omega,
      show ¬ (i - 10 < 5) by omega, show ¬ (i - 15 < 5) by omega, show i - 20 < 5 by omega]
  · simp [h1, h2, h3, h4, h5, h6, e1, e2, e3, e4, e5, show ¬ (i - 2 < 1) by omega, show ¬ (i - 3 < 7) by omega,
      show ¬ (i - 10 < 5) by omega, show ¬ (i - 15 < 5) by omega, show ¬ (i - 20 < 5) by omega]

theorem Fields.ofWord0_word0 (x : Fields) : Fields.ofWord0 x.word0 x.e x.l = x := by
  have part (n k : Nat) (v : BitVec n) (h : ∀ j, j < n → x.word0.getLsbD (k + j) = v.getLsbD j) :
      x.word0.extractLsb' k n = v := by
    apply BitVec.eq_of_getLsbD_eq
    intro j hj
    simp only [BitVec.getLsbD_extractLsb', hj, decide_true, Bool.true_and, h j hj]
  have hop := part 7 3 x.op (by intro j hj; rw [word0_bit]; simp; grind)
  have hf := part 7 25 x.f (by intro j hj; rw [word0_bit]; simp; grind)
  have hb := part 5 20 x.b (by intro j hj; rw [word0_bit]; simp; grind)
  have ha := part 5 15 x.a (by intro j hj; rw [word0_bit]; simp; grind)
  have hd := part 5 10 x.d (by intro j hj; rw [word0_bit]; simp; grind)
  have hs : x.word0.getLsbD 2 = x.sw := by rw [word0_bit]; simp
  simp only [Fields.ofWord0, hop, hf, hb, ha, hd, hs]

theorem len_bit0 (e l : Bool) : (BitVec.ofBool l ++ BitVec.ofBool e).getLsbD 0 = e := by cases e <;> cases l <;> decide
theorem len_bit1 (e l : Bool) : (BitVec.ofBool l ++ BitVec.ofBool e).getLsbD 1 = l := by cases e <;> cases l <;> decide

theorem Fields.word0_bit0 (x : Fields) : x.word0.getLsbD 0 = x.e.isSome := by
  rw [word0_bit, if_pos (by decide), Fields.len, len_bit0]

theorem Fields.word0_bit1 (x : Fields) : x.word0.getLsbD 1 = x.l.isSome := by
  rw [word0_bit, if_pos (by decide), Fields.len, len_bit1]

theorem takePair_wordPair (o : Option Word) (ws : List IWord) :
    takePair o.isSome (wordPair o ++ ws) = .ok (o, ws) := by
  cases o with
  | none => rfl
  | some v => simp [takePair, wordPair, word_halves]

/-- Fields laid out as words are read back whole. -/
theorem Fields.ofWords_words (x : Fields) : Fields.ofWords x.words = .ok (x, []) := by
  have h := takePair_wordPair x.l []
  rw [List.append_nil] at h
  simp only [Fields.words, Fields.ofWords, word0_bit0, word0_bit1, takePair_wordPair, bind, Except.bind, h, ofWord0_word0]

theorem decode_encode (i : Instr) (x : Fields) (hx : encodeFields i = some x) (hd : decodeFields x = .ok i) :
    decode (encode i) = .ok (i, []) := by
  simp only [encode, hx, decode, Fields.ofWords_words, bind, Except.bind, hd]

end Sys2Proof
end

