-- ==== Sys2Proof/Laws/Shapes.lean ====
section
/-! SUPPORT. One lemma per operand shape: the decoder of the shape reads back the fields that the encoder writes. -/

namespace Sys2Proof

@[simp] theorem ok_bind {α β : Type} (a : α) (f : α → Dec β) : ((.ok a : Dec α) >>= f) = f a := rfl
@[simp] theorem need_true (r : Reject) : need true r = .ok () := rfl
@[simp] theorem orReject_some {α : Type} (r : Reject) (a : α) : orReject r (some a) = .ok a := rfl

@[simp] theorem src_back (o f : BitVec 7) (s : Src) (a d : BitVec 5) (sw : Bool) (e : Option Word) :
    src ⟨o, f, s.code, a, d, sw, e, s.litOf⟩ = .ok s := by
  cases s <;> simp [src, Src.code, Src.litOf]

theorem imm_split (i : BitVec 12) : i.extractLsb' 5 7 ++ i.extractLsb' 0 5 = i := by
  apply BitVec.eq_of_getLsbD_eq
  intro j hj
  simp only [BitVec.getLsbD_append, BitVec.getLsbD_extractLsb']
  by_cases h : j < 5
  · simp [h]
  · have : 5 + (j - 5) = j := by omega
    simp [h, this]; omega

@[simp] theorem immOf_back (o : BitVec 7) (i : Imm) (a d : BitVec 5) (sw : Bool) (e : Option Word) :
    immOf ⟨o, i.code.extractLsb' 5 7, i.code.extractLsb' 0 5, a, d, sw, e, i.litOf⟩ = .ok i := by
  cases i <;> simp [immOf, Imm.code, Imm.litOf, Fields.imm12, imm_split]

theorem disp17_split (p : BitVec 17) : p.extractLsb' 10 7 ++ p.extractLsb' 5 5 ++ p.extractLsb' 0 5 = p := by
  apply BitVec.eq_of_getLsbD_eq
  intro j hj
  simp only [BitVec.getLsbD_append, BitVec.getLsbD_extractLsb']
  by_cases h : j < 5
  · simp [h]
  · by_cases h2 : j - 5 < 5
    · have : 5 + (j - 5) = j := by omega
      simp [h, h2, this]
    · have : 10 + (j - 5 - 5) = j := by omega
      simp [h, h2, this]; omega

theorem disp22_split (p : BitVec 22) :
    p.extractLsb' 15 7 ++ p.extractLsb' 10 5 ++ p.extractLsb' 5 5 ++ p.extractLsb' 0 5 = p := by
  apply BitVec.eq_of_getLsbD_eq
  intro j hj
  simp only [BitVec.getLsbD_append, BitVec.getLsbD_extractLsb']
  by_cases h : j < 5
  · simp [h]
  · by_cases h2 : j - 5 < 5
    · have : 5 + (j - 5) = j := by omega
      simp [h, h2, this]
    · by_cases h3 : j - 5 - 5 < 5
      · have : 10 + (j - 5 - 5) = j := by omega
        simp [h, h2, h3, this]
      · have : 15 + (j - 5 - 5 - 5) = j := by omega
        simp [h, h2, h3, this]; omega

/-! ### Fields of an extension -/

theorem low_of_append {m n : Nat} (x : BitVec m) (y : BitVec n) : (x ++ y).extractLsb' 0 n = y := by
  apply BitVec.eq_of_getLsbD_eq
  intro j hj
  simp [BitVec.getLsbD_append, hj]

theorem high_of_append {m n : Nat} (x : BitVec m) (y : BitVec n) : (x ++ y).extractLsb' n m = x := by
  apply BitVec.eq_of_getLsbD_eq
  intro j hj
  simp [BitVec.getLsbD_append, hj]

theorem extract_of_high {m n k w : Nat} (x : BitVec m) (y : BitVec n) (h : n ≤ k) :
    (x ++ y).extractLsb' k w = x.extractLsb' (k - n) w := by
  apply BitVec.eq_of_getLsbD_eq
  intro j hj
  have h1 : ¬ (k + j < n) := by omega
  have h2 : k + j - n = k - n + j := by omega
  simp [BitVec.getLsbD_append, hj, h1, h2]

variable (o f : BitVec 7) (a d : SReg) (b : Src) (i : Imm) (sw : Bool)

theorem decDAB_back (mk : SReg → SReg → Src → Bool → Instr) (h : d.writable = true) :
    decDAB ⟨o, f, b.code, a.code, d.code, sw, none, b.litOf⟩ mk = .ok (mk d a b sw) := by
  simp [decDAB, noExt, h]
theorem decSAB_back (mk : SReg → SReg → Src → Bool → Instr) :
    decSAB ⟨o, f, b.code, a.code, d.code, sw, none, b.litOf⟩ mk = .ok (mk d a b sw) := by
  simp [decSAB, noExt]
theorem decDA_back (mk : SReg → SReg → Bool → Instr) (h : d.writable = true) :
    decDA ⟨o, f, 0#5, a.code, d.code, sw, none, none⟩ mk = .ok (mk d a sw) := by
  simp [decDA, plain, h]
theorem decSA_back (mk : SReg → SReg → Bool → Instr) :
    decSA ⟨o, f, 0#5, a.code, d.code, sw, none, none⟩ mk = .ok (mk d a sw) := by
  simp [decSA, plain]
theorem decAB_back (mk : SReg → Src → Bool → Instr) :
    decAB ⟨o, f, b.code, a.code, 0#5, sw, none, b.litOf⟩ mk = .ok (mk a b sw) := by
  simp [decAB, noExt]
theorem decA_back (mk : SReg → Bool → Instr) : decA ⟨o, f, 0#5, a.code, 0#5, sw, none, none⟩ mk = .ok (mk a sw) := by
  simp [decA, plain]
theorem decD_back (mk : SReg → Bool → Instr) (h : d.writable = true) :
    decD ⟨o, f, 0#5, 0#5, d.code, sw, none, none⟩ mk = .ok (mk d sw) := by
  simp [decD, plain, h]
theorem decB_back (mk : Src → Bool → Instr) :
    decB ⟨o, f, b.code, 0#5, 0#5, sw, none, b.litOf⟩ mk = .ok (mk b sw) := by
  simp [decB, noExt]
theorem dec0_back (mk : Bool → Instr) : dec0 ⟨o, f, 0#5, 0#5, 0#5, sw, none, none⟩ mk = .ok (mk sw) := by
  simp [dec0, plain]

theorem decI_back (mk : SReg → SReg → Imm → Bool → Instr) (h : d.writable = true) :
    decI ⟨o, i.code.extractLsb' 5 7, i.code.extractLsb' 0 5, a.code, d.code, sw, none, i.litOf⟩ mk
      = .ok (mk d a i sw) := by
  simp [decI, noExt, h]
theorem decMS_back (mk : SReg → SReg → Imm → Bool → Instr) :
    decMS ⟨o, i.code.extractLsb' 5 7, i.code.extractLsb' 0 5, a.code, d.code, sw, none, i.litOf⟩ mk
      = .ok (mk d a i sw) := by
  simp [decMS, noExt]
theorem decMV_back (mk : VReg → SReg → Imm → Bool → Instr) (v : VReg) :
    decMV ⟨o, i.code.extractLsb' 5 7, i.code.extractLsb' 0 5, a.code, vcode v, sw, none, i.litOf⟩ mk
      = .ok (mk v a i sw) := by
  simp [decMV, noExt]
theorem decMF_back (mk : VReg → SReg → Imm → Bool → Instr) (v : VReg) (h : decide (v.val < 8) = true) :
    decMF ⟨o, i.code.extractLsb' 5 7, i.code.extractLsb' 0 5, a.code, vcode v, sw, none, i.litOf⟩ mk
      = .ok (mk v a i sw) := by
  simp only [decide_eq_true_eq] at h
  simp [decMF, noExt, h]
theorem decLI_back (mk : SReg → Imm → Bool → Instr) (h : d.writable = true) :
    decLI ⟨o, i.code.extractLsb' 5 7, i.code.extractLsb' 0 5, 0#5, d.code, sw, none, i.litOf⟩ mk = .ok (mk d i sw) := by
  simp [decLI, noExt, h]
theorem decSH_back (mk : SReg → SReg → BitVec 6 → Bool → Instr) (n : BitVec 6) (h : d.writable = true) :
    decSH ⟨o, (0#6 ++ n).extractLsb' 5 7, (0#6 ++ n).extractLsb' 0 5, a.code, d.code, sw, none, none⟩ mk
      = .ok (mk d a n sw) := by
  have e1 : (0#6 ++ n).extractLsb' 6 6 = 0#6 := high_of_append _ _
  have e2 : (0#6 ++ n).extractLsb' 0 6 = n := low_of_append _ _
  simp only [decSH, plain, Fields.imm12, imm_split, e1, e2, Option.isNone_none, need_true, ok_bind, beq_self_eq_true,
    dst_code d h, SReg.ofCode_code]
theorem decBF_back (mk : SReg → SReg → BitVec 6 → BitVec 6 → Bool → Instr) (p w : BitVec 6) (h : d.writable = true)
    (hw : p.toNat + w.toNat + 1 ≤ 64) :
    decBF ⟨o, (w ++ p).extractLsb' 5 7, (w ++ p).extractLsb' 0 5, a.code, d.code, sw, none, none⟩ mk
      = .ok (mk d a p w sw) := by
  have e1 : (w ++ p).extractLsb' 6 6 = w := high_of_append _ _
  have e2 : (w ++ p).extractLsb' 0 6 = p := low_of_append _ _
  simp only [decBF, plain, Fields.imm12, imm_split, e1, e2, Option.isNone_none, need_true, ok_bind, dst_code d h,
    SReg.ofCode_code, hw, decide_true]
theorem decBR_back (mk : SReg → BitVec 17 → Bool → Instr) (p : BitVec 17) :
    decBR ⟨o, p.extractLsb' 10 7, p.extractLsb' 5 5, p.extractLsb' 0 5, a.code, sw, none, none⟩ mk = .ok (mk a p sw) := by
  simp [decBR, plain, Fields.disp17, disp17_split]
theorem decLOOP_back (mk : SReg → BitVec 17 → Bool → Instr) (p : BitVec 17) (h : a.writable = true) :
    decLOOP ⟨o, p.extractLsb' 10 7, p.extractLsb' 5 5, p.extractLsb' 0 5, a.code, sw, none, none⟩ mk = .ok (mk a p sw) := by
  simp [decLOOP, plain, Fields.disp17, disp17_split, h]
theorem decJ_back (mk : BitVec 22 → Bool → Instr) (p : BitVec 22) :
    decJ ⟨o, p.extractLsb' 15 7, p.extractLsb' 10 5, p.extractLsb' 5 5, p.extractLsb' 0 5, sw, none, none⟩ mk
      = .ok (mk p sw) := by
  simp [decJ, plain, Fields.disp22, disp22_split]

/-! ### Extensions -/

theorem decHINT_back (mk : SReg → BitVec 36 → Bool → Instr) (n : BitVec 36) :
    decHINT ⟨o, f, 0#5, a.code, 0#5, sw, some (0#28 ++ n), none⟩ mk = .ok (mk a n sw) := by
  have e1 : (0#28 ++ n).extractLsb' 36 28 = 0#28 := high_of_append _ _
  have e2 : (0#28 ++ n).extractLsb' 0 36 = n := low_of_append _ _
  simp only [decHINT, ext, orReject_some, ok_bind, Option.isNone_none, need_true, zero5_zero, e1, e2, beq_self_eq_true,
    SReg.ofCode_code]
theorem decCPY_back (mk : SReg → SReg → Src → BitVec 32 → Bool → Instr) (n : BitVec 32) (h : d.isWindow = true) :
    decCPY ⟨o, f, b.code, a.code, d.code, sw, some (0#32 ++ n), b.litOf⟩ mk = .ok (mk d a b n sw) := by
  have e1 : (0#32 ++ n).extractLsb' 32 32 = 0#32 := high_of_append _ _
  have e2 : (0#32 ++ n).extractLsb' 0 32 = n := low_of_append _ _
  simp only [decCPY, ext, orReject_some, ok_bind, tok_code d h, src_back, e1, e2, beq_self_eq_true, need_true,
    SReg.ofCode_code]
theorem decCPYS_back (mk : SReg → SReg → Src → BitVec 16 → BitVec 16 → BitVec 16 → BitVec 16 → Bool → Instr)
    (n r s t : BitVec 16) (h : d.isWindow = true) :
    decCPYS ⟨o, f, b.code, a.code, d.code, sw, some (t ++ s ++ r ++ n), b.litOf⟩ mk = .ok (mk d a b n r s t sw) := by
  have e1 : (t ++ s ++ r ++ n).extractLsb' 0 16 = n := low_of_append _ _
  have e2 : (t ++ s ++ r ++ n).extractLsb' 16 16 = r := (extract_of_high _ _ (by decide)).trans (low_of_append _ _)
  have e3 : (t ++ s ++ r ++ n).extractLsb' 32 16 = s :=
    (extract_of_high _ _ (by decide)).trans ((extract_of_high _ _ (by decide)).trans (low_of_append _ _))
  have e4 : (t ++ s ++ r ++ n).extractLsb' 48 16 = t :=
    (extract_of_high _ _ (by decide)).trans ((extract_of_high _ _ (by decide)).trans (high_of_append _ _))
  simp only [decCPYS, ext, orReject_some, ok_bind, tok_code d h, src_back, e1, e2, e3, e4, SReg.ofCode_code]
theorem decGATH_back (mk : SReg → SReg → Src → BitVec 16 → Fin 6 → Bool → Instr) (n : BitVec 16) (z : Fin 6)
    (h : d.isWindow = true) :
    decGATH ⟨o, f, b.code, a.code, d.code, sw, some (0#45 ++ BitVec.ofNat 3 z.val ++ n), b.litOf⟩ mk
      = .ok (mk d a b n z sw) := by
  have hz : (BitVec.ofNat 3 z.val).toNat = z.val := by revert z; decide
  have e1 : (0#45 ++ BitVec.ofNat 3 z.val ++ n).extractLsb' 0 16 = n := low_of_append _ _
  have e2 : (0#45 ++ BitVec.ofNat 3 z.val ++ n).extractLsb' 16 3 = BitVec.ofNat 3 z.val :=
    (extract_of_high _ _ (by decide)).trans (low_of_append _ _)
  have e3 : (0#45 ++ BitVec.ofNat 3 z.val ++ n).extractLsb' 19 45 = 0#45 :=
    (extract_of_high _ _ (by decide)).trans (high_of_append _ _)
  simp only [decGATH, ext, orReject_some, ok_bind, tok_code d h, src_back, e1, e2, e3, beq_self_eq_true, need_true,
    SReg.ofCode_code, hz, z.isLt, dite_true]
theorem nearExt_back (t : FTy) (n : BitVec 32) :
    nearExt (0#28 ++ BitVec.ofNat 4 (8 + t.code) ++ n) = .ok (t, n) := by
  have e1 : (0#28 ++ BitVec.ofNat 4 (8 + t.code) ++ n).extractLsb' 0 32 = n := low_of_append _ _
  have e2 : (0#28 ++ BitVec.ofNat 4 (8 + t.code) ++ n).extractLsb' 32 4 = BitVec.ofNat 4 (8 + t.code) :=
    (extract_of_high _ _ (by decide)).trans (low_of_append _ _)
  have e3 : (0#28 ++ BitVec.ofNat 4 (8 + t.code) ++ n).extractLsb' 36 28 = 0#28 :=
    (extract_of_high _ _ (by decide)).trans (high_of_append _ _)
  simp only [nearExt, e1, e2, e3, beq_self_eq_true, need_true, ok_bind]
  cases t <;> rfl
theorem decNDOT_back (mk : FTy → SReg → SReg → Src → BitVec 32 → Bool → Instr) (t : FTy) (n : BitVec 32)
    (h : d.writable = true) :
    decNDOT ⟨o, f, b.code, a.code, d.code, sw, some (0#28 ++ BitVec.ofNat 4 (8 + t.code) ++ n), b.litOf⟩ mk
      = .ok (mk t d a b n sw) := by
  simp [decNDOT, ext, nearExt_back, h]
theorem decNSUM_back (mk : FTy → SReg → SReg → BitVec 32 → Bool → Instr) (t : FTy) (n : BitVec 32)
    (h : d.writable = true) :
    decNSUM ⟨o, f, 0#5, a.code, d.code, sw, some (0#28 ++ BitVec.ofNat 4 (8 + t.code) ++ n), none⟩ mk
      = .ok (mk t d a n sw) := by
  simp [decNSUM, ext, nearExt_back, h]
theorem decLAUNCH_back (mk : SReg → SReg → Src → BitVec 32 → Bool → Instr) (n : BitVec 32) (h : d.isWindow = true)
    (hn : (n != 0#32) = true) :
    decLAUNCH ⟨o, f, b.code, a.code, d.code, sw, some (0#32 ++ n), b.litOf⟩ mk = .ok (mk d a b n sw) := by
  have e1 : (0#32 ++ n).extractLsb' 32 32 = 0#32 := high_of_append _ _
  have e2 : (0#32 ++ n).extractLsb' 0 32 = n := low_of_append _ _
  simp only [decLAUNCH, ext, orReject_some, ok_bind, tok_code d h, src_back, e1, e2, beq_self_eq_true, need_true, hn,
    SReg.ofCode_code]

/-! ### Codes in fields -/

theorem scope_back (sc : Scope) : Scope.ofCode (BitVec.ofNat 5 sc.code).toNat = some sc := by cases sc <;> rfl
theorem decBARINIT_back (mk : Scope → SReg → Src → Bool → Instr) (sc : Scope) :
    decBARINIT ⟨o, f, b.code, a.code, BitVec.ofNat 5 sc.code, sw, none, b.litOf⟩ mk = .ok (mk sc a b sw) := by
  simp only [decBARINIT, noExt, scope_back, Option.isNone_none, need_true, ok_bind, orReject_some, src_back,
    SReg.ofCode_code]
theorem decScope_back (mk : Scope → Bool → Instr) (sc : Scope) (h : sc.isStealDomain = true) :
    decScope ⟨o, f, 0#5, 0#5, BitVec.ofNat 5 sc.code, sw, none, none⟩ mk = .ok (mk sc sw) := by
  simp only [decScope, plain, scope_back, Option.isNone_none, need_true, ok_bind, orReject_some, zero5_zero, h]
theorem decPUT_back (mk : PostIx → SReg → Src → Bool → Instr) (m : PostIx) :
    decPUT ⟨o, f, b.code, a.code, BitVec.ofNat 5 m.val, sw, none, b.litOf⟩ mk = .ok (mk m a b sw) := by
  simp only [decPUT, noExt, Option.isNone_none, need_true, ok_bind, small_32, src_back, SReg.ofCode_code]
theorem decDm_back (mk : SReg → PostIx → Bool → Instr) (m : PostIx) (h : d.writable = true) :
    decDm ⟨o, f, 0#5, BitVec.ofNat 5 m.val, d.code, sw, none, none⟩ mk = .ok (mk d m sw) := by
  simp only [decDm, plain, Option.isNone_none, need_true, ok_bind, zero5_zero, dst_code d h, small_32]
theorem decSEND_back (mk : Cls → SReg → Fin 8 → Bool → Instr) (c : Cls) (n : Fin 8) :
    decSEND ⟨o, f, BitVec.ofNat 5 n.val, a.code, BitVec.ofNat 5 c.val, sw, none, none⟩ mk = .ok (mk c a n sw) := by
  simp [decSEND, plain]
theorem decC_back (mk : Cls → Bool → Instr) (c : Cls) :
    decC ⟨o, f, 0#5, 0#5, BitVec.ofNat 5 c.val, sw, none, none⟩ mk = .ok (mk c sw) := by
  simp [decC, plain]
theorem decDc_back (mk : SReg → Cls → Bool → Instr) (c : Cls) (h : d.writable = true) :
    decDc ⟨o, f, BitVec.ofNat 5 c.val, 0#5, d.code, sw, none, none⟩ mk = .ok (mk d c sw) := by
  simp [decDc, plain, h]
theorem decCAB_back (mk : Cls → SReg → Src → Bool → Instr) (c : Cls) :
    decCAB ⟨o, f, b.code, a.code, BitVec.ofNat 5 c.val, sw, none, b.litOf⟩ mk = .ok (mk c a b sw) := by
  simp [decCAB, noExt]
theorem decb2_back (mk : Fin 4 → Bool → Instr) (n : Fin 4) :
    decb2 ⟨o, f, BitVec.ofNat 5 n.val, 0#5, 0#5, sw, none, none⟩ mk = .ok (mk n sw) := by
  simp [decb2, plain]
theorem decDb2_back (mk : SReg → Fin 4 → Bool → Instr) (n : Fin 4) (h : d.writable = true) :
    decDb2 ⟨o, f, BitVec.ofNat 5 n.val, 0#5, d.code, sw, none, none⟩ mk = .ok (mk d n sw) := by
  simp [decDb2, plain, h]
theorem decAb2_back (mk : SReg → Fin 4 → Bool → Instr) (n : Fin 4) :
    decAb2 ⟨o, f, BitVec.ofNat 5 n.val, a.code, 0#5, sw, none, none⟩ mk = .ok (mk a n sw) := by
  simp [decAb2, plain]
theorem decDA4_back (mk : SReg → SReg → Fin 4 → Bool → Instr) (n : Fin 4) (h : d.writable = true) :
    decDA4 ⟨o, f, BitVec.ofNat 5 n.val, a.code, d.code, sw, none, none⟩ mk = .ok (mk d a n sw) := by
  simp [decDA4, plain, h]
theorem decD5_back (mk : SReg → BitVec 5 → Bool → Instr) (n : BitVec 5) (h : d.writable = true) :
    decD5 ⟨o, f, n, 0#5, d.code, sw, none, none⟩ mk = .ok (mk d n sw) := by
  simp [decD5, plain, h]
theorem decA5_back (mk : SReg → BitVec 5 → Bool → Instr) (n : BitVec 5) :
    decA5 ⟨o, f, n, a.code, 0#5, sw, none, none⟩ mk = .ok (mk a n sw) := by
  simp [decA5, plain]
theorem decCSRR_back (mk : SReg → Fin 30 → Bool → Instr) (n : Fin 30) (h : d.writable = true) :
    decCSRR ⟨o, f, 0#5, BitVec.ofNat 5 n.val, d.code, sw, none, none⟩ mk = .ok (mk d n sw) := by
  simp [decCSRR, plain, h]
theorem decCSRW_back (mk : Fin 30 → Src → Bool → Instr) (n : Fin 30) (h : (!csrReadOnly n) = true) :
    decCSRW ⟨o, f, b.code, 0#5, BitVec.ofNat 5 n.val, sw, none, b.litOf⟩ mk = .ok (mk n b sw) := by
  simp only [decCSRW, noExt, Option.isNone_none, need_true, ok_bind, zero5_zero, small_30, h, src_back]
theorem decCTXSV_back (mk : SReg → Bool → Bool → Instr) (x : Bool) :
    decCTXSV ⟨o, f, BitVec.ofNat 5 (b2n x), a.code, 0#5, sw, none, none⟩ mk = .ok (mk a x sw) := by
  cases x
  · have h : small 2 (BitVec.ofNat 5 (b2n false)) = .ok 0 := rfl
    simp [decCTXSV, plain, h]
  · have h : small 2 (BitVec.ofNat 5 (b2n true)) = .ok 1 := rfl
    simp [decCTXSV, plain, h]

/-! ### Kinds, scopes and types in F -/

theorem decSYNC_back (mk : Scope → Bool → Instr) (sc : Scope) (h : f.toNat % 16 = sc.code) :
    decSYNC ⟨o, f, 0#5, 0#5, 0#5, sw, none, none⟩ mk = .ok (mk sc sw) := by
  have hc : Scope.ofCode sc.code = some sc := by cases sc <;> rfl
  simp [decSYNC, plain, h, hc]
theorem decTSMR_back (mk : Scope → SReg → SReg → Bool → Instr) (sc : Scope) (h : f.toNat % 16 = sc.code)
    (hd : d.writable = true) : decTSMR ⟨o, f, 0#5, a.code, d.code, sw, none, none⟩ mk = .ok (mk sc d a sw) := by
  have hc : Scope.ofCode sc.code = some sc := by cases sc <;> rfl
  simp [decTSMR, plain, h, hc, hd]

variable (u v w : VReg) (k l m : KReg)

theorem fty_back (t : FTy) : FTy.ofCode t.code = some t := by cases t <;> rfl
theorem ity_back (t : ITy) : ITy.ofCode t.code = some t := by cases t <;> rfl
theorem decFV2_back (mk : FTy → VReg → VReg → Bool → Instr) (t : FTy) (h : f.toNat % 8 = t.code) :
    decFV2 ⟨o, f, 0#5, vcode u, vcode v, sw, none, none⟩ mk = .ok (mk t v u sw) := by
  simp [decFV2, plain, ftyOf, h, fty_back]
theorem decFV3_back (mk : FTy → VReg → VReg → VReg → Bool → Instr) (t : FTy) (h : f.toNat % 8 = t.code) :
    decFV3 ⟨o, f, vcode w, vcode u, vcode v, sw, none, none⟩ mk = .ok (mk t v u w sw) := by
  simp [decFV3, plain, ftyOf, h, fty_back]
theorem decFK3_back (mk : FTy → KReg → VReg → VReg → Bool → Instr) (t : FTy) (h : f.toNat % 8 = t.code) :
    decFK3 ⟨o, f, vcode w, vcode u, kcode k, sw, none, none⟩ mk = .ok (mk t k u w sw) := by
  simp [decFK3, plain, ftyOf, h, fty_back]
theorem decIV3_back (mk : ITy → VReg → VReg → VReg → Bool → Instr) (t : ITy) (h : f.toNat % 8 = t.code) :
    decIV3 ⟨o, f, vcode w, vcode u, vcode v, sw, none, none⟩ mk = .ok (mk t v u w sw) := by
  simp [decIV3, plain, ityOf, h, ity_back]
theorem decIK3_back (mk : ITy → KReg → VReg → VReg → Bool → Instr) (t : ITy) (h : f.toNat % 8 = t.code) :
    decIK3 ⟨o, f, vcode w, vcode u, kcode k, sw, none, none⟩ mk = .ok (mk t k u w sw) := by
  simp [decIK3, plain, ityOf, h, ity_back]
theorem elem_back (t : ElemTy) : ElemTy.ofCode (BitVec.ofNat 5 t.code).toNat = some t := by cases t <;> rfl
theorem decVBCAST_back (mk : ElemTy → VReg → SReg → Bool → Instr) (t : ElemTy) (h : t.inVmisc = true) :
    decVBCAST ⟨o, f, BitVec.ofNat 5 t.code, a.code, vcode v, sw, none, none⟩ mk = .ok (mk t v a sw) := by
  simp only [decVBCAST, plain, typeB, elem_back, Option.isNone_none, need_true, ok_bind, orReject_some, h, vreg_vcode,
    SReg.ofCode_code]
theorem decVRED_back (mk : ElemTy → SReg → VReg → Bool → Instr) (t : ElemTy) (h : t.inVmisc = true)
    (hd : d.writable = true) :
    decVRED ⟨o, f, BitVec.ofNat 5 t.code, vcode u, d.code, sw, none, none⟩ mk = .ok (mk t d u sw) := by
  simp only [decVRED, plain, typeB, elem_back, Option.isNone_none, need_true, ok_bind, orReject_some, h, vreg_vcode,
    dst_code d hd]
theorem decVMOVS_back (mk : SReg → VReg → Fin 2 → Bool → Instr) (n : Fin 2) (h : d.writable = true) :
    decVMOVS ⟨o, f, BitVec.ofNat 5 n.val, vcode u, d.code, sw, none, none⟩ mk = .ok (mk d u n sw) := by
  simp [decVMOVS, plain, h]
theorem decVINS_back (mk : VReg → SReg → Fin 2 → Bool → Instr) (n : Fin 2) :
    decVINS ⟨o, f, BitVec.ofNat 5 n.val, a.code, vcode v, sw, none, none⟩ mk = .ok (mk v a n sw) := by
  simp [decVINS, plain]
theorem decVSHUF_back (mk : VReg → VReg → Src → Bool → Instr) :
    decVSHUF ⟨o, f, b.code, vcode u, vcode v, sw, none, b.litOf⟩ mk = .ok (mk v u b sw) := by
  simp [decVSHUF, noExt]
theorem decVSEL_back (mk : VReg → VReg → KReg → LaneW → Bool → Instr) (z : LaneW) :
    decVSEL ⟨o, f, BitVec.ofNat 5 (4 * z.code + k.val), vcode u, vcode v, sw, none, none⟩ mk = .ok (mk v u k z sw) := by
  have h1 : LaneW.ofCode ((BitVec.ofNat 5 (4 * z.code + k.val)).toNat / 4) = some z := by
    revert k; cases z <;> decide
  have h2 : Fin.ofNat 4 (BitVec.ofNat 5 (4 * z.code + k.val)).toNat = k := by
    revert k; cases z <;> decide
  simp only [decVSEL, plain, Option.isNone_none, need_true, ok_bind, orReject_some, vreg_vcode, h1, h2]
theorem decKKK_back (mk : KReg → KReg → KReg → Bool → Instr) :
    decKKK ⟨o, f, kcode m, kcode l, kcode k, sw, none, none⟩ mk = .ok (mk k l m sw) := by
  simp [decKKK, plain]
theorem decKK_back (mk : KReg → KReg → Bool → Instr) :
    decKK ⟨o, f, 0#5, kcode l, kcode k, sw, none, none⟩ mk = .ok (mk k l sw) := by
  simp [decKK, plain]
theorem decKMOV_kk (mk : KmovForm → Bool → Instr) :
    decKMOV ⟨o, f, 0#5, kcode l, kcode k, sw, none, none⟩ mk = .ok (mk (.kk k l) sw) := by
  simp [decKMOV, plain]
theorem decKMOV_sk (mk : KmovForm → Bool → Instr) (h : d.writable = true) :
    decKMOV ⟨o, f, 1#5, kcode l, d.code, sw, none, none⟩ mk = .ok (mk (.sk d l) sw) := by
  simp [decKMOV, plain, h]
theorem decKMOV_ks (mk : KmovForm → Bool → Instr) :
    decKMOV ⟨o, f, 2#5, a.code, kcode k, sw, none, none⟩ mk = .ok (mk (.ks k a) sw) := by
  simp [decKMOV, plain]
theorem decVZERO_back (mk : VorK → Bool → Instr) (z : VorK) :
    decVZERO ⟨o, f, 0#5, 0#5, z.code, sw, none, none⟩ mk = .ok (mk z sw) := by
  cases z <;> simp [decVZERO, plain, VorK.code, vreg_kcode]
theorem decVV_back (mk : VReg → VReg → Bool → Instr) :
    decVV ⟨o, f, 0#5, vcode u, vcode v, sw, none, none⟩ mk = .ok (mk v u sw) := by
  simp [decVV, plain]

/-- The fields of VCVT's types. -/
theorem vcvt_dt (dt st : ElemTy) (s : Bool) :
    ElemTy.ofCode (8 * ((BitVec.ofNat 5 (2 * (dt.code / 8) + st.code / 8)).toNat / 2)
      + (BitVec.ofNat 7 (16 * (dt.code % 8) + 2 * (st.code % 8) + b2n s)).toNat / 16) = some dt := by
  cases dt <;> cases st <;> cases s <;> rfl
theorem vcvt_st (dt st : ElemTy) (s : Bool) :
    ElemTy.ofCode (8 * ((BitVec.ofNat 5 (2 * (dt.code / 8) + st.code / 8)).toNat % 2)
      + (BitVec.ofNat 7 (16 * (dt.code % 8) + 2 * (st.code % 8) + b2n s)).toNat / 2 % 8) = some st := by
  cases dt <;> cases st <;> cases s <;> rfl
theorem vcvt_sat (dt st : ElemTy) (s : Bool) :
    (BitVec.ofNat 7 (16 * (dt.code % 8) + 2 * (st.code % 8) + b2n s)).getLsbD 0 = s := by
  cases dt <;> cases st <;> cases s <;> rfl
theorem vcvt_b (dt st : ElemTy) : decide ((BitVec.ofNat 5 (2 * (dt.code / 8) + st.code / 8)).toNat < 4) = true := by
  cases dt <;> cases st <;> rfl
theorem decVCVT_back (mk : ElemTy → ElemTy → Bool → VReg → VReg → Bool → Instr) (dt st : ElemTy) (s : Bool)
    (h : (dt != st) = true) (h2 : (!s || dt.isF8) = true) :
    decVCVT ⟨o, BitVec.ofNat 7 (16 * (dt.code % 8) + 2 * (st.code % 8) + b2n s),
      BitVec.ofNat 5 (2 * (dt.code / 8) + st.code / 8), vcode u, vcode v, sw, none, none⟩ mk
      = .ok (mk dt st s v u sw) := by
  simp only [decVCVT, plain, Option.isNone_none, need_true, ok_bind, vreg_vcode, vcvt_b, vcvt_dt, vcvt_st, vcvt_sat,
    orReject_some, h, h2]

/-! ### Block scales, hires, shipped routines -/

theorem blkCount_back (n : BitVec 9) (j : BitVec 4) (t : BitVec 4) (h : blkCountOk n = true) :
    blkCount (0#47 ++ n ++ j ++ t) = .ok n := by
  simp only [blkCountOk, decide_eq_true_eq] at h
  have e1 : (0#47 ++ n ++ j ++ t).extractLsb' 8 9 = n :=
    (extract_of_high _ _ (by decide)).trans ((extract_of_high _ _ (by decide)).trans (low_of_append _ _))
  have e2 : (0#47 ++ n ++ j ++ t).extractLsb' 17 47 = 0#47 :=
    (extract_of_high _ _ (by decide)).trans ((extract_of_high _ _ (by decide)).trans (high_of_append _ _))
  simp only [blkCount, e1, e2, h, beq_self_eq_true, need_true, ok_bind, and_self, decide_true]
theorem blkType_back (n : BitVec 9) (j : BitVec 4) (t : FTy) :
    blkType (0#47 ++ n ++ j ++ BitVec.ofNat 4 (8 + t.code)) = .ok t := by
  have e1 : (0#47 ++ n ++ j ++ BitVec.ofNat 4 (8 + t.code)).extractLsb' 0 4 = BitVec.ofNat 4 (8 + t.code) :=
    low_of_append _ _
  simp only [blkType, e1]
  cases t <;> rfl
theorem decVQBLK_back (mk : SReg → SReg → Src → FTy → BlkKind → BitVec 9 → Bool → Instr) (t : FTy) (j : BlkKind)
    (n : BitVec 9) (h : d.writable = true) (hn : blkCountOk n = true) :
    decVQBLK ⟨o, f, b.code, a.code, d.code, sw,
      some (0#47 ++ n ++ BitVec.ofNat 4 j.code ++ BitVec.ofNat 4 (8 + t.code)), b.litOf⟩ mk
      = .ok (mk d a b t j n sw) := by
  have hj : (BitVec.extractLsb' 4 4 (0#47 ++ n ++ BitVec.ofNat 4 j.code ++ BitVec.ofNat 4 (8 + t.code)))
      = BitVec.ofNat 4 j.code := (extract_of_high _ _ (by decide)).trans (low_of_append _ _)
  have hk : BlkKind.ofCode (BitVec.ofNat 4 j.code).toNat = some j := by cases j <;> rfl
  simp only [decVQBLK, ext, orReject_some, ok_bind, dst_code d h, src_back, blkType_back, hj, hk, blkCount_back _ _ _ hn,
    SReg.ofCode_code]
theorem decVDQBLK_back (mk : SReg → SReg → Src → FTy → DqKind → BitVec 9 → Bool → Instr) (t : FTy) (j : DqKind)
    (n : BitVec 9) (hn : blkCountOk n = true) :
    decVDQBLK ⟨o, f, b.code, a.code, d.code, sw,
      some (0#47 ++ n ++ BitVec.ofNat 4 j.code ++ BitVec.ofNat 4 (8 + t.code)), b.litOf⟩ mk
      = .ok (mk d a b t j n sw) := by
  have hj : (BitVec.extractLsb' 4 4 (0#47 ++ n ++ BitVec.ofNat 4 j.code ++ BitVec.ofNat 4 (8 + t.code)))
      = BitVec.ofNat 4 j.code := (extract_of_high _ _ (by decide)).trans (low_of_append _ _)
  have hk : DqKind.ofCode (BitVec.ofNat 4 j.code).toNat = some j := by cases j <;> rfl
  simp only [decVDQBLK, ext, orReject_some, ok_bind, src_back, blkType_back, hj, hk, blkCount_back _ _ _ hn,
    SReg.ofCode_code]
theorem decVSCL_back (mk : VReg → VReg → Src → FTy → Bool → Instr) (t : FTy) :
    decVSCL ⟨o, f, b.code, vcode u, vcode v, sw, some (0#60 ++ BitVec.ofNat 4 (8 + t.code)), b.litOf⟩ mk
      = .ok (mk v u b t sw) := by
  have e1 : (0#60 ++ BitVec.ofNat 4 (8 + t.code)).extractLsb' 0 4 = BitVec.ofNat 4 (8 + t.code) := low_of_append _ _
  have e2 : (0#60 ++ BitVec.ofNat 4 (8 + t.code)).extractLsb' 4 60 = 0#60 := high_of_append _ _
  have e3 : blkType (0#60 ++ BitVec.ofNat 4 (8 + t.code)) = .ok t := by
    simp only [blkType, e1]; cases t <;> rfl
  simp only [decVSCL, ext, orReject_some, ok_bind, vreg_vcode, src_back, e3, e2, beq_self_eq_true, need_true]
theorem decACCSTM_back (mk : SReg → Src → BitVec 16 → BitVec 16 → AccFmt → BitVec 24 → Bool → Instr)
    (r c : BitVec 16) (t : AccFmt) (s : BitVec 24) :
    decACCSTM ⟨o, f, b.code, a.code, 0#5, sw, some (s ++ 0#4 ++ BitVec.ofNat 4 t.code ++ c ++ r), b.litOf⟩ mk
      = .ok (mk a b r c t s sw) := by
  have ht : AccFmt.ofCode (BitVec.ofNat 4 t.code).toNat = some t := by cases t <;> rfl
  have e1 : (s ++ 0#4 ++ BitVec.ofNat 4 t.code ++ c ++ r).extractLsb' 32 4 = BitVec.ofNat 4 t.code :=
    (extract_of_high _ _ (by decide)).trans ((extract_of_high _ _ (by decide)).trans (low_of_append _ _))
  have e2 : (s ++ 0#4 ++ BitVec.ofNat 4 t.code ++ c ++ r).extractLsb' 36 4 = 0#4 :=
    (extract_of_high _ _ (by decide)).trans ((extract_of_high _ _ (by decide)).trans
      ((extract_of_high _ _ (by decide)).trans (low_of_append _ _)))
  have e3 : (s ++ 0#4 ++ BitVec.ofNat 4 t.code ++ c ++ r).extractLsb' 0 16 = r := low_of_append _ _
  have e4 : (s ++ 0#4 ++ BitVec.ofNat 4 t.code ++ c ++ r).extractLsb' 16 16 = c :=
    (extract_of_high _ _ (by decide)).trans (low_of_append _ _)
  have e5 : (s ++ 0#4 ++ BitVec.ofNat 4 t.code ++ c ++ r).extractLsb' 40 24 = s :=
    (extract_of_high _ _ (by decide)).trans ((extract_of_high _ _ (by decide)).trans
      ((extract_of_high _ _ (by decide)).trans (high_of_append _ _)))
  simp only [decACCSTM, ext, orReject_some, ok_bind, zero5_zero, src_back, e1, e2, e3, e4, e5, ht, beq_self_eq_true,
    need_true, SReg.ofCode_code]
theorem hire_bits (n : Fin 4) (z y x r : Bool) :
    let g := BitVec.ofNat 7 (n.val + 4 * b2n z + 8 * b2n y + 16 * b2n x + 32 * b2n r)
    g.getLsbD 6 = false ∧ g.getLsbD 2 = z ∧ g.getLsbD 3 = y ∧ g.getLsbD 4 = x ∧ g.getLsbD 5 = r
      ∧ Fin.ofNat 4 g.toNat = n := by
  revert n z y x r; decide
theorem decHIRE_back (mk : Fin 4 → Bool → Bool → Bool → Bool → SReg → SReg → Bool → Instr) (n : Fin 4) (z y x r : Bool)
    (h : d.writable = true) (hz : (!(z && y)) = true) :
    decHIRE ⟨o, BitVec.ofNat 7 (n.val + 4 * b2n z + 8 * b2n y + 16 * b2n x + 32 * b2n r), 0#5, a.code, d.code, sw, none,
      none⟩ mk = .ok (mk n z y x r d a sw) := by
  obtain ⟨h6, h2, h3, h4, h5, hn⟩ := hire_bits n z y x r
  simp only [decHIRE, plain, Option.isNone_none, need_true, ok_bind, zero5_zero, dst_code d h, h6, h2, h3, h4, h5, hn,
    Bool.not_false, hz, SReg.ofCode_code]
theorem mma_bits (p : MmaPair) (z : Bool) (n : Fin 4) :
    let g := BitVec.ofNat 7 (n.val + 8 * b2n z + 16 * p.code)
    MmaPair.ofCode (g.toNat / 16) = some p ∧ g.getLsbD 2 = false ∧ g.getLsbD 3 = z ∧ Fin.ofNat 4 g.toNat = n := by
  revert z n; cases p <;> decide
theorem decMMA_back (mk : MmaPair → Bool → Fin 4 → SReg → SReg → Src → BitVec 16 → BitVec 16 → BitVec 16 → Bool → Instr)
    (p : MmaPair) (z : Bool) (n : Fin 4) (r c q : BitVec 16) :
    decMMA ⟨o, BitVec.ofNat 7 (n.val + 8 * b2n z + 16 * p.code), b.code, a.code, d.code, sw,
      some (0#16 ++ q ++ c ++ r), b.litOf⟩ mk = .ok (mk p z n d a b r c q sw) := by
  obtain ⟨hp, h2, h3, hn⟩ := mma_bits p z n
  have e1 : (0#16 ++ q ++ c ++ r).extractLsb' 48 16 = 0#16 :=
    (extract_of_high _ _ (by decide)).trans ((extract_of_high _ _ (by decide)).trans (high_of_append _ _))
  have e2 : (0#16 ++ q ++ c ++ r).extractLsb' 0 16 = r := low_of_append _ _
  have e3 : (0#16 ++ q ++ c ++ r).extractLsb' 16 16 = c := (extract_of_high _ _ (by decide)).trans (low_of_append _ _)
  have e4 : (0#16 ++ q ++ c ++ r).extractLsb' 32 16 = q :=
    (extract_of_high _ _ (by decide)).trans ((extract_of_high _ _ (by decide)).trans (low_of_append _ _))
  simp only [decMMA, ext, orReject_some, ok_bind, src_back, hp, h2, h3, hn, Bool.not_false, need_true, e1, e2, e3, e4,
    beq_self_eq_true, SReg.ofCode_code]
theorem fship_bits (n : BitVec 6) (nr : Bool) :
    (BitVec.ofNat 7 (wBit nr n.toNat)).getLsbD 6 = nr ∧ (BitVec.ofNat 7 (wBit nr n.toNat)).extractLsb' 0 6 = n := by
  revert n nr; decide
theorem decFSHIP_back (mk : BitVec 6 → Bool → SReg → SReg → Src → Bool → Instr) (n : BitVec 6) (nr : Bool)
    (h : (nr || d.writable) = true) :
    decFSHIP ⟨o, BitVec.ofNat 7 (wBit nr n.toNat), b.code, a.code, d.code, sw, none, b.litOf⟩ mk
      = .ok (mk n nr d a b sw) := by
  obtain ⟨h6, hn⟩ := fship_bits n nr
  simp only [decFSHIP, noExt, Option.isNone_none, need_true, ok_bind, src_back, h6, hn, SReg.ofCode_code, h]

end Sys2Proof
end

