-- ==== Sys2Proof/Laws/PerInstr.lean ====
section
/-! SUPPORT. One lemma per constructor: a well-formed instruction is read back whole from its words. -/

namespace Sys2Proof.Laws.RoundTrip

set_option Elab.async false

/-- The words of a well-formed instruction are decoded to it (04 R64-R80). -/
def Statement (i : Instr) : Prop := i.wf = true → i.isEvent = false → decode (encode i) = .ok (i, [])

theorem add (w : Bool) (d : SReg) (a : SReg) (b : Src) (sw : Bool) : Statement (.add w d a b sw) := by
  intro h _
  cases w <;> exact decode_encode _ _ rfl (decDAB_back (h := h) ..)
theorem sub (w : Bool) (d : SReg) (a : SReg) (b : Src) (sw : Bool) : Statement (.sub w d a b sw) := by
  intro h _
  cases w <;> exact decode_encode _ _ rfl (decDAB_back (h := h) ..)
theorem mul (w : Bool) (d : SReg) (a : SReg) (b : Src) (sw : Bool) : Statement (.mul w d a b sw) := by
  intro h _
  cases w <;> exact decode_encode _ _ rfl (decDAB_back (h := h) ..)
theorem mulh (d : SReg) (a : SReg) (b : Src) (sw : Bool) : Statement (.mulh d a b sw) := fun h _ => decode_encode _ _ rfl (decDAB_back (h := h) ..)
theorem mulhn (d : SReg) (a : SReg) (b : Src) (sw : Bool) : Statement (.mulhn d a b sw) := fun h _ => decode_encode _ _ rfl (decDAB_back (h := h) ..)
theorem div (w : Bool) (d : SReg) (a : SReg) (b : Src) (sw : Bool) : Statement (.div w d a b sw) := by
  intro h _
  cases w <;> exact decode_encode _ _ rfl (decDAB_back (h := h) ..)
theorem divu (w : Bool) (d : SReg) (a : SReg) (b : Src) (sw : Bool) : Statement (.divu w d a b sw) := by
  intro h _
  cases w <;> exact decode_encode _ _ rfl (decDAB_back (h := h) ..)
theorem rem (w : Bool) (d : SReg) (a : SReg) (b : Src) (sw : Bool) : Statement (.rem w d a b sw) := by
  intro h _
  cases w <;> exact decode_encode _ _ rfl (decDAB_back (h := h) ..)
theorem remu (w : Bool) (d : SReg) (a : SReg) (b : Src) (sw : Bool) : Statement (.remu w d a b sw) := by
  intro h _
  cases w <;> exact decode_encode _ _ rfl (decDAB_back (h := h) ..)
theorem and (d : SReg) (a : SReg) (b : Src) (sw : Bool) : Statement (.and d a b sw) := fun h _ => decode_encode _ _ rfl (decDAB_back (h := h) ..)
theorem or (d : SReg) (a : SReg) (b : Src) (sw : Bool) : Statement (.or d a b sw) := fun h _ => decode_encode _ _ rfl (decDAB_back (h := h) ..)
theorem xor (d : SReg) (a : SReg) (b : Src) (sw : Bool) : Statement (.xor d a b sw) := fun h _ => decode_encode _ _ rfl (decDAB_back (h := h) ..)
theorem andn (d : SReg) (a : SReg) (b : Src) (sw : Bool) : Statement (.andn d a b sw) := fun h _ => decode_encode _ _ rfl (decDAB_back (h := h) ..)
theorem orn (d : SReg) (a : SReg) (b : Src) (sw : Bool) : Statement (.orn d a b sw) := fun h _ => decode_encode _ _ rfl (decDAB_back (h := h) ..)
theorem shl (w : Bool) (d : SReg) (a : SReg) (b : Src) (sw : Bool) : Statement (.shl w d a b sw) := by
  intro h _
  cases w <;> exact decode_encode _ _ rfl (decDAB_back (h := h) ..)
theorem shr (w : Bool) (d : SReg) (a : SReg) (b : Src) (sw : Bool) : Statement (.shr w d a b sw) := by
  intro h _
  cases w <;> exact decode_encode _ _ rfl (decDAB_back (h := h) ..)
theorem sar (w : Bool) (d : SReg) (a : SReg) (b : Src) (sw : Bool) : Statement (.sar w d a b sw) := by
  intro h _
  cases w <;> exact decode_encode _ _ rfl (decDAB_back (h := h) ..)
theorem rol (w : Bool) (d : SReg) (a : SReg) (b : Src) (sw : Bool) : Statement (.rol w d a b sw) := by
  intro h _
  cases w <;> exact decode_encode _ _ rfl (decDAB_back (h := h) ..)
theorem min (d : SReg) (a : SReg) (b : Src) (sw : Bool) : Statement (.min d a b sw) := fun h _ => decode_encode _ _ rfl (decDAB_back (h := h) ..)
theorem max (d : SReg) (a : SReg) (b : Src) (sw : Bool) : Statement (.max d a b sw) := fun h _ => decode_encode _ _ rfl (decDAB_back (h := h) ..)
theorem minu (d : SReg) (a : SReg) (b : Src) (sw : Bool) : Statement (.minu d a b sw) := fun h _ => decode_encode _ _ rfl (decDAB_back (h := h) ..)
theorem maxu (d : SReg) (a : SReg) (b : Src) (sw : Bool) : Statement (.maxu d a b sw) := fun h _ => decode_encode _ _ rfl (decDAB_back (h := h) ..)
theorem seq (d : SReg) (a : SReg) (b : Src) (sw : Bool) : Statement (.seq d a b sw) := fun h _ => decode_encode _ _ rfl (decDAB_back (h := h) ..)
theorem sne (d : SReg) (a : SReg) (b : Src) (sw : Bool) : Statement (.sne d a b sw) := fun h _ => decode_encode _ _ rfl (decDAB_back (h := h) ..)
theorem slt (d : SReg) (a : SReg) (b : Src) (sw : Bool) : Statement (.slt d a b sw) := fun h _ => decode_encode _ _ rfl (decDAB_back (h := h) ..)
theorem sltu (d : SReg) (a : SReg) (b : Src) (sw : Bool) : Statement (.sltu d a b sw) := fun h _ => decode_encode _ _ rfl (decDAB_back (h := h) ..)
theorem sle (d : SReg) (a : SReg) (b : Src) (sw : Bool) : Statement (.sle d a b sw) := fun h _ => decode_encode _ _ rfl (decDAB_back (h := h) ..)
theorem sleu (d : SReg) (a : SReg) (b : Src) (sw : Bool) : Statement (.sleu d a b sw) := fun h _ => decode_encode _ _ rfl (decDAB_back (h := h) ..)
theorem sel (d : SReg) (a : SReg) (b : Src) (sw : Bool) : Statement (.sel d a b sw) := fun h _ => decode_encode _ _ rfl (decDAB_back (h := h) ..)
theorem clz (d : SReg) (a : SReg) (sw : Bool) : Statement (.clz d a sw) := fun h _ => decode_encode _ _ rfl (decDA_back (h := h) ..)
theorem ctz (d : SReg) (a : SReg) (sw : Bool) : Statement (.ctz d a sw) := fun h _ => decode_encode _ _ rfl (decDA_back (h := h) ..)
theorem popc (d : SReg) (a : SReg) (sw : Bool) : Statement (.popc d a sw) := fun h _ => decode_encode _ _ rfl (decDA_back (h := h) ..)
theorem brev (d : SReg) (a : SReg) (sw : Bool) : Statement (.brev d a sw) := fun h _ => decode_encode _ _ rfl (decDA_back (h := h) ..)
theorem bswap (d : SReg) (a : SReg) (sw : Bool) : Statement (.bswap d a sw) := fun h _ => decode_encode _ _ rfl (decDA_back (h := h) ..)
theorem sexb (d : SReg) (a : SReg) (sw : Bool) : Statement (.sexb d a sw) := fun h _ => decode_encode _ _ rfl (decDA_back (h := h) ..)
theorem sexh (d : SReg) (a : SReg) (sw : Bool) : Statement (.sexh d a sw) := fun h _ => decode_encode _ _ rfl (decDA_back (h := h) ..)
theorem sexw (d : SReg) (a : SReg) (sw : Bool) : Statement (.sexw d a sw) := fun h _ => decode_encode _ _ rfl (decDA_back (h := h) ..)
theorem zexb (d : SReg) (a : SReg) (sw : Bool) : Statement (.zexb d a sw) := fun h _ => decode_encode _ _ rfl (decDA_back (h := h) ..)
theorem zexh (d : SReg) (a : SReg) (sw : Bool) : Statement (.zexh d a sw) := fun h _ => decode_encode _ _ rfl (decDA_back (h := h) ..)
theorem zexw (d : SReg) (a : SReg) (sw : Bool) : Statement (.zexw d a sw) := fun h _ => decode_encode _ _ rfl (decDA_back (h := h) ..)
theorem mov (d : SReg) (a : SReg) (sw : Bool) : Statement (.mov d a sw) := fun h _ => decode_encode _ _ rfl (decDA_back (h := h) ..)
theorem addi (d : SReg) (a : SReg) (i : Imm) (sw : Bool) : Statement (.addi d a i sw) := fun h _ => decode_encode _ _ rfl (decI_back (h := h) ..)
theorem andi (d : SReg) (a : SReg) (i : Imm) (sw : Bool) : Statement (.andi d a i sw) := fun h _ => decode_encode _ _ rfl (decI_back (h := h) ..)
theorem ori (d : SReg) (a : SReg) (i : Imm) (sw : Bool) : Statement (.ori d a i sw) := fun h _ => decode_encode _ _ rfl (decI_back (h := h) ..)
theorem xori (d : SReg) (a : SReg) (i : Imm) (sw : Bool) : Statement (.xori d a i sw) := fun h _ => decode_encode _ _ rfl (decI_back (h := h) ..)
theorem shli (d : SReg) (a : SReg) (n : BitVec 6) (sw : Bool) : Statement (.shli d a n sw) := fun h _ => decode_encode _ _ rfl (decSH_back (h := h) ..)
theorem shri (d : SReg) (a : SReg) (n : BitVec 6) (sw : Bool) : Statement (.shri d a n sw) := fun h _ => decode_encode _ _ rfl (decSH_back (h := h) ..)
theorem sari (d : SReg) (a : SReg) (n : BitVec 6) (sw : Bool) : Statement (.sari d a n sw) := fun h _ => decode_encode _ _ rfl (decSH_back (h := h) ..)
theorem slti (d : SReg) (a : SReg) (i : Imm) (sw : Bool) : Statement (.slti d a i sw) := fun h _ => decode_encode _ _ rfl (decI_back (h := h) ..)
theorem sltiu (d : SReg) (a : SReg) (i : Imm) (sw : Bool) : Statement (.sltiu d a i sw) := fun h _ => decode_encode _ _ rfl (decI_back (h := h) ..)
theorem muli (d : SReg) (a : SReg) (i : Imm) (sw : Bool) : Statement (.muli d a i sw) := fun h _ => decode_encode _ _ rfl (decI_back (h := h) ..)
theorem li (d : SReg) (i : Imm) (sw : Bool) : Statement (.li d i sw) := fun h _ => decode_encode _ _ rfl (decLI_back (h := h) ..)
theorem bfx (d : SReg) (a : SReg) (p : BitVec 6) (wm1 : BitVec 6) (sw : Bool) : Statement (.bfx d a p wm1 sw) := fun h _ => by
  have h := (Bool.and_eq_true _ _).mp h
  exact decode_encode _ _ rfl (decBF_back (h := h.1) (hw := of_decide_eq_true h.2) ..)
theorem bfi (d : SReg) (a : SReg) (p : BitVec 6) (wm1 : BitVec 6) (sw : Bool) : Statement (.bfi d a p wm1 sw) := fun h _ => by
  have h := (Bool.and_eq_true _ _).mp h
  exact decode_encode _ _ rfl (decBF_back (h := h.1) (hw := of_decide_eq_true h.2) ..)
theorem lea0 (d : SReg) (a : SReg) (b : Src) (sw : Bool) : Statement (.lea0 d a b sw) := fun h _ => decode_encode _ _ rfl (decDAB_back (h := h) ..)
theorem lea1 (d : SReg) (a : SReg) (b : Src) (sw : Bool) : Statement (.lea1 d a b sw) := fun h _ => decode_encode _ _ rfl (decDAB_back (h := h) ..)
theorem lea2 (d : SReg) (a : SReg) (b : Src) (sw : Bool) : Statement (.lea2 d a b sw) := fun h _ => decode_encode _ _ rfl (decDAB_back (h := h) ..)
theorem lea3 (d : SReg) (a : SReg) (b : Src) (sw : Bool) : Statement (.lea3 d a b sw) := fun h _ => decode_encode _ _ rfl (decDAB_back (h := h) ..)
theorem mkca (d : SReg) (a : SReg) (b : Src) (sw : Bool) : Statement (.mkca d a b sw) := fun h _ => decode_encode _ _ rfl (decDAB_back (h := h) ..)
theorem mkha (d : SReg) (a : SReg) (b : Src) (sw : Bool) : Statement (.mkha d a b sw) := fun h _ => decode_encode _ _ rfl (decDAB_back (h := h) ..)
theorem acls (d : SReg) (a : SReg) (sw : Bool) : Statement (.acls d a sw) := fun h _ => decode_encode _ _ rfl (decDA_back (h := h) ..)
theorem acol (d : SReg) (a : SReg) (sw : Bool) : Statement (.acol d a sw) := fun h _ => decode_encode _ _ rfl (decDA_back (h := h) ..)
theorem acell (d : SReg) (a : SReg) (sw : Bool) : Statement (.acell d a sw) := fun h _ => decode_encode _ _ rfl (decDA_back (h := h) ..)
theorem twinof (d : SReg) (a : SReg) (sw : Bool) : Statement (.twinof d a sw) := fun h _ => decode_encode _ _ rfl (decDA_back (h := h) ..)
theorem bz (a : SReg) (disp : BitVec 17) (sw : Bool) : Statement (.bz a disp sw) := fun _ _ => decode_encode _ _ rfl (decBR_back ..)
theorem bnz (a : SReg) (disp : BitVec 17) (sw : Bool) : Statement (.bnz a disp sw) := fun _ _ => decode_encode _ _ rfl (decBR_back ..)
theorem bltz (a : SReg) (disp : BitVec 17) (sw : Bool) : Statement (.bltz a disp sw) := fun _ _ => decode_encode _ _ rfl (decBR_back ..)
theorem bgez (a : SReg) (disp : BitVec 17) (sw : Bool) : Statement (.bgez a disp sw) := fun _ _ => decode_encode _ _ rfl (decBR_back ..)
theorem loop (a : SReg) (disp : BitVec 17) (sw : Bool) : Statement (.loop a disp sw) := fun h _ => decode_encode _ _ rfl (decLOOP_back (h := h) ..)
theorem jmp (disp : BitVec 22) (sw : Bool) : Statement (.jmp disp sw) := fun _ _ => decode_encode _ _ rfl (decJ_back ..)
theorem jmpr (a : SReg) (sw : Bool) : Statement (.jmpr a sw) := fun _ _ => decode_encode _ _ rfl (decA_back ..)
theorem call (disp : BitVec 22) (sw : Bool) : Statement (.call disp sw) := fun _ _ => decode_encode _ _ rfl (decJ_back ..)
theorem callr (a : SReg) (sw : Bool) : Statement (.callr a sw) := fun _ _ => decode_encode _ _ rfl (decA_back ..)
theorem ret (sw : Bool) : Statement (.ret sw) := fun _ _ => decode_encode _ _ rfl (dec0_back ..)
theorem ldb (d : SReg) (a : SReg) (off : Imm) (sw : Bool) : Statement (.ldb d a off sw) := fun h _ => decode_encode _ _ rfl (decI_back (h := h) ..)
theorem ldbn (d : SReg) (a : SReg) (off : Imm) (sw : Bool) : Statement (.ldbn d a off sw) := fun h _ => decode_encode _ _ rfl (decI_back (h := h) ..)
theorem ldh (d : SReg) (a : SReg) (off : Imm) (sw : Bool) : Statement (.ldh d a off sw) := fun h _ => decode_encode _ _ rfl (decI_back (h := h) ..)
theorem ldhn (d : SReg) (a : SReg) (off : Imm) (sw : Bool) : Statement (.ldhn d a off sw) := fun h _ => decode_encode _ _ rfl (decI_back (h := h) ..)
theorem ldw (d : SReg) (a : SReg) (off : Imm) (sw : Bool) : Statement (.ldw d a off sw) := fun h _ => decode_encode _ _ rfl (decI_back (h := h) ..)
theorem ldwn (d : SReg) (a : SReg) (off : Imm) (sw : Bool) : Statement (.ldwn d a off sw) := fun h _ => decode_encode _ _ rfl (decI_back (h := h) ..)
theorem ldd (d : SReg) (a : SReg) (off : Imm) (sw : Bool) : Statement (.ldd d a off sw) := fun h _ => decode_encode _ _ rfl (decI_back (h := h) ..)
theorem stb (d : SReg) (a : SReg) (off : Imm) (sw : Bool) : Statement (.stb d a off sw) := fun _ _ => decode_encode _ _ rfl (decMS_back ..)
theorem sth (d : SReg) (a : SReg) (off : Imm) (sw : Bool) : Statement (.sth d a off sw) := fun _ _ => decode_encode _ _ rfl (decMS_back ..)
theorem stw (d : SReg) (a : SReg) (off : Imm) (sw : Bool) : Statement (.stw d a off sw) := fun _ _ => decode_encode _ _ rfl (decMS_back ..)
theorem std (d : SReg) (a : SReg) (off : Imm) (sw : Bool) : Statement (.std d a off sw) := fun _ _ => decode_encode _ _ rfl (decMS_back ..)
theorem ldv (d : VReg) (a : SReg) (off : Imm) (sw : Bool) : Statement (.ldv d a off sw) := fun _ _ => decode_encode _ _ rfl (decMV_back ..)
theorem stv (d : VReg) (a : SReg) (off : Imm) (sw : Bool) : Statement (.stv d a off sw) := fun _ _ => decode_encode _ _ rfl (decMV_back ..)
theorem ldf (d : VReg) (a : SReg) (off : Imm) (sw : Bool) : Statement (.ldf d a off sw) := fun h _ => decode_encode _ _ rfl (decMF_back (h := h) ..)
theorem stf (d : VReg) (a : SReg) (off : Imm) (sw : Bool) : Statement (.stf d a off sw) := fun h _ => decode_encode _ _ rfl (decMF_back (h := h) ..)
theorem ldx (d : SReg) (a : SReg) (b : Src) (sw : Bool) : Statement (.ldx d a b sw) := fun h _ => decode_encode _ _ rfl (decDAB_back (h := h) ..)
theorem stx (d : SReg) (a : SReg) (b : Src) (sw : Bool) : Statement (.stx d a b sw) := fun _ _ => decode_encode _ _ rfl (decSAB_back ..)
theorem pref (a : SReg) (b : Src) (sw : Bool) : Statement (.pref a b sw) := fun _ _ => decode_encode _ _ rfl (decAB_back ..)
theorem hint (a : SReg) (len : BitVec 36) (sw : Bool) : Statement (.hint a len sw) := fun _ _ => decode_encode _ _ rfl (decHINT_back ..)
theorem cpy (d : SReg) (a : SReg) (b : Src) (n : BitVec 32) (sw : Bool) : Statement (.cpy d a b n sw) := fun h _ => decode_encode _ _ rfl (decCPY_back (h := h) ..)
theorem cpys (d : SReg) (a : SReg) (b : Src) (len : BitVec 16) (rows : BitVec 16) (sstr : BitVec 16) (dstr : BitVec 16) (sw : Bool) : Statement (.cpys d a b len rows sstr dstr sw) := fun h _ => decode_encode _ _ rfl (decCPYS_back (h := h) ..)
theorem gath (d : SReg) (a : SReg) (b : Src) (n : BitVec 16) (sz : Fin 6) (sw : Bool) : Statement (.gath d a b n sz sw) := fun h _ => decode_encode _ _ rfl (decGATH_back (h := h) ..)
theorem scat (d : SReg) (a : SReg) (b : Src) (n : BitVec 16) (sz : Fin 6) (sw : Bool) : Statement (.scat d a b n sz sw) := fun h _ => decode_encode _ _ rfl (decGATH_back (h := h) ..)
theorem cpyc (d : SReg) (a : SReg) (b : Src) (n : BitVec 32) (sw : Bool) : Statement (.cpyc d a b n sw) := fun h _ => decode_encode _ _ rfl (decCPY_back (h := h) ..)
theorem aadd (w : Bool) (d : SReg) (a : SReg) (b : Src) (sw : Bool) : Statement (.aadd w d a b sw) := by
  intro h _
  cases w <;> exact decode_encode _ _ rfl (decDAB_back (h := h) ..)
theorem amin (w : Bool) (d : SReg) (a : SReg) (b : Src) (sw : Bool) : Statement (.amin w d a b sw) := by
  intro h _
  cases w <;> exact decode_encode _ _ rfl (decDAB_back (h := h) ..)
theorem amax (w : Bool) (d : SReg) (a : SReg) (b : Src) (sw : Bool) : Statement (.amax w d a b sw) := by
  intro h _
  cases w <;> exact decode_encode _ _ rfl (decDAB_back (h := h) ..)
theorem aminu (w : Bool) (d : SReg) (a : SReg) (b : Src) (sw : Bool) : Statement (.aminu w d a b sw) := by
  intro h _
  cases w <;> exact decode_encode _ _ rfl (decDAB_back (h := h) ..)
theorem amaxu (w : Bool) (d : SReg) (a : SReg) (b : Src) (sw : Bool) : Statement (.amaxu w d a b sw) := by
  intro h _
  cases w <;> exact decode_encode _ _ rfl (decDAB_back (h := h) ..)
theorem aand (w : Bool) (d : SReg) (a : SReg) (b : Src) (sw : Bool) : Statement (.aand w d a b sw) := by
  intro h _
  cases w <;> exact decode_encode _ _ rfl (decDAB_back (h := h) ..)
theorem aor (w : Bool) (d : SReg) (a : SReg) (b : Src) (sw : Bool) : Statement (.aor w d a b sw) := by
  intro h _
  cases w <;> exact decode_encode _ _ rfl (decDAB_back (h := h) ..)
theorem axor (w : Bool) (d : SReg) (a : SReg) (b : Src) (sw : Bool) : Statement (.axor w d a b sw) := by
  intro h _
  cases w <;> exact decode_encode _ _ rfl (decDAB_back (h := h) ..)
theorem axchg (w : Bool) (d : SReg) (a : SReg) (b : Src) (sw : Bool) : Statement (.axchg w d a b sw) := by
  intro h _
  cases w <;> exact decode_encode _ _ rfl (decDAB_back (h := h) ..)
theorem acas (w : Bool) (d : SReg) (a : SReg) (b : Src) (sw : Bool) : Statement (.acas w d a b sw) := by
  intro h _
  cases w <;> exact decode_encode _ _ rfl (decDAB_back (h := h) ..)
theorem afadd32 (d : SReg) (a : SReg) (b : Src) (sw : Bool) : Statement (.afadd32 d a b sw) := fun h _ => decode_encode _ _ rfl (decDAB_back (h := h) ..)
theorem afadd16 (d : SReg) (a : SReg) (b : Src) (sw : Bool) : Statement (.afadd16 d a b sw) := fun h _ => decode_encode _ _ rfl (decDAB_back (h := h) ..)
theorem afmax32 (d : SReg) (a : SReg) (b : Src) (sw : Bool) : Statement (.afmax32 d a b sw) := fun h _ => decode_encode _ _ rfl (decDAB_back (h := h) ..)
theorem fship (routine : BitVec 6) (nr : Bool) (d : SReg) (a : SReg) (b : Src) (sw : Bool) : Statement (.fship routine nr d a b sw) := fun h _ => decode_encode _ _ rfl (decFSHIP_back (h := h) ..)
theorem ndot (t : FTy) (d : SReg) (a : SReg) (b : Src) (n : BitVec 32) (sw : Bool) : Statement (.ndot t d a b n sw) := fun h _ => decode_encode _ _ rfl (decNDOT_back (h := h) ..)
theorem nsum (t : FTy) (d : SReg) (a : SReg) (n : BitVec 32) (sw : Bool) : Statement (.nsum t d a n sw) := fun h _ => decode_encode _ _ rfl (decNSUM_back (h := h) ..)
theorem nmax (t : FTy) (d : SReg) (a : SReg) (n : BitVec 32) (sw : Bool) : Statement (.nmax t d a n sw) := fun h _ => decode_encode _ _ rfl (decNSUM_back (h := h) ..)
theorem rel (sc : Scope) (sw : Bool) : Statement (.rel sc sw) := by
  intro _ _
  refine decode_encode _ _ rfl ?_
  cases sc <;> simp [mkF, decodeFields, decSyncGroup, Scope.code] <;> refine decSYNC_back (h := ?_) .. <;> rfl
theorem acq (sc : Scope) (sw : Bool) : Statement (.acq sc sw) := by
  intro _ _
  refine decode_encode _ _ rfl ?_
  cases sc <;> simp [mkF, decodeFields, decSyncGroup, Scope.code] <;> refine decSYNC_back (h := ?_) .. <;> rfl
theorem fence (sc : Scope) (sw : Bool) : Statement (.fence sc sw) := by
  intro _ _
  refine decode_encode _ _ rfl ?_
  cases sc <;> simp [mkF, decodeFields, decSyncGroup, Scope.code] <;> refine decSYNC_back (h := ?_) .. <;> rfl
theorem tsmr (sc : Scope) (d : SReg) (a : SReg) (sw : Bool) : Statement (.tsmr sc d a sw) := by
  intro h _
  refine decode_encode _ _ rfl ?_
  cases sc <;> simp [mkF, decodeFields, decSyncGroup, Scope.code] <;> refine decTSMR_back (h := ?_) (hd := h) .. <;> rfl
theorem barinit (sc : Scope) (a : SReg) (b : Src) (sw : Bool) : Statement (.barinit sc a b sw) := fun _ _ => decode_encode _ _ rfl (decBARINIT_back ..)
theorem bararr (a : SReg) (sw : Bool) : Statement (.bararr a sw) := fun _ _ => decode_encode _ _ rfl (decA_back ..)
theorem barwait (a : SReg) (sw : Bool) : Statement (.barwait a sw) := fun _ _ => decode_encode _ _ rfl (decA_back ..)
theorem bartest (d : SReg) (a : SReg) (sw : Bool) : Statement (.bartest d a sw) := fun h _ => decode_encode _ _ rfl (decDA_back (h := h) ..)
theorem waita (d : SReg) (a : SReg) (b : Src) (sw : Bool) : Statement (.waita d a b sw) := fun h _ => decode_encode _ _ rfl (decDAB_back (h := h) ..)
theorem waitt (d : SReg) (a : SReg) (sw : Bool) : Statement (.waitt d a sw) := fun h _ => decode_encode _ _ rfl (decDA_back (h := h) ..)
theorem yield (sw : Bool) : Statement (.yield sw) := fun _ _ => decode_encode _ _ rfl (dec0_back ..)
theorem sleep (a : SReg) (sw : Bool) : Statement (.sleep a sw) := fun _ _ => decode_encode _ _ rfl (decA_back ..)
theorem vfpVadd (t : FTy) (d : VReg) (a : VReg) (b : VReg) (sw : Bool) : Statement (.vfpVadd t d a b sw) := by
  intro _ _
  refine decode_encode _ _ rfl ?_
  cases t <;> simp [mkF, decodeFields, decVfpGroup, FTy.code] <;> refine decFV3_back (h := ?_) .. <;> rfl
theorem vfpVsub (t : FTy) (d : VReg) (a : VReg) (b : VReg) (sw : Bool) : Statement (.vfpVsub t d a b sw) := by
  intro _ _
  refine decode_encode _ _ rfl ?_
  cases t <;> simp [mkF, decodeFields, decVfpGroup, FTy.code] <;> refine decFV3_back (h := ?_) .. <;> rfl
theorem vfpVmul (t : FTy) (d : VReg) (a : VReg) (b : VReg) (sw : Bool) : Statement (.vfpVmul t d a b sw) := by
  intro _ _
  refine decode_encode _ _ rfl ?_
  cases t <;> simp [mkF, decodeFields, decVfpGroup, FTy.code] <;> refine decFV3_back (h := ?_) .. <;> rfl
theorem vfma (t : FTy) (d : VReg) (a : VReg) (b : VReg) (sw : Bool) : Statement (.vfma t d a b sw) := by
  intro _ _
  refine decode_encode _ _ rfl ?_
  cases t <;> simp [mkF, decodeFields, decVfpGroup, FTy.code] <;> refine decFV3_back (h := ?_) .. <;> rfl
theorem vfpVmin (t : FTy) (d : VReg) (a : VReg) (b : VReg) (sw : Bool) : Statement (.vfpVmin t d a b sw) := by
  intro _ _
  refine decode_encode _ _ rfl ?_
  cases t <;> simp [mkF, decodeFields, decVfpGroup, FTy.code] <;> refine decFV3_back (h := ?_) .. <;> rfl
theorem vfpVmax (t : FTy) (d : VReg) (a : VReg) (b : VReg) (sw : Bool) : Statement (.vfpVmax t d a b sw) := by
  intro _ _
  refine decode_encode _ _ rfl ?_
  cases t <;> simp [mkF, decodeFields, decVfpGroup, FTy.code] <;> refine decFV3_back (h := ?_) .. <;> rfl
theorem vabs (t : FTy) (d : VReg) (a : VReg) (sw : Bool) : Statement (.vabs t d a sw) := by
  intro _ _
  refine decode_encode _ _ rfl ?_
  cases t <;> simp [mkF, decodeFields, decVfpGroup, FTy.code] <;> refine decFV2_back (h := ?_) .. <;> rfl
theorem vneg (t : FTy) (d : VReg) (a : VReg) (sw : Bool) : Statement (.vneg t d a sw) := by
  intro _ _
  refine decode_encode _ _ rfl ?_
  cases t <;> simp [mkF, decodeFields, decVfpGroup, FTy.code] <;> refine decFV2_back (h := ?_) .. <;> rfl
theorem vdiv (t : FTy) (d : VReg) (a : VReg) (b : VReg) (sw : Bool) : Statement (.vdiv t d a b sw) := by
  intro _ _
  refine decode_encode _ _ rfl ?_
  cases t <;> simp [mkF, decodeFields, decVfpGroup, FTy.code] <;> refine decFV3_back (h := ?_) .. <;> rfl
theorem vsqrt (t : FTy) (d : VReg) (a : VReg) (sw : Bool) : Statement (.vsqrt t d a sw) := by
  intro _ _
  refine decode_encode _ _ rfl ?_
  cases t <;> simp [mkF, decodeFields, decVfpGroup, FTy.code] <;> refine decFV2_back (h := ?_) .. <;> rfl
theorem vexp2 (t : FTy) (d : VReg) (a : VReg) (sw : Bool) : Statement (.vexp2 t d a sw) := by
  intro _ _
  refine decode_encode _ _ rfl ?_
  cases t <;> simp [mkF, decodeFields, decVfpGroup, FTy.code] <;> refine decFV2_back (h := ?_) .. <;> rfl
theorem vfpVcmpeq (t : FTy) (d : KReg) (a : VReg) (b : VReg) (sw : Bool) : Statement (.vfpVcmpeq t d a b sw) := by
  intro _ _
  refine decode_encode _ _ rfl ?_
  cases t <;> simp [mkF, decodeFields, decVfpGroup, FTy.code] <;> refine decFK3_back (h := ?_) .. <;> rfl
theorem vfpVcmplt (t : FTy) (d : KReg) (a : VReg) (b : VReg) (sw : Bool) : Statement (.vfpVcmplt t d a b sw) := by
  intro _ _
  refine decode_encode _ _ rfl ?_
  cases t <;> simp [mkF, decodeFields, decVfpGroup, FTy.code] <;> refine decFK3_back (h := ?_) .. <;> rfl
theorem vcmple (t : FTy) (d : KReg) (a : VReg) (b : VReg) (sw : Bool) : Statement (.vcmple t d a b sw) := by
  intro _ _
  refine decode_encode _ _ rfl ?_
  cases t <;> simp [mkF, decodeFields, decVfpGroup, FTy.code] <;> refine decFK3_back (h := ?_) .. <;> rfl
theorem vintVadd (t : ITy) (d : VReg) (a : VReg) (b : VReg) (sw : Bool) : Statement (.vintVadd t d a b sw) := by
  intro _ _
  refine decode_encode _ _ rfl ?_
  cases t <;> simp [mkF, decodeFields, decVintGroup, ITy.code] <;> refine decIV3_back (h := ?_) .. <;> rfl
theorem vintVsub (t : ITy) (d : VReg) (a : VReg) (b : VReg) (sw : Bool) : Statement (.vintVsub t d a b sw) := by
  intro _ _
  refine decode_encode _ _ rfl ?_
  cases t <;> simp [mkF, decodeFields, decVintGroup, ITy.code] <;> refine decIV3_back (h := ?_) .. <;> rfl
theorem vintVmul (t : ITy) (d : VReg) (a : VReg) (b : VReg) (sw : Bool) : Statement (.vintVmul t d a b sw) := by
  intro _ _
  refine decode_encode _ _ rfl ?_
  cases t <;> simp [mkF, decodeFields, decVintGroup, ITy.code] <;> refine decIV3_back (h := ?_) .. <;> rfl
theorem vintVmin (t : ITy) (d : VReg) (a : VReg) (b : VReg) (sw : Bool) : Statement (.vintVmin t d a b sw) := by
  intro _ _
  refine decode_encode _ _ rfl ?_
  cases t <;> simp [mkF, decodeFields, decVintGroup, ITy.code] <;> refine decIV3_back (h := ?_) .. <;> rfl
theorem vintVmax (t : ITy) (d : VReg) (a : VReg) (b : VReg) (sw : Bool) : Statement (.vintVmax t d a b sw) := by
  intro _ _
  refine decode_encode _ _ rfl ?_
  cases t <;> simp [mkF, decodeFields, decVintGroup, ITy.code] <;> refine decIV3_back (h := ?_) .. <;> rfl
theorem vminn (t : ITy) (d : VReg) (a : VReg) (b : VReg) (sw : Bool) : Statement (.vminn t d a b sw) := by
  intro _ _
  refine decode_encode _ _ rfl ?_
  cases t <;> simp [mkF, decodeFields, decVintGroup, ITy.code] <;> refine decIV3_back (h := ?_) .. <;> rfl
theorem vmaxn (t : ITy) (d : VReg) (a : VReg) (b : VReg) (sw : Bool) : Statement (.vmaxn t d a b sw) := by
  intro _ _
  refine decode_encode _ _ rfl ?_
  cases t <;> simp [mkF, decodeFields, decVintGroup, ITy.code] <;> refine decIV3_back (h := ?_) .. <;> rfl
theorem vand (t : ITy) (d : VReg) (a : VReg) (b : VReg) (sw : Bool) : Statement (.vand t d a b sw) := by
  intro _ _
  refine decode_encode _ _ rfl ?_
  cases t <;> simp [mkF, decodeFields, decVintGroup, ITy.code] <;> refine decIV3_back (h := ?_) .. <;> rfl
theorem vor (t : ITy) (d : VReg) (a : VReg) (b : VReg) (sw : Bool) : Statement (.vor t d a b sw) := by
  intro _ _
  refine decode_encode _ _ rfl ?_
  cases t <;> simp [mkF, decodeFields, decVintGroup, ITy.code] <;> refine decIV3_back (h := ?_) .. <;> rfl
theorem vxor (t : ITy) (d : VReg) (a : VReg) (b : VReg) (sw : Bool) : Statement (.vxor t d a b sw) := by
  intro _ _
  refine decode_encode _ _ rfl ?_
  cases t <;> simp [mkF, decodeFields, decVintGroup, ITy.code] <;> refine decIV3_back (h := ?_) .. <;> rfl
theorem vshl (t : ITy) (d : VReg) (a : VReg) (b : VReg) (sw : Bool) : Statement (.vshl t d a b sw) := by
  intro _ _
  refine decode_encode _ _ rfl ?_
  cases t <;> simp [mkF, decodeFields, decVintGroup, ITy.code] <;> refine decIV3_back (h := ?_) .. <;> rfl
theorem vshr (t : ITy) (d : VReg) (a : VReg) (b : VReg) (sw : Bool) : Statement (.vshr t d a b sw) := by
  intro _ _
  refine decode_encode _ _ rfl ?_
  cases t <;> simp [mkF, decodeFields, decVintGroup, ITy.code] <;> refine decIV3_back (h := ?_) .. <;> rfl
theorem vsar (t : ITy) (d : VReg) (a : VReg) (b : VReg) (sw : Bool) : Statement (.vsar t d a b sw) := by
  intro _ _
  refine decode_encode _ _ rfl ?_
  cases t <;> simp [mkF, decodeFields, decVintGroup, ITy.code] <;> refine decIV3_back (h := ?_) .. <;> rfl
theorem vintVcmpeq (t : ITy) (d : KReg) (a : VReg) (b : VReg) (sw : Bool) : Statement (.vintVcmpeq t d a b sw) := by
  intro _ _
  refine decode_encode _ _ rfl ?_
  cases t <;> simp [mkF, decodeFields, decVintGroup, ITy.code] <;> refine decIK3_back (h := ?_) .. <;> rfl
theorem vintVcmplt (t : ITy) (d : KReg) (a : VReg) (b : VReg) (sw : Bool) : Statement (.vintVcmplt t d a b sw) := by
  intro _ _
  refine decode_encode _ _ rfl ?_
  cases t <;> simp [mkF, decodeFields, decVintGroup, ITy.code] <;> refine decIK3_back (h := ?_) .. <;> rfl
theorem vcmpltn (t : ITy) (d : KReg) (a : VReg) (b : VReg) (sw : Bool) : Statement (.vcmpltn t d a b sw) := by
  intro _ _
  refine decode_encode _ _ rfl ?_
  cases t <;> simp [mkF, decodeFields, decVintGroup, ITy.code] <;> refine decIK3_back (h := ?_) .. <;> rfl
theorem vbcast (t : ElemTy) (d : VReg) (a : SReg) (sw : Bool) : Statement (.vbcast t d a sw) := fun h _ => decode_encode _ _ rfl (decVBCAST_back (h := h) ..)
theorem vmovs (d : SReg) (a : VReg) (lane : Fin 2) (sw : Bool) : Statement (.vmovs d a lane sw) := fun h _ => decode_encode _ _ rfl (decVMOVS_back (h := h) ..)
theorem vins (d : VReg) (a : SReg) (lane : Fin 2) (sw : Bool) : Statement (.vins d a lane sw) := fun _ _ => decode_encode _ _ rfl (decVINS_back ..)
theorem vshuf (d : VReg) (a : VReg) (b : Src) (sw : Bool) : Statement (.vshuf d a b sw) := fun _ _ => decode_encode _ _ rfl (decVSHUF_back ..)
theorem vsel (d : VReg) (a : VReg) (k : KReg) (w : LaneW) (sw : Bool) : Statement (.vsel d a k w sw) := fun _ _ => decode_encode _ _ rfl (decVSEL_back ..)
theorem vredadd (t : ElemTy) (d : SReg) (a : VReg) (sw : Bool) : Statement (.vredadd t d a sw) := fun h _ => by
  have h := (Bool.and_eq_true _ _).mp h
  exact decode_encode _ _ rfl (decVRED_back (h := h.1) (hd := h.2) ..)
theorem vredmax (t : ElemTy) (d : SReg) (a : VReg) (sw : Bool) : Statement (.vredmax t d a sw) := fun h _ => by
  have h := (Bool.and_eq_true _ _).mp h
  exact decode_encode _ _ rfl (decVRED_back (h := h.1) (hd := h.2) ..)
theorem vredmin (t : ElemTy) (d : SReg) (a : VReg) (sw : Bool) : Statement (.vredmin t d a sw) := fun h _ => by
  have h := (Bool.and_eq_true _ _).mp h
  exact decode_encode _ _ rfl (decVRED_back (h := h.1) (hd := h.2) ..)
theorem kand (d : KReg) (a : KReg) (b : KReg) (sw : Bool) : Statement (.kand d a b sw) := fun _ _ => decode_encode _ _ rfl (decKKK_back ..)
theorem kor (d : KReg) (a : KReg) (b : KReg) (sw : Bool) : Statement (.kor d a b sw) := fun _ _ => decode_encode _ _ rfl (decKKK_back ..)
theorem kxor (d : KReg) (a : KReg) (b : KReg) (sw : Bool) : Statement (.kxor d a b sw) := fun _ _ => decode_encode _ _ rfl (decKKK_back ..)
theorem knot (d : KReg) (a : KReg) (sw : Bool) : Statement (.knot d a sw) := fun _ _ => decode_encode _ _ rfl (decKK_back ..)
theorem kmov (f : KmovForm) (sw : Bool) : Statement (.kmov f sw) := by
  intro h _
  cases f
  · exact decode_encode _ _ rfl (decKMOV_kk ..)
  · exact decode_encode _ _ rfl (decKMOV_sk (h := h) ..)
  · exact decode_encode _ _ rfl (decKMOV_ks ..)
theorem vzero (d : VorK) (sw : Bool) : Statement (.vzero d sw) := fun _ _ => decode_encode _ _ rfl (decVZERO_back ..)
theorem vmov (d : VReg) (a : VReg) (sw : Bool) : Statement (.vmov d a sw) := fun _ _ => decode_encode _ _ rfl (decVV_back ..)
theorem vcvt (dt : ElemTy) (st : ElemTy) (sat : Bool) (d : VReg) (a : VReg) (sw : Bool) : Statement (.vcvt dt st sat d a sw) := fun h _ => by
  have h := (Bool.and_eq_true _ _).mp h
  exact decode_encode _ _ rfl (decVCVT_back (h := h.1) (h2 := h.2) ..)
theorem vqblk (d : SReg) (a : SReg) (b : Src) (st : FTy) (kind : BlkKind) (n : BitVec 9) (sw : Bool) : Statement (.vqblk d a b st kind n sw) := fun h _ => by
  have h := (Bool.and_eq_true _ _).mp h
  exact decode_encode _ _ rfl (decVQBLK_back (h := h.1) (hn := h.2) ..)
theorem vdqblk (d : SReg) (a : SReg) (b : Src) (dt : FTy) (kind : DqKind) (n : BitVec 9) (sw : Bool) : Statement (.vdqblk d a b dt kind n sw) := fun h _ => decode_encode _ _ rfl (decVDQBLK_back (hn := h) ..)
theorem vscl (d : VReg) (a : VReg) (b : Src) (t : FTy) (sw : Bool) : Statement (.vscl d a b t sw) := fun _ _ => decode_encode _ _ rfl (decVSCL_back ..)
theorem hire (batch : Fin 4) (z : Bool) (l : Bool) (o : Bool) (rk : Bool) (d : SReg) (a : SReg) (sw : Bool) : Statement (.hire batch z l o rk d a sw) := fun h _ => by
  have h := (Bool.and_eq_true _ _).mp h
  exact decode_encode _ _ rfl (decHIRE_back (hz := h.1) (h := h.2) ..)
theorem mma (pair : MmaPair) (z : Bool) (batch : Fin 4) (d : SReg) (a : SReg) (b : Src) (rows : BitVec 16) (cols : BitVec 16) (depth : BitVec 16) (sw : Bool) : Statement (.mma pair z batch d a b rows cols depth sw) := fun _ _ => decode_encode _ _ rfl (decMMA_back ..)
theorem waitb (d : SReg) (n : Fin 4) (sw : Bool) : Statement (.waitb d n sw) := fun h _ => decode_encode _ _ rfl (decDb2_back (h := h) ..)
theorem accget (d : SReg) (n : BitVec 5) (sw : Bool) : Statement (.accget d n sw) := fun h _ => decode_encode _ _ rfl (decD5_back (h := h) ..)
theorem accput (a : SReg) (n : BitVec 5) (sw : Bool) : Statement (.accput a n sw) := fun _ _ => decode_encode _ _ rfl (decA5_back ..)
theorem accz (a : SReg) (n : BitVec 5) (sw : Bool) : Statement (.accz a n sw) := fun _ _ => decode_encode _ _ rfl (decA5_back ..)
theorem accld (a : SReg) (b : Src) (sw : Bool) : Statement (.accld a b sw) := fun _ _ => decode_encode _ _ rfl (decAB_back ..)
theorem accst (a : SReg) (b : Src) (sw : Bool) : Statement (.accst a b sw) := fun _ _ => decode_encode _ _ rfl (decAB_back ..)
theorem hstat (d : SReg) (a : SReg) (sw : Bool) : Statement (.hstat d a sw) := fun h _ => decode_encode _ _ rfl (decDA_back (h := h) ..)
theorem hcancel (n : Fin 4) (sw : Bool) : Statement (.hcancel n sw) := fun _ _ => decode_encode _ _ rfl (decb2_back ..)
theorem accstm (a : SReg) (b : Src) (rows : BitVec 16) (cols : BitVec 16) (fmt : AccFmt) (stride : BitVec 24) (sw : Bool) : Statement (.accstm a b rows cols fmt stride sw) := fun _ _ => decode_encode _ _ rfl (decACCSTM_back ..)
theorem licreq (sw : Bool) : Statement (.licreq sw) := fun _ _ => decode_encode _ _ rfl (dec0_back ..)
theorem licrel (sw : Bool) : Statement (.licrel sw) := fun _ _ => decode_encode _ _ rfl (dec0_back ..)
theorem licst (d : SReg) (sw : Bool) : Statement (.licst d sw) := fun h _ => decode_encode _ _ rfl (decD_back (h := h) ..)
theorem twsig (n : Fin 4) (sw : Bool) : Statement (.twsig n sw) := fun _ _ => decode_encode _ _ rfl (decb2_back ..)
theorem twwait (d : SReg) (n : Fin 4) (sw : Bool) : Statement (.twwait d n sw) := fun h _ => decode_encode _ _ rfl (decDb2_back (h := h) ..)
theorem rank (d : SReg) (a : SReg) (b : Src) (sw : Bool) : Statement (.rank d a b sw) := fun h _ => decode_encode _ _ rfl (decDAB_back (h := h) ..)
theorem rsend (c : Cls) (a : SReg) (b : Src) (sw : Bool) : Statement (.rsend c a b sw) := fun _ _ => decode_encode _ _ rfl (decCAB_back ..)
theorem rwacc (d : SReg) (a : SReg) (b : Src) (sw : Bool) : Statement (.rwacc d a b sw) := fun _ _ => decode_encode _ _ rfl (decSAB_back ..)
theorem rval (d : SReg) (a : SReg) (b : Src) (sw : Bool) : Statement (.rval d a b sw) := fun _ _ => decode_encode _ _ rfl (decSAB_back ..)
theorem rtld (a : SReg) (n : Fin 4) (sw : Bool) : Statement (.rtld a n sw) := fun _ _ => decode_encode _ _ rfl (decAb2_back ..)
theorem rcnt (d : SReg) (n : Fin 4) (sw : Bool) : Statement (.rcnt d n sw) := fun h _ => decode_encode _ _ rfl (decDb2_back (h := h) ..)
theorem rclr (n : Fin 4) (sw : Bool) : Statement (.rclr n sw) := fun _ _ => decode_encode _ _ rfl (decb2_back ..)
theorem tnew (d : SReg) (a : SReg) (b : Src) (sw : Bool) : Statement (.tnew d a b sw) := fun h _ => decode_encode _ _ rfl (decDAB_back (h := h) ..)
theorem tapp (d : SReg) (a : SReg) (b : Src) (sw : Bool) : Statement (.tapp d a b sw) := fun h _ => decode_encode _ _ rfl (decDAB_back (h := h) ..)
theorem twalk (d : SReg) (a : SReg) (b : Src) (sw : Bool) : Statement (.twalk d a b sw) := fun h _ => decode_encode _ _ rfl (decDAB_back (h := h) ..)
theorem topen (a : SReg) (b : Src) (sw : Bool) : Statement (.topen a b sw) := fun _ _ => decode_encode _ _ rfl (decAB_back ..)
theorem tsum (d : SReg) (a : SReg) (b : Src) (sw : Bool) : Statement (.tsum d a b sw) := fun _ _ => decode_encode _ _ rfl (decSAB_back ..)
theorem tstat (d : SReg) (a : SReg) (sel : Fin 4) (sw : Bool) : Statement (.tstat d a sel sw) := fun h _ => decode_encode _ _ rfl (decDA4_back (h := h) ..)
theorem tdrop (d : SReg) (a : SReg) (sw : Bool) : Statement (.tdrop d a sw) := fun h _ => decode_encode _ _ rfl (decDA_back (h := h) ..)
theorem put (m : PostIx) (a : SReg) (b : Src) (sw : Bool) : Statement (.put m a b sw) := fun _ _ => decode_encode _ _ rfl (decPUT_back ..)
theorem take (d : SReg) (m : PostIx) (sw : Bool) : Statement (.take d m sw) := fun h _ => decode_encode _ _ rfl (decDm_back (h := h) ..)
theorem peek (d : SReg) (m : PostIx) (sw : Bool) : Statement (.peek d m sw) := fun h _ => decode_encode _ _ rfl (decDm_back (h := h) ..)
theorem takef (d : SReg) (m : PostIx) (sw : Bool) : Statement (.takef d m sw) := fun h _ => decode_encode _ _ rfl (decDm_back (h := h) ..)
theorem pres (d : SReg) (m : PostIx) (sw : Bool) : Statement (.pres d m sw) := fun h _ => decode_encode _ _ rfl (decDm_back (h := h) ..)
theorem send (c : Cls) (a : SReg) (n : Fin 8) (sw : Bool) : Statement (.send c a n sw) := fun _ _ => decode_encode _ _ rfl (decSEND_back ..)
theorem maskc (c : Cls) (sw : Bool) : Statement (.maskc c sw) := fun _ _ => decode_encode _ _ rfl (decC_back ..)
theorem unmaskc (c : Cls) (sw : Bool) : Statement (.unmaskc c sw) := fun _ _ => decode_encode _ _ rfl (decC_back ..)
theorem done (sw : Bool) : Statement (.done sw) := fun _ _ => decode_encode _ _ rfl (dec0_back ..)
theorem clsr (d : SReg) (c : Cls) (sw : Bool) : Statement (.clsr d c sw) := fun h _ => decode_encode _ _ rfl (decDc_back (h := h) ..)
theorem spawn (d : SReg) (a : SReg) (sw : Bool) : Statement (.spawn d a sw) := fun _ _ => decode_encode _ _ rfl (decSA_back ..)
theorem join (a : SReg) (sw : Bool) : Statement (.join a sw) := fun _ _ => decode_encode _ _ rfl (decA_back ..)
theorem exit (sw : Bool) : Statement (.exit sw) := fun _ _ => decode_encode _ _ rfl (dec0_back ..)
theorem go (a : SReg) (sw : Bool) : Statement (.go a sw) := fun _ _ => decode_encode _ _ rfl (decA_back ..)
theorem steald (sc : Scope) (sw : Bool) : Statement (.steald sc sw) := fun h _ => decode_encode _ _ rfl (decScope_back (h := h) ..)
theorem launch (d : SReg) (a : SReg) (b : Src) (t : BitVec 32) (sw : Bool) : Statement (.launch d a b t sw) := fun h _ => by
  have h := (Bool.and_eq_true _ _).mp h
  exact decode_encode _ _ rfl (decLAUNCH_back (h := h.1) (hn := h.2) ..)
theorem trap (b : Src) (sw : Bool) : Statement (.trap b sw) := fun _ _ => decode_encode _ _ rfl (decB_back ..)
theorem eret (sw : Bool) : Statement (.eret sw) := fun _ _ => decode_encode _ _ rfl (dec0_back ..)
theorem csrr (d : SReg) (n : Fin 30) (sw : Bool) : Statement (.csrr d n sw) := fun h _ => decode_encode _ _ rfl (decCSRR_back (h := h) ..)
theorem csrw (n : Fin 30) (b : Src) (sw : Bool) : Statement (.csrw n b sw) := fun h _ => decode_encode _ _ rfl (decCSRW_back (h := h) ..)
theorem csrs (n : Fin 30) (b : Src) (sw : Bool) : Statement (.csrs n b sw) := fun h _ => decode_encode _ _ rfl (decCSRW_back (h := h) ..)
theorem csrc (n : Fin 30) (b : Src) (sw : Bool) : Statement (.csrc n b sw) := fun h _ => decode_encode _ _ rfl (decCSRW_back (h := h) ..)
theorem bkpt (sw : Bool) : Statement (.bkpt sw) := fun _ _ => decode_encode _ _ rfl (dec0_back ..)
theorem chkpt (sw : Bool) : Statement (.chkpt sw) := fun _ _ => decode_encode _ _ rfl (dec0_back ..)
theorem spill (sw : Bool) : Statement (.spill sw) := fun _ _ => decode_encode _ _ rfl (dec0_back ..)
theorem fill (sw : Bool) : Statement (.fill sw) := fun _ _ => decode_encode _ _ rfl (dec0_back ..)
theorem htcinv (a : SReg) (sw : Bool) : Statement (.htcinv a sw) := fun _ _ => decode_encode _ _ rfl (decA_back ..)
theorem rdcyc (d : SReg) (sw : Bool) : Statement (.rdcyc d sw) := fun h _ => decode_encode _ _ rfl (decD_back (h := h) ..)
theorem ctxsv (a : SReg) (dir : Bool) (sw : Bool) : Statement (.ctxsv a dir sw) := fun _ _ => decode_encode _ _ rfl (decCTXSV_back ..)
theorem windowMove (c : Nat) (k : Fin 5) : Statement (.windowMove c k) := fun _ h => nomatch h
theorem copyCompletion (c : Nat) (i : Fin 8) : Statement (.copyCompletion c i) := fun _ h => nomatch h
theorem copyFault (c : Nat) (i : Fin 8) : Statement (.copyFault c i) := fun _ h => nomatch h
theorem atomicExecute (f : Nat) : Statement (.atomicExecute f) := fun _ h => nomatch h
theorem fshipExecute (f : Nat) : Statement (.fshipExecute f) := fun _ h => nomatch h
theorem nearBankCompletion (c : Nat) (k : Fin 5) : Statement (.nearBankCompletion c k) := fun _ h => nomatch h
theorem releaseComplete (c : Nat) (k : Fin 5) : Statement (.releaseComplete c k) := fun _ h => nomatch h
theorem sliceAck (f : Nat) : Statement (.sliceAck f) := fun _ h => nomatch h
theorem barrierArrivalPerformed (f : Nat) : Statement (.barrierArrivalPerformed f) := fun _ h => nomatch h
theorem barwaitPoll (c : Nat) (k : Fin 5) : Statement (.barwaitPoll c k) := fun _ h => nomatch h
theorem waittExpiry (c : Nat) (k : Fin 5) : Statement (.waittExpiry c k) := fun _ h => nomatch h
theorem sleepExpiry (c : Nat) (k : Fin 5) : Statement (.sleepExpiry c k) := fun _ h => nomatch h
theorem monitorPoll (c : Nat) (i : Fin 8) : Statement (.monitorPoll c i) := fun _ h => nomatch h
theorem joinPoll (c : Nat) (k : Fin 5) : Statement (.joinPoll c k) := fun _ h => nomatch h
theorem blockScaleCompletion (c : Nat) (k : Fin 5) : Statement (.blockScaleCompletion c k) := fun _ h => nomatch h
theorem operandReadReturn (t : Nat) (h : Nat) (col : Nat) : Statement (.operandReadReturn t h col) := fun _ h => nomatch h
theorem stepBoundary (t : Nat) : Statement (.stepBoundary t) := fun _ h => nomatch h
theorem hireCompletion (t : Nat) (h : Nat) : Statement (.hireCompletion t h) := fun _ h => nomatch h
theorem waitbReturn (c : Nat) (k : Fin 5) : Statement (.waitbReturn c k) := fun _ h => nomatch h
theorem heatRefill : Statement (.heatRefill) := fun _ h => nomatch h
theorem capHot (b : Nat) : Statement (.capHot b) := fun _ h => nomatch h
theorem caphotClear (b : Nat) : Statement (.caphotClear b) := fun _ h => nomatch h
theorem licenceHoldExpiry (b : Nat) : Statement (.licenceHoldExpiry b) := fun _ h => nomatch h
theorem licenceGrant (b : Nat) : Statement (.licenceGrant b) := fun _ h => nomatch h
theorem rankNetworkGrant (t : Nat) : Statement (.rankNetworkGrant t) := fun _ h => nomatch h
theorem rankArrival (f : Nat) : Statement (.rankArrival f) := fun _ h => nomatch h
theorem rwaccPop (c : Nat) (k : Fin 5) : Statement (.rwaccPop c k) := fun _ h => nomatch h
theorem walkerStart (g : Nat) : Statement (.walkerStart g) := fun _ h => nomatch h
theorem walkerCompletion (g : Nat) : Statement (.walkerCompletion g) := fun _ h => nomatch h
theorem putArrival (f : Nat) : Statement (.putArrival f) := fun _ h => nomatch h
theorem messageArrival (f : Nat) : Statement (.messageArrival f) := fun _ h => nomatch h
theorem handlerEntry (c : Nat) : Statement (.handlerEntry c) := fun _ h => nomatch h
theorem handlong (c : Nat) : Statement (.handlong c) := fun _ h => nomatch h
theorem handlerEnd (c : Nat) : Statement (.handlerEnd c) := fun _ h => nomatch h
theorem strandEnd (c : Nat) (k : Fin 5) : Statement (.strandEnd c k) := fun _ h => nomatch h
theorem goDepart (c : Nat) (k : Fin 5) : Statement (.goDepart c k) := fun _ h => nomatch h
theorem goArrival (f : Nat) : Statement (.goArrival f) := fun _ h => nomatch h
theorem goAcceptNotice (f : Nat) : Statement (.goAcceptNotice f) := fun _ h => nomatch h
theorem goBounceReturn (f : Nat) : Statement (.goBounceReturn f) := fun _ h => nomatch h
theorem goResendTimeout (c : Nat) (k : Fin 5) : Statement (.goResendTimeout c k) := fun _ h => nomatch h
theorem arrivalTakesSlot (c : Nat) (k : Fin 5) : Statement (.arrivalTakesSlot c k) := fun _ h => nomatch h
theorem dequePop (c : Nat) (k : Fin 5) (stk : Nat) (spl : Nat) : Statement (.dequePop c k stk spl) := fun _ h => nomatch h
theorem stealRequest (c : Nat) (k : Fin 5) : Statement (.stealRequest c k) := fun _ h => nomatch h
theorem stealRecordArrival (f : Nat) (stk : Nat) (spl : Nat) : Statement (.stealRecordArrival f stk spl) := fun _ h => nomatch h
theorem deviceGridEntry (n : Nat) (grid : BitVec 16) : Statement (.deviceGridEntry n grid) := fun _ h => nomatch h
theorem lateTrapEntry (c : Nat) (k : Fin 5) : Statement (.lateTrapEntry c k) := fun _ h => nomatch h
theorem loadDataReturn (f : Nat) : Statement (.loadDataReturn f) := fun _ h => nomatch h
theorem bankAccess (r : Requester) : Statement (.bankAccess r) := fun _ h => nomatch h
theorem correctedRewrite (n : Nat) : Statement (.correctedRewrite n) := fun _ h => nomatch h
theorem packetHop (f : Nat) : Statement (.packetHop f) := fun _ h => nomatch h
theorem translationWalkComplete (n : Nat) : Statement (.translationWalkComplete n) := fun _ h => nomatch h
theorem codeCacheFill (n : Nat) : Statement (.codeCacheFill n) := fun _ h => nomatch h
theorem pagerResolution (n : Nat) (ok : Bool) (unit : BitVec 4) (frame : BitVec 36) : Statement (.pagerResolution n ok unit frame) := fun _ h => nomatch h
theorem pageMove (h : Nat) (p : Nat) : Statement (.pageMove h p) := fun _ h => nomatch h
theorem pageMoveCommit (h : Nat) (p : Nat) (layer : BitVec 2) (unit : BitVec 4) (frame : BitVec 36) : Statement (.pageMoveCommit h p layer unit frame) := fun _ h => nomatch h
theorem pageEvict (h : Nat) (p : Nat) (fill : Nat) : Statement (.pageEvict h p fill) := fun _ h => nomatch h
theorem pageClearComplete (h : Nat) (p : Nat) : Statement (.pageClearComplete h p) := fun _ h => nomatch h
theorem handleEntryCommit (h : Nat) (d0 : Word) (d1 : Word) (d2 : Word) (d3 : Word) : Statement (.handleEntryCommit h d0 d1 d2 d3) := fun _ h => nomatch h
theorem replicaForward (n : Nat) : Statement (.replicaForward n) := fun _ h => nomatch h
theorem clrouteWrite (adapt : BitVec 8) (closed : BitVec 8) : Statement (.clrouteWrite adapt closed) := fun _ h => nomatch h
theorem slotBind (g : Nat) (i : Nat) (rec : BitVec 8) : Statement (.slotBind g i rec) := fun _ h => nomatch h
theorem bindTeam (pt : Nat) (g : Nat) (die : Bool) (x0 : BitVec 4) (y0 : BitVec 4) (rec : BitVec 8) (hbase : BitVec 24) : Statement (.bindTeam pt g die x0 y0 rec hbase) := fun _ h => nomatch h
theorem quantumBoundary (pt : Nat) (g : Nat) (rec : BitVec 8) : Statement (.quantumBoundary pt g rec) := fun _ h => nomatch h
theorem idleTeamSwap (g : Nat) (rec : BitVec 8) : Statement (.idleTeamSwap g rec) := fun _ h => nomatch h
theorem bindingStallReport (pt : Nat) : Statement (.bindingStallReport pt) := fun _ h => nomatch h
theorem teamSaveRequest (g : Nat) (rec : BitVec 8) : Statement (.teamSaveRequest g rec) := fun _ h => nomatch h
theorem saveDrained (g : Nat) (rec : BitVec 8) : Statement (.saveDrained g rec) := fun _ h => nomatch h
theorem saveCommit (g : Nat) (rec : BitVec 8) : Statement (.saveCommit g rec) := fun _ h => nomatch h
theorem teamRestore (g : Nat) (rec : BitVec 8) : Statement (.teamRestore g rec) := fun _ h => nomatch h
theorem tailPoll (n : Nat) : Statement (.tailPoll n) := fun _ h => nomatch h
theorem nopCommand (n : Nat) : Statement (.nopCommand n) := fun _ h => nomatch h
theorem launchCommand (n : Nat) (grid : BitVec 16) : Statement (.launchCommand n grid) := fun _ h => nomatch h
theorem copyCommand (n : Nat) : Statement (.copyCommand n) := fun _ h => nomatch h
theorem hintCommand (n : Nat) : Statement (.hintCommand n) := fun _ h => nomatch h
theorem fenceCommand (n : Nat) : Statement (.fenceCommand n) := fun _ h => nomatch h
theorem jumpCommand (n : Nat) : Statement (.jumpCommand n) := fun _ h => nomatch h
theorem commandCompletion (n : Nat) (i : Nat) : Statement (.commandCompletion n i) := fun _ h => nomatch h
theorem registerStream (fn : Fin 17) (core : Fin 16) : Statement (.registerStream fn core) := fun _ h => nomatch h
theorem unregisterStream (fn : Fin 17) : Statement (.unregisterStream fn) := fun _ h => nomatch h
theorem setWindow (fn : Fin 17) : Statement (.setWindow fn) := fun _ h => nomatch h
theorem setQuantum (fn : Fin 17) : Statement (.setQuantum fn) := fun _ h => nomatch h
theorem attest (fn : Fin 17) : Statement (.attest fn) := fun _ h => nomatch h
theorem loadMuslinRoutine (fn : Fin 17) : Statement (.loadMuslinRoutine fn) := fun _ h => nomatch h
theorem endGrid (fn : Fin 17) : Statement (.endGrid fn) := fun _ h => nomatch h
theorem resetPartition (fn : Fin 17) : Statement (.resetPartition fn) := fun _ h => nomatch h
theorem createHandle (fn : Fin 17) (h : BitVec 24) (pmap : Word) : Statement (.createHandle fn h pmap) := fun _ h => nomatch h
theorem freeHandle (fn : Fin 17) : Statement (.freeHandle fn) := fun _ h => nomatch h
theorem setFillList (fn : Fin 17) (dst : Nat) : Statement (.setFillList fn dst) := fun _ h => nomatch h
theorem registerGridImage (fn : Fin 17) : Statement (.registerGridImage fn) := fun _ h => nomatch h
theorem retireGridImage (fn : Fin 17) : Statement (.retireGridImage fn) := fun _ h => nomatch h
theorem readCounter (fn : Fin 17) : Statement (.readCounter fn) := fun _ h => nomatch h
theorem powerState (fn : Fin 17) : Statement (.powerState fn) := fun _ h => nomatch h
theorem powerStateEffect : Statement (.powerStateEffect) := fun _ h => nomatch h
theorem setPartition (fn : Fin 17) : Statement (.setPartition fn) := fun _ h => nomatch h
theorem restart (fn : Fin 17) : Statement (.restart fn) := fun _ h => nomatch h
theorem functionLevelReset (fn : Fin 17) : Statement (.functionLevelReset fn) := fun _ h => nomatch h
theorem partReset : Statement (.partReset) := fun _ h => nomatch h
theorem start (ok : Bool) (reason : BitVec 16) : Statement (.start ok reason) := fun _ h => nomatch h
theorem linkTraining (port : Fin 16) (ok : Bool) : Statement (.linkTraining port ok) := fun _ h => nomatch h
theorem jorlinkFlit (port : Fin 16) : Statement (.jorlinkFlit port) := fun _ h => nomatch h
theorem peerVersionRefusal (f : Nat) : Statement (.peerVersionRefusal f) := fun _ h => nomatch h
theorem portRetire (port : Fin 16) : Statement (.portRetire port) := fun _ h => nomatch h
theorem reductionComplete (n : Nat) : Statement (.reductionComplete n) := fun _ h => nomatch h
theorem reductionFail (n : Nat) : Statement (.reductionFail n) := fun _ h => nomatch h
theorem goResendRequestArrival (f : Nat) : Statement (.goResendRequestArrival f) := fun _ h => nomatch h
theorem unknownRequestCode (fn : Fin 17) : Statement (.unknownRequestCode fn) := fun _ h => nomatch h
theorem unknownCommandOp (n : Nat) : Statement (.unknownCommandOp n) := fun _ h => nomatch h

end Sys2Proof.Laws.RoundTrip
end

