-- ==== Sys2Proof/Safety.lean ====
section
/-! DEFINITION. What the statements call a sound state: memory in its one canonical form. Every fault of the Penjor is a
trap, so a run is safe when no step of it stops. -/

namespace Sys2Proof.Machine

open Sys2Proof

/-- Memory is in canonical form: equal memories are equal data. -/
def State.memOk (s : State) : Prop := Memory.wf s.mem = true

/-- k steps from a state all go on. -/
def State.runs (s : State) : Nat → Prop
  | 0 => True
  | k + 1 => ∃ t, step s = .next t ∧ t.runs k

end Sys2Proof.Machine
end

