-- ==== Sys2Proof/Certificates/Slice0/Obligations.lean ====
section
/-! DEFINITION. The statements for the provers, and the few notions that they are written in. -/

namespace Sys2Proof.Claims

open Sys2Proof Sys2Proof.Machine

/-! ### How the issuing instruction ends -/

/-- exec goes on from s by instruction i, to a state that meets P. -/
def Goes (i : Instr) (s : State) (P : State → Prop) : Prop := ∃ t, exec i s = .next t ∧ P t

/-- The names that no write changes (06 R109). -/
def Fixed (r : SReg) : Prop := r = .zr ∨ r = .ci ∨ r = .si

/-- The twin in the upper die has written the y register in this cycle, so a write of it by slot i does not stand (06 R110). -/
def Overruled (s : State) (i : SlotId) (d : SReg) : Prop :=
  s.twinPresent i.cell = true ∧ dieOf i.cell = 0 ∧ ∃ n w, d = .y n ∧ (s.pair (pairOf i.cell)).yw[n] = some w
    ∧ w.cycle = s.cycle.toNat ∧ w.upper = true

/-- Register d of slot i holds v after a write of it in s; a write that does not stand, and one to a name that no write changes,
leave it as it read. -/
def HoldsAt (s t : State) (i : SlotId) (d : SReg) (v : Word) : Prop :=
  (¬ Fixed d → ¬ Overruled s i d → t.readReg i d = v)
  ∧ (Fixed d ∨ Overruled s i d → t.readReg i d = s.readReg i d)

/-- Register d of the issuing strand holds v, or discards it. -/
def Holds (s t : State) (d : SReg) (v : Word) : Prop := HoldsAt s t s.cur d v

/-- The issuing instruction of so many words has ended: the pc is past it, INSTRET has counted it outside the supervisor
(06 R121), SSTEP falls due when it was set (17 R315), and a switch marker with a result outstanding parks the strand
(02 R34). -/
def Ended (s t : State) (words : Nat) (sw : Bool) : Prop :=
  (t.strand s.cur).pc = s.me.pc + BitVec.ofNat 64 (4 * words)
  ∧ (t.strand s.cur).instret = (if s.me.sup then s.me.instret else s.me.instret + 1#64)
  ∧ (t.strand s.cur).stepDue = (s.me.sstep && !s.me.sup)
  ∧ (t.strand s.cur).status = (if sw && t.owes s.me.uid then .parked .results else .ready)

/-- The issuing instruction has gone to an address instead: all of Ended but the pc. The next one issues 2 cycles later (09 R177). -/
def Jumped (s t : State) (target : Word) (sw : Bool) : Prop :=
  (t.strand s.cur).pc = target ∧ (t.strand s.cur).hold = s.cycle.toNat + 2
  ∧ (t.strand s.cur).instret = (if s.me.sup then s.me.instret else s.me.instret + 1#64)
  ∧ (t.strand s.cur).stepDue = (s.me.sstep && !s.me.sup)
  ∧ (t.strand s.cur).status = (if sw && t.owes s.me.uid then .parked .results else .ready)

/-! ### What stays as it was -/

/-- A strand but for its pc and what the end, the wait or the transfer of an instruction writes. -/
def settled (t : Strand) : Strand :=
  { t with pc := 0#64, hold := 0, words := 0, marker := false, instret := 0#64, stepDue := false, status := .ready }

/-- Every byte of every memory reads as before. -/
def MemorySame (s t : State) : Prop := ∀ a, Memory.get t.mem a = Memory.get s.mem a

/-- Every strand of every slot but i is as it was. -/
def OthersSame (s t : State) (i : SlotId) : Prop := ∀ j, j ≠ i → t.strand j = s.strand j

/-- Every register of the issuing strand but those listed reads as before. -/
def RegsSame (s t : State) (ds : List SReg) : Prop := ∀ r, r ∉ ds → t.readReg s.cur r = s.readReg s.cur r

/-- The registers y0-y3 of every cell, but for those that a write of d by the issuing strand reaches (06 R110). -/
def TwinSame (s t : State) (d : SReg) : Prop :=
  ∀ c n, d ≠ .y n ∨ pairOf c ≠ pairOf s.cur.cell → t.yreg c n = s.yreg c n

/-- Of every cell, all but its strands and y0-y3; of every twin pair, all but y0-y3 and the note of their writes; and the rest of the module, but for
requests added at the end of what is under way. -/
def RestSame (s t : State) : Prop :=
  (∀ c, { t.cell c with strands := (s.cell c).strands, y := (s.cell c).y } = s.cell c)
  ∧ (∀ p, { t.pair p with y := (s.pair p).y, yw := (s.pair p).yw } = s.pair p)
  ∧ ∃ more, t = { s with cells := t.cells, pairs := t.pairs, net := s.net ++ more }

/-- What an instruction that writes one scalar register leaves: every other register of its strand, both banks included,
every special register of the strand, every other strand, every cell's queues and tables, and every byte of memory. -/
def OnlyReg (s t : State) (d : SReg) : Prop :=
  (∃ v, settled (t.strand s.cur) = settled (s.me.setWin s.me.sup d v))
  ∧ RegsSame s t [d] ∧ TwinSame s t d ∧ OthersSame s t s.cur ∧ RestSame s t ∧ MemorySame s t

/-! ### Scalar members -/

/-- A member that writes one scalar register: the instruction, the registers it reads, the register it writes, what the
value must be, its words and switch marker. -/
structure Row where
  ins : Instr
  reads : List SReg
  d : SReg
  ok : Word → Prop
  words : Nat
  sw : Bool

/-- The 32-bit form of an operation: bits [31:0] in, the result sign-extended (09 R169). -/
def low32 (f : BitVec 32 → BitVec 32 → BitVec 32) (x y : Word) : Word := (f (x.setWidth 32) (y.setWidth 32)).signExtend 64

/-- 1 when p holds, else 0. -/
def truth (p : Prop) [Decidable p] : Word := if p then 1#64 else 0#64

def divOf {n : Nat} (x y : BitVec n) : BitVec n :=
  if y = 0#n then BitVec.allOnes n else BitVec.ofInt n (x.toInt.tdiv y.toInt)
def remOf {n : Nat} (x y : BitVec n) : BitVec n :=
  if y = 0#n then x else BitVec.ofInt n (x.toInt - y.toInt * x.toInt.tdiv y.toInt)
def divuOf {n : Nat} (x y : BitVec n) : BitVec n :=
  if y = 0#n then BitVec.allOnes n else BitVec.ofNat n (x.toNat / y.toNat)
def remuOf {n : Nat} (x y : BitVec n) : BitVec n := if y = 0#n then x else BitVec.ofNat n (x.toNat % y.toNat)

/-- ADD to SEL (09 R169, codes 0 to 28): x and y are the operands, old is D at issue. -/
def intRows (s : State) (w : Bool) (d a : SReg) (b : Src) (sw : Bool) : List Row :=
  let x := s.reg a
  let y := s.src b
  let c := y.toNat % (if w then 32 else 64)
  let row (i : Instr) (v : Word) : Row := ⟨i, a :: b.regs, d, (· = v), b.words, sw⟩
  let roww (i : Instr) (f : (n : Nat) → BitVec n → BitVec n → BitVec n) : Row :=
    row i (if w then low32 (f 32) x y else f 64 x y)
  [ roww (.add w d a b sw) (fun _ x y => x + y),
    roww (.sub w d a b sw) (fun _ x y => x - y),
    roww (.mul w d a b sw) (fun n x y => BitVec.ofNat n (x.toNat * y.toNat)),
    row (.mulh d a b sw) (BitVec.ofInt 64 (x.toInt * y.toInt / 2 ^ 64)),
    row (.mulhn d a b sw) (BitVec.ofNat 64 (x.toNat * y.toNat / 2 ^ 64)),
    roww (.div w d a b sw) (fun _ => divOf),
    roww (.divu w d a b sw) (fun _ => divuOf),
    roww (.rem w d a b sw) (fun _ => remOf),
    roww (.remu w d a b sw) (fun _ => remuOf),
    row (.and d a b sw) (x &&& y),
    row (.or d a b sw) (x ||| y),
    row (.xor d a b sw) (x ^^^ y),
    row (.andn d a b sw) (x &&& ~~~y),
    row (.orn d a b sw) (x ||| ~~~y),
    roww (.shl w d a b sw) (fun n x _ => BitVec.ofNat n (x.toNat * 2 ^ c)),
    roww (.shr w d a b sw) (fun n x _ => BitVec.ofNat n (x.toNat / 2 ^ c)),
    roww (.sar w d a b sw) (fun n x _ => BitVec.ofInt n (x.toInt / 2 ^ c)),
    roww (.rol w d a b sw) (fun _ x _ => x.rotateLeft c),
    row (.min d a b sw) (if x.toInt ≤ y.toInt then x else y),
    row (.max d a b sw) (if x.toInt ≤ y.toInt then y else x),
    row (.minu d a b sw) (if x.toNat ≤ y.toNat then x else y),
    row (.maxu d a b sw) (if x.toNat ≤ y.toNat then y else x),
    row (.seq d a b sw) (truth (x = y)),
    row (.sne d a b sw) (truth (x ≠ y)),
    row (.slt d a b sw) (truth (x.toInt < y.toInt)),
    row (.sltu d a b sw) (truth (x.toNat < y.toNat)),
    row (.sle d a b sw) (truth (x.toInt ≤ y.toInt)),
    row (.sleu d a b sw) (truth (x.toNat ≤ y.toNat)),
    ⟨.sel d a b sw, d :: a :: b.regs, d, (· = if s.reg d ≠ 0#64 then x else y), b.words, sw⟩ ]

/-- CLZ to MOV (09 R169, codes 29 to 40). -/
def unaryRows (s : State) (d a : SReg) (sw : Bool) : List Row :=
  let x := s.reg a
  let row (i : Instr) (ok : Word → Prop) : Row := ⟨i, [a], d, ok, 1, sw⟩
  [ row (.clz d a sw) (fun v => v.toNat ≤ 64 ∧ x.toNat < 2 ^ (64 - v.toNat) ∧ (v.toNat < 64 → 2 ^ (63 - v.toNat) ≤ x.toNat)),
    row (.ctz d a sw) (fun v => v.toNat ≤ 64 ∧ x.toNat % 2 ^ v.toNat = 0 ∧ (v.toNat < 64 → x.getLsbD v.toNat = true)),
    row (.popc d a sw) (fun v => v.toNat = ((List.range 64).filter (fun j => x.getLsbD j)).length),
    row (.brev d a sw) (fun v => ∀ j, j < 64 → v.getLsbD j = x.getLsbD (63 - j)),
    row (.bswap d a sw) (fun v => ∀ j, j < 8 → v.extractLsb' (8 * j) 8 = x.extractLsb' (8 * (7 - j)) 8),
    row (.sexb d a sw) (· = (x.extractLsb' 0 8).signExtend 64),
    row (.sexh d a sw) (· = (x.extractLsb' 0 16).signExtend 64),
    row (.sexw d a sw) (· = (x.extractLsb' 0 32).signExtend 64),
    row (.zexb d a sw) (· = BitVec.ofNat 64 (x.toNat % 2 ^ 8)),
    row (.zexh d a sw) (· = BitVec.ofNat 64 (x.toNat % 2 ^ 16)),
    row (.zexw d a sw) (· = BitVec.ofNat 64 (x.toNat % 2 ^ 32)),
    row (.mov d a sw) (· = x) ]

/-- ADDI to LI (09 R170): y is the sign-extended immediate or the literal, n the count of a shift. -/
def immRows (s : State) (d a : SReg) (im : Imm) (n : BitVec 6) (sw : Bool) : List Row :=
  let x := s.reg a
  let y : Word := match im with | .imm v => v.signExtend 64 | .lit v => v
  let words := match im with | .imm _ => 1 | .lit _ => 3
  let row (i : Instr) (v : Word) : Row := ⟨i, [a], d, (· = v), words, sw⟩
  let sh (i : Instr) (v : Word) : Row := ⟨i, [a], d, (· = v), 1, sw⟩
  [ row (.addi d a im sw) (x + y),
    row (.andi d a im sw) (x &&& y),
    row (.ori d a im sw) (x ||| y),
    row (.xori d a im sw) (x ^^^ y),
    sh (.shli d a n sw) (BitVec.ofNat 64 (x.toNat * 2 ^ n.toNat)),
    sh (.shri d a n sw) (BitVec.ofNat 64 (x.toNat / 2 ^ n.toNat)),
    sh (.sari d a n sw) (BitVec.ofInt 64 (x.toInt / 2 ^ n.toNat)),
    row (.slti d a im sw) (truth (x.toInt < y.toInt)),
    row (.sltiu d a im sw) (truth (x.toNat < y.toNat)),
    row (.muli d a im sw) (x * y),
    ⟨.li d im sw, [], d, (· = y), words, sw⟩ ]

/-- BFX and BFI (09 R171): field [p + wm1 : p], with p + wm1 + 1 at most 64. -/
def fieldRows (s : State) (d a : SReg) (p wm1 : BitVec 6) (sw : Bool) : List Row :=
  let x := s.reg a
  let inField (j : Nat) : Prop := p.toNat ≤ j ∧ j ≤ p.toNat + wm1.toNat
  [ ⟨.bfx d a p wm1 sw, [a], d, (· = BitVec.ofNat 64 (x.toNat / 2 ^ p.toNat % 2 ^ (wm1.toNat + 1))), 1, sw⟩,
    ⟨.bfi d a p wm1 sw, [d, a], d, (fun v => ∀ j, j < 64 →
      (inField j → v.getLsbD j = x.getLsbD (j - p.toNat)) ∧ (¬ inField j → v.getLsbD j = (s.reg d).getLsbD j)), 1, sw⟩ ]

/-- The LEA group (09 R172). -/
def leaRows (s : State) (d a : SReg) (b : Src) (sw : Bool) : List Row :=
  let x := s.reg a
  let y := s.src b
  let ci := s.readReg s.cur .ci
  let cls := x.toNat / 2 ^ 60
  let row (i : Instr) (v : Word) : Row := ⟨i, a :: b.regs, d, (· = v), b.words, sw⟩
  let one (i : Instr) (v : Word) : Row := ⟨i, [a], d, (· = v), 1, sw⟩
  let f (v lo n : Nat) : Nat := v / 2 ^ lo % 2 ^ n
  [ row (.lea0 d a b sw) (x + y),
    row (.lea1 d a b sw) (x + y * 2#64),
    row (.lea2 d a b sw) (x + y * 4#64),
    row (.lea3 d a b sw) (x + y * 8#64),
    row (.mkca d a b sw) (BitVec.ofNat 64
      (2 ^ 60 + f x.toNat 16 4 * 2 ^ 56 + f x.toNat 0 16 * 2 ^ 40 + f y.toNat 0 16)),
    row (.mkha d a b sw) (BitVec.ofNat 64 (2 * 2 ^ 60 + f x.toNat 0 24 * 2 ^ 36 + f y.toNat 0 36)),
    one (.acls d a sw) (BitVec.ofNat 64 cls),
    one (.acol d a sw) (if cls = 0 then BitVec.ofNat 64 (f ci.toNat 16 4)
      else if cls = 1 then BitVec.ofNat 64 (f x.toNat 56 4) else BitVec.allOnes 64),
    one (.acell d a sw) (if cls = 0 then BitVec.ofNat 64 (f ci.toNat 0 20)
      else if cls = 1 then BitVec.ofNat 64 (f x.toNat 56 4 * 2 ^ 16 + f x.toNat 40 16) else BitVec.allOnes 64),
    one (.twinof d a sw) (if cls = 1 then x ^^^ BitVec.ofNat 64 (2 ^ 55) else x ^^^ BitVec.ofNat 64 (2 ^ 15)) ]

/-- Every scalar member. -/
def scalarRows (s : State) (w : Bool) (d a : SReg) (b : Src) (im : Imm) (n p wm1 : BitVec 6) (sw : Bool) : List Row :=
  intRows s w d a b sw ++ unaryRows s d a sw ++ immRows s d a im n sw ++ fieldRows s d a p wm1 sw ++ leaRows s d a b sw

/-- The operands are there: neither D nor a source is pending, and no source is a y register of an absent twin. -/
def Clear (s : State) (r : Row) : Prop :=
  s.me.anyPending (r.d :: r.reads) = false ∧ r.reads.any (awayY s) = false

/-- The member writes its value and ends. -/
def Written (s : State) (r : Row) : Prop :=
  Goes r.ins s (fun t => ∃ v, r.ok v ∧ Holds s t r.d v ∧ Ended s t r.words r.sw)

/-! ### Transfers -/

/-- The four conditional branches (09 R174): the instruction, and whether it is taken on the value of A. -/
def branchRows (a : SReg) (disp : BitVec 17) (sw : Bool) (x : Word) : List (Instr × Prop) :=
  [ (.bz a disp sw, x = 0#64), (.bnz a disp sw, x ≠ 0#64), (.bltz a disp sw, x.toInt < 0), (.bgez a disp sw, 0 ≤ x.toInt) ]

/-- The address of a displacement in words (04 R68). -/
def dispTarget {n : Nat} (s : State) (disp : BitVec n) : Word := BitVec.ofInt 64 (s.me.pc.toNat + 4 * disp.toInt)

/-- The strand has moved into a callee's window at target (09 R178 steps 4 to 6). -/
def Called (s t : State) (i : SlotId) (target : Word) : Prop :=
  let c := s.strand i
  let e := t.strand i
  e.pc = target ∧ e.hold = s.cycle.toNat + 2 ∧ e.status = .ready ∧ e.lower = ⟨c.ra, c.rl⟩ :: c.lower
  ∧ (∀ k : Fin 8, e.ra[k] = if k = 7 then c.pc + 4#64 else c.rn[k])
  ∧ (∀ k : Fin 8, e.rl[k] = 0#64) ∧ (∀ k : Fin 8, e.rn[k] = 0#64)

/-- The strand has moved back into its caller's window, with target from a7 (09 R179 steps 5 and 6). -/
def Returned (s t : State) (i : SlotId) : Prop :=
  let c := s.strand i
  let e := t.strand i
  e.pc = c.ra[7] ∧ e.hold = s.cycle.toNat + 2 ∧ e.status = .ready ∧ e.rn = c.ra
  ∧ ∃ w, c.lower = w :: e.lower ∧ e.ra = w.a ∧ e.rl = w.l

/-- The strand of slot i has taken a precise trap at its instruction (14 R280, 17 R313, R314): the handler issues 4 cycles
later. -/
def Trapped (s t : State) (i : SlotId) (code : Nat) (ev : Word) : Prop :=
  let c := s.strand i
  let e := t.strand i
  e.psup = c.sup ∧ e.psstep = c.sstep ∧ e.sup = true ∧ e.sstep = false ∧ e.epc = c.pc
  ∧ e.ecause = BitVec.ofNat 9 code ∧ e.eval = ev ∧ e.ehseq = 0#18 ∧ e.status = .ready
  ∧ e.pc = BitVec.ofNat 64 (4 * c.tvec.toNat) ∧ e.hold = s.cycle.toNat + 4
  ∧ (c.sup = false → ∀ k : Fin 8, e.sa[k] = 0#64 ∧ e.sl[k] = 0#64 ∧ e.sn[k] = 0#64)
  ∧ e.ra = c.ra ∧ e.rl = c.rl ∧ e.rn = c.rn ∧ e.sp = c.sp ∧ e.v = c.v ∧ e.k = c.k ∧ e.instret = c.instret

/-- Instruction i traps with a cause code and EVAL, and changes nothing outside its own strand. -/
def Traps (i : Instr) (s : State) (code : Nat) (ev : Word) : Prop :=
  Goes i s (fun t => Trapped s t s.cur code ev ∧ OthersSame s t s.cur ∧ MemorySame s t)

/-- Word 0 of an instruction, zero-extended: EVAL of ILL and PRIV (04 R80). -/
def firstWord (i : Instr) : Word := BitVec.ofNat 64 ((encode i).headD 0#32).toNat

/-! ### Accesses -/

/-- A place of memory: the model's own region for replicas (07 R138), above every frame of a cap slice, is none. -/
def IsPlace (l : Loc) : Prop := l.unit < 2 ^ 32 ∧ l.addr < 2 ^ 64 ∧ (l.space = .cap → l.addr < 2 ^ 60)

/-- Every byte of every place reads as before. -/
def PlacesSame (s t : State) : Prop := ∀ l, IsPlace l → Memory.get t.mem l.key = Memory.get s.mem l.key

/-- The issuing strand's request has been added at the end of what is under way. -/
def Sent (s t : State) (op : MemOp) (l : Loc) (n : Nat) (ea : Word) : Prop :=
  ∃ f, t.net = s.net ++ [f] ∧ f.body = .mem op l n ea ∧ f.who = s.cur ∧ f.uid = s.me.uid ∧ f.srcCell = s.cur.cell
    ∧ f.cls = s.me.dcls

/-- An access of the issuing strand: the instruction, the registers it reads, its address and bytes, what it needs of the
page, and what the request does at its memory. -/
structure Access where
  ins : Instr
  reads : List SReg
  ea : Word
  n : Nat
  perm : Perm
  op : MemOp
  words : Nat
  sw : Bool

/-- A base plus an offset in units of the access, or plus a literal (04 R68, R69). -/
def baseOff (x : Word) (off : Imm) (n : Nat) : Word :=
  match off with
  | .imm v => BitVec.ofInt 64 (x.toNat + v.toInt * n)
  | .lit v => x + v

def immWords : Imm → Nat
  | .imm _ => 1
  | .lit _ => 3

/-- The bytes of the low n bytes of a value, the lowest first (00 R5). -/
def lowBytes (n v : Nat) : List Byte := (List.range n).map (fun j => BitVec.ofNat 8 (v / 256 ^ j))

/-- LDB to STD, LDV, STV, LDX and STX (10 R181, R184). -/
def accessRows (s : State) (d a : SReg) (v : VReg) (off : Imm) (b : Src) (sw : Bool) : List Access :=
  let x := s.reg a
  let w := immWords off
  let load (i : Instr) (n : Nat) (e : Ext) : Access :=
    ⟨i, [d, a], baseOff x off n, n, .read, .load (.reg d s.me.sup e) [], w, sw⟩
  let store (i : Instr) (n : Nat) : Access :=
    ⟨i, [d, a], baseOff x off n, n, .write, .store (lowBytes n (s.reg d).toNat), w, sw⟩
  [ load (.ldb d a off sw) 1 .sext, load (.ldbn d a off sw) 1 .zext, load (.ldh d a off sw) 2 .sext,
    load (.ldhn d a off sw) 2 .zext, load (.ldw d a off sw) 4 .sext, load (.ldwn d a off sw) 4 .zext,
    load (.ldd d a off sw) 8 .zext,
    store (.stb d a off sw) 1, store (.sth d a off sw) 2, store (.stw d a off sw) 4, store (.std d a off sw) 8,
    ⟨.ldv v a off sw, [a], baseOff x off 16, 16, .read, .load (.vec v) [], w, sw⟩,
    ⟨.stv v a off sw, [a], baseOff x off 16, 16, .write, .store (lowBytes 16 s.me.v[v].toNat), w, sw⟩,
    ⟨.ldx d a b sw, d :: a :: b.regs, x + s.src b, 8, .read, .load (.reg d s.me.sup .zext) [], b.words, sw⟩,
    ⟨.stx d a b sw, d :: a :: b.regs, x + s.src b, 8, .write, .store (lowBytes 8 (s.reg d).toNat), b.words, sw⟩ ]

/-- The atomics (10 R189): the instruction, its member, its bytes, and whether its old value is sign-extended. -/
def atomicRows (w : Bool) (d a : SReg) (b : Src) (sw : Bool) : List (Instr × Nat × Bool × Nat × Ext) :=
  let n := if w then 8 else 4
  [ (.aadd w d a b sw, 0, w, n, .sext), (.amin w d a b sw, 1, w, n, .sext), (.amax w d a b sw, 2, w, n, .sext),
    (.aminu w d a b sw, 3, w, n, .sext), (.amaxu w d a b sw, 4, w, n, .sext), (.aand w d a b sw, 5, w, n, .sext),
    (.aor w d a b sw, 6, w, n, .sext), (.axor w d a b sw, 7, w, n, .sext), (.axchg w d a b sw, 8, w, n, .sext),
    (.acas w d a b sw, 9, w, n, .sext), (.afadd32 d a b sw, 10, false, 4, .zext),
    (.afadd16 d a b sw, 11, false, 2, .zext), (.afmax32 d a b sw, 12, false, 4, .zext) ]

/-- What an integer atomic leaves in a word of w bits (10 R189): old, the operand b, and the expected value of ACAS. -/
def atomicResult (member w : Nat) (old b expected : BitVec w) : BitVec w :=
  match member with
  | 0 => old + b
  | 1 => if old.toInt ≤ b.toInt then old else b
  | 2 => if old.toInt ≤ b.toInt then b else old
  | 3 => if old.toNat ≤ b.toNat then old else b
  | 4 => if old.toNat ≤ b.toNat then b else old
  | 5 => old &&& b
  | 6 => old ||| b
  | 7 => old ^^^ b
  | 8 => b
  | _ => if old = expected then b else old

/-- What a float atomic leaves (10 R189): the operands read with FMODE's flush, the sum or the maximum rounded to nearest even. -/
def floatResult (member : Nat) (fm : BitVec 8) (old b : Nat) : Nat :=
  match member with
  | 10 => fmtF32.wr 0 fm 0 (FVal.add false (fmtF32.rd fm old) (fmtF32.rd fm b))
  | 11 => fmtF16.wr 0 fm 0 (FVal.add false (fmtF16.rd fm old) (fmtF16.rd fm b))
  | _ => fmtF32.wr 0 fm 0 (FVal.max (fmtF32.rd fm old) (fmtF32.rd fm b))

/-- The bytes of a float member: AFADD16 has 2, the others 4. -/
def floatBytes (member : Nat) : Nat := if member = 11 then 2 else 4

/-- One micro-operation on micro-registers of w bits (10 R192). -/
def microStep (w : Nat) (fm : BitVec 8) (r : Nat → BitVec w) (u : BitVec 32) : Nat → BitVec w :=
  let field (lo n : Nat) : Nat := u.toNat / 2 ^ lo % 2 ^ n
  let x := r (field 7 3)
  let y := r (field 10 3)
  let count := y.toNat % w
  let v : BitVec w := match field 0 4 with
    | 0 => x + y | 1 => x - y | 2 => x &&& y | 3 => x ||| y | 4 => x ^^^ y
    | 5 => x <<< count | 6 => x >>> count
    | 7 => if x.toInt ≤ y.toInt then x else y
    | 8 => if x.toInt ≤ y.toInt then y else x
    | 9 => if x.toNat ≤ y.toNat then x else y
    | 10 => if x.toNat ≤ y.toNat then y else x
    | 11 => BitVec.ofNat w (floatResult 10 fm (x.toNat % 2 ^ 32) (y.toNat % 2 ^ 32) % 2 ^ 32)
    | 12 => BitVec.ofNat w (floatResult 12 fm (x.toNat % 2 ^ 32) (y.toNat % 2 ^ 32) % 2 ^ 32)
    | 13 => if x = y then 1 else 0
    | 14 => if r 3 ≠ 0 then x else y
    | _ => (u.extractLsb' 13 19).signExtend w
  fun j => if j = field 4 3 then v else r j

/-- The micro-registers after a routine: OLD, P, Q, T0 to T2, NEW and RES. -/
def microRun (w : Nat) (fm : BitVec 8) (old p q : BitVec w) (uops : List (BitVec 32)) : Nat → BitVec w :=
  uops.foldl (microStep w fm)
    (fun j => match j with | 0 => old | 1 => p | 2 => q | 6 => old | 7 => old | _ => 0)

/-- Element j of elements of w bits in bytes, the lowest bits first (05 R88). -/
def elementOf (w : Nat) (bs : List Byte) (j : Nat) : Nat := leNat bs / 2 ^ (w * j) % 2 ^ w

/-- Flight k comes to its end: nothing that must precede it is still under way (01 R20, R29; 10 R182; 15 R287). -/
def Arrives (s : State) (k : Nat) (f : Flight) : Prop := listGet s.net k = some f ∧ s.delivers k f = true

/-- Flight k stands at its memory since an earlier cycle, and it is its turn there (01 R20). -/
def Due (s : State) (k : Nat) (f : Flight) : Prop := listGet s.net k = some f ∧ s.due f = true

/-- The state in which flight k is performed: its bank's turn is taken, and it is no longer under way. -/
def taken (s : State) (k : Nat) (f : Flight) : State := (s.served f).without k

/-- Bytes bs stand at a place, and every other byte reads as before. -/
def StoredAt (s t : State) (l : Loc) (bs : List Byte) : Prop :=
  ∀ a, Memory.get t.mem a = if l.key ≤ a ∧ a < l.key + bs.length then bs.getD (a - l.key) 0#8 else Memory.get s.mem a

/-- The value that a load puts in its register (10 R181). -/
def extended (e : Ext) (data : List Byte) : Word :=
  match e with
  | .zext => BitVec.ofNat 64 (leNat data)
  | .sext => (BitVec.ofNat (8 * data.length) (leNat data)).signExtend 64

/-! ### Copies, waits and messages -/

/-- The copy family (10 R186): the instruction, and the shape of the copy. -/
def copyRows (d a : SReg) (b : Src) (n rows sstr dstr : BitVec 16) (m : BitVec 32) (sz : Fin 6) (sw : Bool) :
    List (Instr × CopyShape) :=
  [ (.cpy d a b m sw, .bytes m.toNat),
    (.cpys d a b n rows sstr dstr sw, .strided n.toNat rows.toNat sstr.toNat dstr.toNat),
    (.gath d a b n sz sw, .gather n.toNat (2 ^ sz.val)),
    (.scat d a b n sz sw, .scatter n.toNat (2 ^ sz.val)),
    (.cpyc d a b m sw, .convert m.toNat) ]

/-- The pending bit of a register of a strand stands at b (06 R113). -/
def PendIs (t : Strand) (r : SReg) (b : Bool) : Prop := ∀ j, pendBit r = some j → t.pend.getLsbD j = b

/-- The near-bank members (10 R193): the instruction, its kind, its second vector and its words. -/
def nearRows (ty : FTy) (d a : SReg) (b : Src) (n : BitVec 32) (sw : Bool) : List (Instr × Fin 3 × Option Src × Nat) :=
  [ (.ndot ty d a b n sw, 0, some b, b.words + 2), (.nsum ty d a n sw, 1, none, 3), (.nmax ty d a n sw, 2, none, 3) ]

/-- A slot's strand has been parked on a wait in an instruction of so many words, its pc and registers as before. -/
def ParkedOn (s t : State) (w : Wait) (words : Nat) (sw : Bool) : Prop :=
  (t.strand s.cur).status = .parked w ∧ (t.strand s.cur).words = words ∧ (t.strand s.cur).marker = sw
  ∧ (t.strand s.cur).pc = s.me.pc ∧ (t.strand s.cur).instret = s.me.instret ∧ RegsSame s t []

/-- A parked strand of slot i has gone on past its instruction, at its acquire (10 R196) when acq holds. -/
def WentOn (s t : State) (i : SlotId) (acq : Bool) : Prop :=
  let c := s.strand i
  let e := t.strand i
  e.pc = c.pc + BitVec.ofNat 64 (4 * c.words)
  ∧ e.instret = (if c.sup then c.instret else c.instret + 1#64)
  ∧ e.status = (if (acq || c.marker) && t.owes c.uid then .parked .results else .ready)

/-- The last flight added carries a packet of the strand for a cell. -/
def Posted (s t : State) (i : SlotId) (body : Body) (target : Nat) (cls : BitVec 3) : Prop :=
  ∃ f, t.net = s.net ++ [f] ∧ f.body = body ∧ f.who = i ∧ f.uid = (s.strand i).uid ∧ f.srcCell = i.cell
    ∧ f.dstCell = some target ∧ f.cls = cls

/-- Scopes at which a release of a lockstep strand takes no checkpoint (02 R48). -/
def Narrow (sc : Scope) : Prop := sc = .self ∨ sc = .cell ∨ sc = .twin

/-- A release of the issuing strand ends at once: its waits are over, its packet's class is open, and it takes no checkpoint
with it (log 9). -/
def AtOnce (s : State) (sc : Scope) (target : Nat) (cls : BitVec 3) : Prop :=
  s.released s.cur sc s.me.tsm = true ∧ (s.me.lock = false ∨ (Narrow sc ∧ target ≠ s.cur.cell))
  ∧ (sgOf s.cur.cell = sgOf target ∨ s.classClosed cls = false)


/-- Packet k stands at its cell's port since an earlier cycle (02 R44). -/
def AtPort (s : State) (k : Nat) (f : Flight) : Prop := listGet s.net k = some f ∧ s.came f = true

/-- The check of a column finds nothing and changes nothing. -/
def Sound (s : State) (l : Loc) : Prop := s.checkColumn l = (false, s)

/-- Nothing keeps an engine of cell c from a bank at once: every bank's turn is the cell's, no earlier request of the cell to a
bank is under way, and no stored bit reads wrong. -/
def BanksFree (s : State) (c : Nat) : Prop :=
  (∀ b, b < 4 → s.bankTurn c b (c % 65536) = true) ∧ s.flips = [] ∧ (s.cell c).eccinj = 0#31
  ∧ ∀ g ∈ s.net, g.heldBy = none → g.packet = false → g.srcCell = c → ∀ b, g.bank ≠ some (c, b)

/-- Unit u of copy i of cell c has been done, and its bytes stand at a place. -/
def UnitDone (s t : State) (c : Nat) (i : Fin 8) (k : Copy) (u : Nat) (l : Loc) (bs : List Byte) : Prop :=
  StoredAt s t l bs ∧ (t.cell c).copies[i] = some { k with todo := k.todo.filter (fun v => v != u) }

/-- Element e + j of CPYC, converted: v is its code against the destination's scale byte, and u the state after its reads. -/
def Converted (s : State) (k : Copy) (w : Who) (dfmt e j v : Nat) (u : State) : Prop :=
  ∃ x b u1, s.fetchElem w k.fmode (elemPlace ((s.formatAt k.src).getD 15) k.src (e + j)).1
      (elemPlace ((s.formatAt k.src).getD 15) k.src (e + j)).2 = .ok (x, none) u1
    ∧ u1.destScale w dfmt (elemPlace dfmt k.dst e).1 ((elemPlace dfmt k.dst e).2 + j) = .ok (b, none) u
    ∧ v = encodeElem k.rmode.toNat k.fmode 0 dfmt b x
/-! ### Vectors -/

/-- Lane j of width w. -/
def lane (w : Nat) (v : VWord) (j : Nat) : BitVec w := v.extractLsb' (w * j) w

/-- Every lane of vD is as f says, and vD is the one vector register that has changed. -/
def LanesAre (s t : State) (d : VReg) (w : Nat) (f : Nat → BitVec w) : Prop :=
  (∀ j, j < 128 / w → lane w ((t.strand s.cur).v[d]) j = f j)
  ∧ ∀ e : VReg, e ≠ d → (t.strand s.cur).v[e] = s.me.v[e]

/-- kD holds exactly the bits j below n with p j, and is the one mask register that has changed (06 R112). -/
def MaskIs (s t : State) (d : KReg) (n : Nat) (p : Nat → Prop) : Prop :=
  (∀ j, j < 32 → ((t.strand s.cur).k[d].getLsbD j = true ↔ j < n ∧ p j))
  ∧ ∀ e : KReg, e ≠ d → (t.strand s.cur).k[e] = s.me.k[e]

def intWidth : ITy → Nat
  | .i8 | .n8 => 8
  | .i16 | .n16 => 16
  | .i32 | .n32 => 32
  | .i64 | .n64 => 64
def isSigned : ITy → Bool
  | .i8 | .i16 | .i32 | .i64 => true
  | _ => false

/-- A lane as the number its type reads. -/
def asInt {w : Nat} (signed : Bool) (x : BitVec w) : Int := if signed then x.toInt else (x.toNat : Int)

/-- The VINT members that write a vector register (11 R204, codes 0 to 12), with the value of a lane. -/
def vintRows (ty : ITy) (d a b : VReg) (sw : Bool) : List (Instr × ((w : Nat) → BitVec w → BitVec w → BitVec w)) :=
  let sg := isSigned ty
  [ (.vintVadd ty d a b sw, fun _ x y => x + y), (.vintVsub ty d a b sw, fun _ x y => x - y),
    (.vintVmul ty d a b sw, fun _ x y => x * y),
    (.vintVmin ty d a b sw, fun _ x y => if asInt sg x ≤ asInt sg y then x else y),
    (.vintVmax ty d a b sw, fun _ x y => if asInt sg x ≤ asInt sg y then y else x),
    (.vminn ty d a b sw, fun _ x y => if x.toNat ≤ y.toNat then x else y),
    (.vmaxn ty d a b sw, fun _ x y => if x.toNat ≤ y.toNat then y else x),
    (.vand ty d a b sw, fun _ x y => x &&& y), (.vor ty d a b sw, fun _ x y => x ||| y),
    (.vxor ty d a b sw, fun _ x y => x ^^^ y),
    (.vshl ty d a b sw, fun w x y => x <<< (y.toNat % w)), (.vshr ty d a b sw, fun w x y => x >>> (y.toNat % w)),
    (.vsar ty d a b sw, fun w x y => BitVec.ofInt w (x.toInt / 2 ^ (y.toNat % w))) ]

/-- The VINT members that write a mask register (11 R204, codes 13 to 15). -/
def vintCmpRows (ty : ITy) (d : KReg) (a b : VReg) (sw : Bool) : List (Instr × ((w : Nat) → BitVec w → BitVec w → Prop)) :=
  [ (.vintVcmpeq ty d a b sw, fun _ x y => x = y),
    (.vintVcmplt ty d a b sw, fun _ x y => asInt (isSigned ty) x < asInt (isSigned ty) y),
    (.vcmpltn ty d a b sw, fun _ x y => x.toNat < y.toNat) ]

/-- Lane j of vR as a value, its subnormals read as zero when FMODE says so (11 R200, 05 R98). -/
def floatLane (s : State) (ty : FTy) (r : VReg) (j : Nat) : FVal :=
  let f := ftyFmt ty
  f.rd s.me.fmode (lane f.width s.me.v[r] j).toNat

/-- The VFP members that write a vector register (11 R202): the exact value of a lane, and whether each lane draws. -/
def vfpRows (s : State) (ty : FTy) (d a b : VReg) (sw : Bool) : List (Instr × (Nat → FVal) × Bool) :=
  let x := floatLane s ty a
  let y := floatLane s ty b
  let rdn := decide (s.me.rmode = 2#3)
  [ (.vfpVadd ty d a b sw, fun j => FVal.add rdn (x j) (y j), true),
    (.vfpVsub ty d a b sw, fun j => FVal.add rdn (x j) (y j).neg, true),
    (.vfpVmul ty d a b sw, fun j => FVal.mul (x j) (y j), true),
    (.vfma ty d a b sw, fun j => FVal.add rdn (FVal.mul (x j) (y j)) (floatLane s ty d j), true),
    (.vfpVmin ty d a b sw, fun j => FVal.min (x j) (y j), false),
    (.vfpVmax ty d a b sw, fun j => FVal.max (x j) (y j), false),
    (.vabs ty d a sw, fun j => (x j).abs, false), (.vneg ty d a sw, fun j => (x j).neg, false),
    (.vdiv ty d a b sw, fun j => FVal.div (x j) (y j), true),
    (.vsqrt ty d a sw, fun j => (x j).sqrt, true), (.vexp2 ty d a sw, fun j => (x j).exp2, true) ]

/-- The VFP members that write a mask register (11 R202). -/
def vfpCmpRows (s : State) (ty : FTy) (d : KReg) (a b : VReg) (sw : Bool) : List (Instr × (Nat → Prop)) :=
  let x := floatLane s ty a
  let y := floatLane s ty b
  [ (.vfpVcmpeq ty d a b sw, fun j => (x j).eq (y j) = true), (.vfpVcmplt ty d a b sw, fun j => (x j).lt (y j) = true),
    (.vcmple ty d a b sw, fun j => (x j).lt (y j) = true ∨ (x j).eq (y j) = true) ]

def elemWidth : ElemTy → Nat
  | .i8 | .n8 | .e4m3 | .e5m2 => 8
  | .i16 | .n16 | .f16 | .bf16 => 16
  | .i32 | .n32 | .f32 => 32
  | .i64 | .n64 => 64
def elemSigned : ElemTy → Bool
  | .i8 | .i16 | .i32 | .i64 => true
  | _ => false
def elemFloat : ElemTy → Option FFmt
  | .f32 => some fmtF32
  | .f16 => some fmtF16
  | .bf16 => some fmtBf16
  | .e4m3 => some fmtE4m3
  | .e5m2 => some fmtE5m2
  | _ => none
def laneBits : LaneW → Nat
  | .b8 => 8 | .b16 => 16 | .b32 => 32 | .b64 => 64

/-- The limits of an integer or natural type (05 R85). -/
def limits (ty : ElemTy) : Int × Int :=
  let w := elemWidth ty
  if elemSigned ty then (-(2 ^ (w - 1)), 2 ^ (w - 1) - 1) else (0, 2 ^ w - 1)

/-- A magnitude num / den rounded to an integer in a mode (05 R91), with the draw r of mode 5. -/
def roundRatio (mode : Nat) (neg : Bool) (r num den : Nat) : Nat :=
  let lo := num / den
  let rem := num % den
  if rem = 0 then lo
  else match mode with
    | 0 => if 2 * rem < den ∨ (2 * rem = den ∧ lo % 2 = 0) then lo else lo + 1
    | 1 => lo
    | 2 => if neg then lo + 1 else lo
    | 3 => if neg then lo else lo + 1
    | 4 => if 2 * rem < den then lo else lo + 1
    | _ => if den * 65536 ≤ rem * 65536 + r * den then lo + 1 else lo

/-- A float value as an integer of a type (05 R95): rounded, then clamped; a NaN gives 0. -/
def toType (ty : ElemTy) (mode r : Nat) (x : FVal) : Int :=
  match x with
  | .nan _ => 0
  | .inf neg => if neg then (limits ty).1 else (limits ty).2
  | .fin neg m e _ =>
    let k := roundRatio mode neg r (m * 2 ^ e.toNat) (2 ^ (-e).toNat)
    let v : Int := if neg then -(k : Int) else k
    if v < (limits ty).1 then (limits ty).1 else if (limits ty).2 < v then (limits ty).2 else v

/-- The instructions that touch only vector and mask registers and one scalar. -/
def vectorInstrs (ty : ITy) (fy : FTy) (ey dt : ElemTy) (lw : LaneW) (d a b : VReg) (k k2 k3 : KReg) (r : SReg) (x : Src)
    (n : Fin 2) (sat sw : Bool) : List Instr :=
  (vintRows ty d a b sw).map Prod.fst ++ (vintCmpRows ty k a b sw).map Prod.fst
  ++ [.vfpVadd fy d a b sw, .vfpVsub fy d a b sw, .vfpVmul fy d a b sw, .vfma fy d a b sw, .vfpVmin fy d a b sw,
    .vfpVmax fy d a b sw, .vabs fy d a sw, .vneg fy d a sw, .vdiv fy d a b sw, .vsqrt fy d a sw, .vexp2 fy d a sw,
    .vfpVcmpeq fy k a b sw, .vfpVcmplt fy k a b sw, .vcmple fy k a b sw, .vbcast ey d r sw, .vins d r n sw,
    .vshuf d a x sw, .vsel d a k lw sw, .kand k k2 k3 sw, .kor k k2 k3 sw, .kxor k k2 k3 sw, .knot k k2 sw,
    .kmov (.kk k k2) sw, .kmov (.ks k r) sw, .vzero (.v d) sw, .vzero (.k k) sw, .vmov d a sw, .vcvt dt ey sat d a sw,
    .vscl d a x fy sw]


/-! ### Hires and accumulator slots -/

/-- A place read as it stands: no bit of the module has been upset, and no injection is armed at its cell. -/
def Intact (s : State) (l : Loc) : Prop := s.flips = [] ∧ (l.space = .local → (s.cell l.unit).eccinj = 0#31)

/-- Operand pairs and their result format (12 R217 checks 3 and 4). -/
def PairLegal (a b d : Nat) : Prop :=
  ((a = 1 ∧ b = 1 ∨ a = 2 ∧ b = 2 ∨ a ∈ [3, 4] ∧ b ∈ [3, 4] ∨ a = 7 ∧ b ∈ [3, 4, 7] ∨ b = 7 ∧ a ∈ [3, 4]) ∧ d ∈ [0, 1, 2])
  ∨ (a ∈ [5, 6] ∧ b ∈ [5, 6] ∧ d = 8)

/-- A hire block whose fields pass checks 2 to 6 (12 R216, R217): f off n is the number in the n bytes at off. -/
def BlockLegal (rk : Bool) (f : Nat → Nat → Nat) : Prop :=
  let m := f 0x24 2
  let n := f 0x26 2
  let k := f 0x28 4
  f 0x38 8 = 0 ∧ f 0x33 1 = 0 ∧ f 0x2F 1 < 8 ∧ 1 ≤ m ∧ m ≤ 64 ∧ 1 ≤ n ∧ n ≤ 128 ∧ 1 ≤ k ∧ k ≤ 2 ^ 24
  ∧ PairLegal (f 0x2C 1) (f 0x2D 1) (f 0x2E 1)
  ∧ (rk = false → f 0x32 1 = 0 ∧ f 0x34 4 = 0)
  ∧ (rk = true → f 0x32 1 ≤ 3 ∧ 1 ≤ f 0x34 4 ∧ f 0x34 4 ≤ 256 ∧ f 0x2C 1 = 1 ∧ f 0x2D 1 = 1 ∧ f 0x2F 1 % 2 = 0 ∧ k ≤ 256)
  ∧ ((m + 15) / 16) * ((n + 15) / 16) ≤ 32 ∧ f 0x30 2 + ((m + 15) / 16) * ((n + 15) / 16) ≤ 128

/-- An operand address that check 7 turns away: class 3, or q4 outside class 2. -/
def BadOperand (ea : Word) (fmt : Nat) : Prop := ea.toNat / 2 ^ 60 = 3 ∨ (fmt = 7 ∧ ea.toNat / 2 ^ 60 ≠ 2)

/-- Accumulator slot k of the tile belongs to the issuing strand (06 R114). -/
def Mine (s : State) (k : Nat) : Prop :=
  k < 128 ∧ ((s.hub (tileOf s.cur.cell)).owner k).state ≠ 0#2 ∧ ((s.hub (tileOf s.cur.cell)).owner k).cell = s.cur.cell
    ∧ ((s.hub (tileOf s.cur.cell)).owner k).slot = s.cur.slot

/-- The next sequence number of the strand (08 R148). -/
def seqAfter (s : State) : BitVec 16 := if s.me.seqCtr = 0xFFFF#16 then 1#16 else s.me.seqCtr + 1#16

/-- A hire of the issuing strand has taken the last entry of the queue of its tile hub, whose state before it is v; the n
slots from base are Busy, and no other slot has changed (08 R146-R150). -/
def Hired (s v t : State) (ok : Hire → Prop) (batch : Fin 4) (blk : Word) (base n : Nat) : Prop :=
  let c := s.cur.cell
  let h := v.hub (tileOf c)
  let g := t.hub (tileOf c)
  (t.strand s.cur).seqCtr = seqAfter s
  ∧ (∃ q, g.hires = h.hires ++ [q] ∧ ok q ∧ q.seq = seqAfter s ∧ q.batch = batch ∧ q.cell = c ∧ q.slot = s.cur.slot
    ∧ q.uid = s.me.uid ∧ q.state = .queued ∧ q.done = 0 ∧ q.total = q.ti * q.tj * q.kb ∧ q.fmode = s.me.fmode
    ∧ q.rmode = s.me.rmode ∧ q.fault = none ∧ q.writes = [] ∧ q.fetched = [])
  ∧ (∀ k, base ≤ k → k < base + n → (g.owner k).state = 2#2 ∧ (g.owner k).busy = (h.owner k).busy + 1
    ∧ (g.owner k).cell = (h.owner k).cell ∧ (g.owner k).slot = (h.owner k).slot)
  ∧ (∀ k, (k < base ∨ base + n ≤ k) → g.owner k = h.owner k)
  ∧ g.acc = h.acc
  ∧ (t.cell c).ring = (⟨seqAfter s, s.cur.slot, batch, 1#2, 0#8, blk⟩ :: (v.cell c).ring).take 16

/-- The columns that the two load pipes of a hub read next for hire k, with their steps (12 R218, R223). -/
def unread (s : State) (t k : Nat) : List (Nat × Nat) :=
  ((s.pipeColumns t false ++ s.pipeColumns t true).filter (fun e => e.1 == k)).map Prod.snd

/-- Column c of a step has been read. -/
def HasRead (r : Hire) (step c : Nat) : Prop := ∃ f ∈ r.fetched, f.step = step ∧ f.col = c

/-- A pipe reads column c of a step of hire k: it is one of the pipe's operands, not yet read, and every column that the pipe reads
for a step before it in the hub's order has been. -/
def NextOfPipe (s : State) (t : Nat) (ofB : Bool) (k n c : Nat) : Prop :=
  ∃ (j : Nat) (r : Hire), (s.stepsAhead t)[j]? = some (k, n) ∧ listGet (s.hub t).hires k = some r
    ∧ (∃ o ∈ s.pipeOperands r n ofB, o.ea.toNat / 32 = c) ∧ ¬ HasRead r n c
    ∧ ∀ i k' n' r', i < j → (s.stepsAhead t)[i]? = some (k', n') → listGet (s.hub t).hires k' = some r' →
      ∀ o ∈ s.pipeOperands r' n' ofB, HasRead r' n' (o.ea.toNat / 32)

/-- The hire whose step the array of tile t runs next: of the masters whose next step has all its columns, class 1 first, each
class in turn (12 R223). -/
def chosen (s : State) (t : Nat) : Option (Nat × Hire) := (s.hub t).arrayTurn.choose (s.runnable t)

/-- The array of tile t may start a step (12 R223 rule 1), and gives its licence to nobody at this boundary (R235);
no refill is due (08 R163). -/
def ArrayRuns (s : State) (t : Nat) : Prop :=
  s.refillDue = false ∧ s.holds t = true ∧ (s.bondAt t).dry = false ∧ (s.bondAt t).caphot = false ∧ s.requests t = true
  ∧ (s.holdSpent t = false ∨ s.requests (twinTile t) = false) ∧ ∀ r ∈ (s.hub t).hires, r.fault = none

/-- The four bytes of element (i, j) of an accumulator image at a list of its 32 places (12 R230). -/
def imageElem (u : State) (ls : List Loc) (i j : Nat) (v : BitVec 32) : Prop :=
  ∀ l, ls[2 * i + j / 8]? = some l → v = BitVec.ofNat 32 (leNat (u.peek (l.add (4 * (j % 8))) 4))

/-- A report to the physical function (18 R335): its REPIDX has risen, and no other byte of memory has changed but its record's
64, whose area is a free value (log 6). -/
def ReportedPhysical (s t : State) : Prop :=
  let n := (s.partOf 0).reportIx
  let r : Loc := ⟨.host, 0, Config.physicalReports + 64 * (n % 256)⟩
  (t.partOf 0).reportIx = n + 1 ∧ t.bar 0 0x18 8 = (n + 1) % 2 ^ 64
  ∧ ∀ k, (k < (barLoc 0 0x18).key ∨ (barLoc 0 0x18).key + 8 ≤ k) → (k < r.key ∨ r.key + 64 ≤ k) →
    Memory.get t.mem k = Memory.get s.mem k

/-! ### Control words of rank streams (13 R242, R245, R246) -/

/-- The type codes of the rank members: the code, the type. -/
def rankTypes : List (Nat × FTy) := [(8, .f32), (9, .f16), (10, .bf16)]

def RankFields (v : Word) (r : RankCtl) : Prop :=
  let f (lo n : Nat) : Nat := v.toNat / 2 ^ lo % 2 ^ n
  r.out = f 0 16 ∧ r.n = f 16 8 + 1 ∧ r.k = f 24 8 + 1 ∧ (f 32 4, r.ty) ∈ rankTypes ∧ f 36 28 = 0 ∧ r.out + r.k ≤ 0xC000

def RwaccFields (v : Word) (r : RwaccCtl) : Prop :=
  let f (lo n : Nat) : Nat := v.toNat / 2 ^ lo % 2 ^ n
  r.st.val = f 0 2 ∧ r.tab = f 2 2 ∧ r.w = f 4 9 ∧ 1 ≤ r.w ∧ r.w ≤ 256 ∧ f 13 3 = 0 ∧ r.stride = f 16 16
  ∧ r.stride % (if r.ty = .f32 then 4 else 2) = 0 ∧ (f 32 4, r.ty) ∈ rankTypes ∧ r.p = f 36 16 ∧ 1 ≤ r.p ∧ f 52 12 = 0

def RvalFields (v : Word) (r : RvalCtl) : Prop :=
  let f (lo n : Nat) : Nat := v.toNat / 2 ^ lo % 2 ^ n
  r.c = f 0 9 ∧ r.c ≤ 256 ∧ r.n = f 9 9 + 1 ∧ r.n ≤ 256 ∧ r.tab = f 18 2
  ∧ ((f 20 4 = 8 ∧ r.wide = true) ∨ (f 20 4 = 9 ∧ r.wide = false)) ∧ f 24 40 = 0

/-- Element j of n-byte elements at a place. -/
def elemOf (s : State) (l : Loc) (n j : Nat) : Nat := leNat (s.peek (l.add (n * j)) n)

/-- L lists the indices below n of the values that are no NaN, largest first, equal values by index (13 R242). -/
def RankedBy (x : Nat → FVal) (n : Nat) (L : List Nat) : Prop :=
  L.Nodup ∧ (∀ i, i ∈ L ↔ i < n ∧ (x i).isNan = false)
  ∧ L.Pairwise (fun i j => (x j).lt (x i) = true ∨ ((x i).lt (x j) = false ∧ i < j))

/-- The run of a slot stands so in a cell. -/
def Runs (t : State) (c : Nat) (k : Fin 5) (r : RankRun) : Prop :=
  (t.cell c).ranking.find? (fun x => x.slot == k) = some r

/-- The run of a slot has ended, and its strand has gone on (13 R242, R246). -/
def RunEnded (s t : State) (c : Nat) (k : Fin 5) (r : RankRun) (n : Nat) : Prop :=
  WentOn s t ⟨c, k⟩ false ∧ (t.strand ⟨c, k⟩).progValid = false ∧ (∀ x ∈ (t.cell c).ranking, x.slot ≠ k)
  ∧ (r.val = false → HoldsAt s t ⟨c, k⟩ r.d (BitVec.ofNat 64 n))

/-! ### Trees (08 R159-R161; 13 R254-R259) -/

/-- Node n of a tree, as it stands in memory (08 R160). -/
def nodeAt (s : State) (base : Word) (d : Desc) (n : Nat) : Node :=
  Node.ofBytes (d.d + d.vd) (s.treeBytes base (64 + d.nsz * n) (64 + 68 * (d.d + d.vd)))

/-- The centroid of a node: its sums over COUNT (08 R160). -/
def centroid (d : Desc) (x : Node) : List F32 := (x.sums.take d.d).map (fun v => f32Mean v x.count)

/-- The zero fields of a node are zero (08 R160). -/
def NodeZeros (x : Node) : Prop :=
  x.zeros = 0 ∧ (x.kind = 1 → ∀ c ∈ x.child, c = 0) ∧ (x.kind = 2 → ∀ c ∈ x.child.drop x.fill, c = 0)

/-- A node as no status 3 describes it (13 R252). -/
def NodeLegal (d : Desc) (x : Node) : Prop :=
  NodeZeros x ∧ (x.kind = 1 ∧ x.fill ≤ 16 ∨ x.kind = 2 ∧ 1 ≤ x.fill ∧ x.fill ≤ 8 ∧ ∀ c ∈ x.child.take x.fill, c < d.used)

/-- The allocated nodes of a tree lie apart, inside its handle, and no two of its bytes at one place. -/
def TreeApart (s : State) (base : Word) (d : Desc) : Prop :=
  let h := base.toNat / 2 ^ 36 % 2 ^ 24
  let o := base.toNat % 2 ^ 36
  d.nsz = (64 + 68 * (d.d + d.vd) + 63) / 64 * 64 ∧ o + 64 + d.nsz * d.used ≤ (s.handle h).limit.toNat + 1
  ∧ ∀ x y, x < o + 64 + d.nsz * d.used → y < o + 64 + d.nsz * d.used → (s.hwLoc h x).key = (s.hwLoc h y).key → x = y

/-- The descent of a key (13 R255): from a node, nodes and the positions that it chooses in them, to a leaf. -/
def Descends (s : State) (base : Word) (d : Desc) (key : List F32) (n : Nat) : List (Nat × Nat) → Prop
  | [] => False
  | (m, p) :: l =>
    let x := nodeAt s base d m
    let far (q : Nat) : F32 := f32Sq key (centroid d (nodeAt s base d (x.child.getD q 0)))
    m = n ∧ NodeLegal d x
    ∧ (x.kind = 1 ∧ l = [] ∧ p = 0
      ∨ x.kind = 2 ∧ p < x.fill ∧ (∀ q, q < x.fill → f32Lt (far q) (far p) = false) ∧ (∀ q, q < p → f32Lt (far p) (far q) = true)
        ∧ Descends s base d key (x.child.getD p 0) l)

/-- What a descent reads of the nodes on its path, and of their children. -/
def descentReads (s : State) (base : Word) (d : Desc) (path : List Nat) : List (Nat × Nat) :=
  path.flatMap (fun n =>
    let x := nodeAt s base d n
    (64 + d.nsz * n, 64) :: if x.kind = 1 then [] else (x.child.take x.fill).map (fun c => (64 + d.nsz * c, 64 + 4 * d.d)))

/-- What an append that splits nothing writes: each node of its path from the header through the sums, the entry behind those of
the leaf, and three groups of fields of the descriptor. -/
def appendWrites (s : State) (base : Word) (d : Desc) (path : List Nat) : List (Nat × Nat) :=
  let dim := d.d + d.vd
  path.flatMap (fun n =>
    let x := nodeAt s base d n
    (64 + d.nsz * n, 64 + 4 * dim) :: if x.kind = 1 then [(64 + d.nsz * n + 64 + 4 * dim * (x.fill + 1), 4 * dim)] else [])
  ++ [(4, 5), (0x14, 8), (0x20, 16)]

/-- A node of the path has taken a record (13 R255): its count, sums, radius and number; a leaf the entry, too. -/
def TookRecord (s t : State) (base : Word) (d : Desc) (record : List F32) (n : Nat) : Prop :=
  let x := nodeAt s base d n
  let y := nodeAt t base d n
  y.count = (x.count + 1) % 2 ^ 32 ∧ y.seq = (x.seq + 1) % 2 ^ 64
  ∧ (∀ j, j < d.d + d.vd → y.sums.getD j 0#32 = f32Add (x.sums.getD j 0#32) (record.getD j 0#32))
  ∧ y.radius = (if x.count = 0 then 0#32
      else f32Max (f32Add x.radius (f32Dist (centroid d x) (centroid d y))) (f32Dist (record.take d.d) (centroid d y)))
  ∧ y.kind = x.kind ∧ y.parent = x.parent ∧ y.child = x.child
  ∧ (x.kind = 1 → y.fill = x.fill + 1 ∧ y.entries.getD x.fill [] = record ∧ ∀ e, e ≠ x.fill → y.entries.getD e [] = x.entries.getD e [])
  ∧ (x.kind ≠ 1 → y.fill = x.fill)

/-- The opening test of a walk, with TMODE.GEO, THETA, TAU, CMIN and the query (13 R257). -/
structure Opens where
  geo : Bool
  theta : F32
  tau : F32
  cmin : Nat
  query : List F32

def Opens.holds (o : Opens) (d : Desc) (x : Node) : Bool :=
  if o.geo then f32Le x.radius (f32Mul o.theta (f32Dist o.query (centroid d x)))
  else decide (o.cmin ≤ x.count) && f32Le (f32Mul (f32Sqrt (f32Sq o.query (List.replicate d.d 0#32))) x.radius) o.tau

/-- No node that the walk visits, to so many levels, is bad. -/
def WalkSound (s : State) (base : Word) (d : Desc) (o : Opens) : Nat → Nat → Prop
  | 0, _ => False
  | levels + 1, n =>
    let x := nodeAt s base d n
    NodeLegal d x ∧ (x.kind = 2 → ∀ c ∈ x.child.take x.fill,
      o.holds d (nodeAt s base d c) = true ∨ WalkSound s base d o levels c)

/-- The emit entries of the visit of a node at a depth, in order (13 R257, 08 R161). -/
def emitted (s : State) (base : Word) (d : Desc) (o : Opens) : Nat → Nat → Nat → List Nat
  | 0, _, _ => []
  | levels + 1, n, depth =>
    let x := nodeAt s base d n
    if x.kind = 1 then (List.range x.fill).map (fun k => n + 2 ^ 32 * k + 2 ^ 36 + 2 ^ 40 * depth)
    else (x.child.take x.fill).flatMap (fun c =>
      if o.holds d (nodeAt s base d c) then [c + 2 ^ 40 * (depth + 1)] else emitted s base d o levels c (depth + 1))

/-- What such a visit reads: a node's header; of a child, its sums too when the test reads them. -/
def visitReads (s : State) (base : Word) (d : Desc) (o : Opens) : Nat → Nat → List (Nat × Nat)
  | 0, _ => []
  | levels + 1, n =>
    let x := nodeAt s base d n
    (64 + d.nsz * n, 64) :: if x.kind = 1 then []
      else (x.child.take x.fill).flatMap (fun c =>
        (64 + d.nsz * c, 64 + 4 * if o.geo then d.d else 0)
          :: if o.holds d (nodeAt s base d c) then [] else visitReads s base d o levels c)

/-- The summary of a node (13 R254). -/
def summary (x : Node) : List Byte :=
  lowBytes 4 x.count ++ lowBytes 4 x.radius.toNat ++ lowBytes 1 x.kind ++ lowBytes 1 x.fill ++ List.replicate 6 0#8
    ++ (if x.kind = 0 ∨ x.count = 0 then [] else x.sums.flatMap (fun v => lowBytes 4 (f32Mean v x.count).toNat))

/-- The fields of a walk block (13 R257). -/
def BlockOfWalk (b : List Byte) (q e cap fresh : Nat) : Prop :=
  let f (o n : Nat) : Nat := leNat ((b.drop o).take n)
  f 0 8 = q ∧ f 8 8 = e ∧ f 0x10 4 = cap ∧ f 0x14 4 = fresh ∧ f 0x18 8 = 0 ∧ 1 ≤ cap ∧ cap ≤ 6144 ∧ fresh ≤ 1

/-- The turns of the own cell's columns that n bytes from an offset on touch. -/
def OwnTurns (s : State) (c off : Nat) (bs : List Byte) : Prop :=
  (s.takeTurns c ((spansOf (BitVec.ofNat 64 off) bs).map (fun u => ⟨.local, c, u.ea.toNat⟩))).isSome = true

/-! ### The life of a strand (02 R38-R43; 14 R270-R278) -/

/-- A GO packet of slot i's strand has left for a cell, and the strand waits in its old slot (02 R41). -/
def Departed (s t : State) (i : SlotId) (target : Nat) : Prop :=
  let c := s.strand i
  (t.strand i).status = .parked .goFlight ∧ t.mem = s.mem
  ∧ ∃ g, Posted s t i (.go g) target c.dcls ∧ g.src = i ∧ g.uid = c.uid ∧ g.pc = c.pc + 4#64 ∧ g.a = c.ra ∧ g.l = c.rl
    ∧ g.sp = c.sp ∧ g.fmode = c.fmode ∧ g.rmode = c.rmode ∧ g.seed = c.seed ∧ g.splh = c.splh ∧ g.sidx = c.sidx
    ∧ g.team = c.team ∧ g.child = c.child ∧ g.join = c.join ∧ g.spawnCell = c.spawnCell ∧ g.lock = c.lock ∧ g.dcls = c.dcls

/-- The strand of a GO packet stands in slot k of cell c; what GO does not carry is as at creation (06 R116, 14 R274). -/
def Landed (t : State) (c : Nat) (k : Fin 5) (g : GoPacket) : Prop :=
  let e := t.strand ⟨c, k⟩
  e.status = .ready ∧ e.uid = g.uid ∧ e.pc = g.pc ∧ e.ra = g.a ∧ e.rl = g.l ∧ e.sp = g.sp ∧ e.fmode = g.fmode ∧ e.rmode = g.rmode
  ∧ e.seed = g.seed ∧ e.splh = g.splh ∧ e.sidx = g.sidx ∧ e.team = g.team ∧ e.child = g.child ∧ e.join = g.join
  ∧ e.spawnCell = g.spawnCell ∧ e.lock = g.lock ∧ e.dcls = g.dcls ∧ e.lower = [] ∧ e.pend = 0#24

/-- A child's strand stands in slot k of cell c, with the handles that the runtime gave it (02 R43, 14 R271). -/
def Born (s t : State) (c : Nat) (k : Fin 5) (r : BindRec) (home : Nat) (q : Child) (stk spl : Nat) : Prop :=
  let e := t.strand ⟨c, k⟩
  e.status = .ready ∧ e.uid = s.uids + 1 ∧ e.sup = false ∧ e.pc = handleAddr (s.codeHandle r) q.entry.toNat
  ∧ e.sp = handleAddr (BitVec.ofNat 24 stk) 0 + BitVec.ofNat 64 (s.imageOf r).stackSize
  ∧ e.splh = handleAddr (BitVec.ofNat 24 spl) 0 ∧ (∀ j : Fin 8, e.ra[j] = q.args.getD j.val 0#64)
  ∧ e.sidx = q.sidx ∧ e.team = q.team ∧ e.child = true ∧ e.join = q.join ∧ e.spawnCell = home ∧ e.dcls = r.dcls
  ∧ (t.handle stk).v = true ∧ (t.handle stk).priv = true ∧ (t.handle spl).v = true ∧ (t.handle spl).priv = true ∧ t.mem = s.mem

/-- A packet has left for a cell behind what was under way. -/
def Replied (net : List Flight) (t : State) (body : Body) (target : Nat) : Prop :=
  ∃ f, t.net = net ++ [f] ∧ f.body = body ∧ f.dstCell = some target

/-! ### Special registers (06 R115-R124; 14 R281) -/

/-- What a control register reads as, by its fields. -/
def CsrReads (s : State) (n : Nat) (v : Word) : Prop :=
  let t := s.me
  let x := s.cell s.cur.cell
  let tile := tileOf s.cur.cell
  let berr (b : Berr) : Prop := v.extractLsb' 0 9 = b.col ∧ v.extractLsb' 9 10 = b.synd ∧ v.getLsbD 19 = b.dbl
    ∧ v.getLsbD 20 = b.valid ∧ v.extractLsb' 21 3 = 0#3 ∧ v.extractLsb' 24 8 = b.count ∧ v.extractLsb' 32 32 = 0#32
  match n with
  | 0 => v.getLsbD 0 = t.sup ∧ v.getLsbD 1 = t.psup ∧ v.getLsbD 2 = t.sstep ∧ v.getLsbD 3 = t.psstep
    ∧ v.extractLsb' 4 3 = t.dcls ∧ v.getLsbD 7 = t.lock ∧ v.extractLsb' 8 2 = BitVec.ofNat 2 t.lower.length
    ∧ v.extractLsb' 10 6 = 0#6 ∧ v.extractLsb' 16 32 = t.wspill ∧ v.extractLsb' 48 16 = 0#16
  | 1 => v = t.epc
  | 2 => v.toNat = t.ecause.toNat
  | 3 => v = t.eval
  | 4 => v.toNat = t.ehseq.toNat
  | 5 => v.toNat = 4 * t.tvec.toNat
  | 6 => v.toNat = t.fmode.toNat
  | 7 => v.toNat = t.rmode.toNat
  | 8 => v.toNat = t.seed.toNat
  | 9 => v.toNat = t.tsm.toNat
  | 10 => v.extractLsb' 0 48 = t.progIndex ∧ v.extractLsb' 48 15 = 0#15 ∧ v.getLsbD 63 = t.progValid
  | 11 => v.toNat = t.clsmask.toNat
  | 12 => v.extractLsb' 0 16 = t.chainCell ∧ v.getLsbD 16 = t.chainEn ∧ v.extractLsb' 17 47 = 0#47
  | 13 => v.toNat = t.stealdom.toNat
  | 14 => v.toNat = t.mstra.toNat
  | 15 => v.toNat = t.mstrb.toNat
  | 16 => v.toNat = t.tau.toNat
  | 17 => v.toNat = t.theta.toNat
  | 18 => v.toNat = t.cmin.toNat
  | 19 => v = if t.tmode then 1#64 else 0#64
  | 20 => v = s.cycle
  | 21 => v = t.instret
  | 22 => v.extractLsb' 0 16 = (s.bondAt tile).tokens ∧ v.getLsbD 16 = (s.bondAt tile).dry
    ∧ v.getLsbD 17 = (s.bondAt tile).caphot ∧ v.extractLsb' 18 46 = 0#46
  | 23 => v.getLsbD 0 = s.holds tile ∧ v.getLsbD 1 = s.requests tile ∧ v.getLsbD 2 = s.pinned tile
    ∧ v.getLsbD 3 = s.requests (twinTile tile) ∧ v.extractLsb' 4 60 = 0#60
  | 24 => berr x.berr[0]
  | 25 => berr x.berr[1]
  | 26 => berr x.berr[2]
  | 27 => berr x.berr[3]
  | 28 => v.toNat = x.eccinj.toNat
  | _ => v = t.splh

/-- The members that read a special register, a queue or a table: the row of a scalar member (06 R111, R122; 08 R149, R151,
R154; 12 R231). -/
def specialRows (s : State) (d a : SReg) (m : PostIx) (c : Cls) (n : Fin 4) (r : Fin 30) (sw : Bool) : List Row :=
  let x := s.cell s.cur.cell
  let hires := (s.hub (tileOf s.cur.cell)).hires.filter (fun q => q.isOf s.cur s.me.uid)
  let batch (b : Fin 4) : Nat := (hires.filter (fun q => q.batch == b)).length
  let mark (b : Fin 4) : Nat := if (s.me.marks[b]).set then 1 else 0
  let row (i : Instr) (reads : List SReg) (ok : Word → Prop) : Row := ⟨i, reads, d, ok, 1, sw⟩
  [ row (.pres d m sw) [] (fun v => (∀ j : PostIx, v.getLsbD j.val = x.posts[j].present)
      ∧ v.extractLsb' 32 31 = 0#31 ∧ v.getLsbD 63 = x.posts[m].present),
    row (.clsr d c sw) [] (fun v => v.getLsbD 0 = x.classes[c].perm ∧ v.getLsbD 1 = false
      ∧ v.extractLsb' 2 62 = x.classes[c].entry),
    row (.licst d sw) [] (CsrReads s 23),
    row (.rcnt d n sw) [] (fun v => v = BitVec.ofNat 64 (x.rankCount[n].toNat
      + 2 ^ 16 * (x.ranks.filter (fun e => e.stream == n)).length)),
    row (.rdcyc d sw) [] (fun v => v = s.cycle),
    row (.hstat d a sw) [a] (fun v =>
      (s.reg a = 0#64 → v = BitVec.ofNat 64 (batch 0 + 2 ^ 8 * batch 1 + 2 ^ 16 * batch 2 + 2 ^ 24 * batch 3
        + 2 ^ 32 * mark 0 + 2 ^ 33 * mark 1 + 2 ^ 34 * mark 2 + 2 ^ 35 * mark 3))
      ∧ (s.reg a ≠ 0#64 →
        (∀ e, x.ring.find? (fun e => e.seq == (s.reg a).setWidth 16 && e.slot == s.cur.slot) = some e →
          v = BitVec.ofNat 64 (e.seq.toNat + 2 ^ 16 * (e.slot.val % 4) + 2 ^ 18 * e.batch.val + 2 ^ 20 * e.status.toNat
            + 2 ^ 22 * e.cause.toNat))
        ∧ (x.ring.find? (fun e => e.seq == (s.reg a).setWidth 16 && e.slot == s.cur.slot) = none → v = 0#64))),
    row (.csrr d r sw) [] (CsrReads s r.val) ]

/-- Access of 06 R115: registers that only read, and those that only the supervisor writes. -/
def readOnlyCsrs : List Nat := [11, 20, 21, 22, 23]
def supervisorCsrs : List Nat := [0, 1, 2, 3, 4, 5, 9, 10, 24, 25, 26, 27, 28, 29]

/-- The bits that a write of a control register changes, by the Changed by column of its map (00 R13; 06 R97, R100,
R116-R124). -/
def csrBits : CsrOp → List (Nat × Word)
  | .write => [(0, 0x7C#64), (1, BitVec.allOnes 64), (2, 0#64), (3, 0#64), (4, 0#64), (5, 0xFFFFFFFFFFFFFFFC#64), (6, 0xFF#64),
      (8, 0xFFFFFFFF#64), (9, 0x7FFFFFFFFFFFF#64), (10, 0x8000FFFFFFFFFFFF#64), (12, 0x1FFFF#64), (14, 0xFFFFFFFF#64),
      (15, 0xFFFFFFFF#64), (16, 0xFFFFFFFF#64), (17, 0xFFFFFFFF#64), (18, 0xFFFFFFFF#64), (19, 1#64), (24, 0xFF0FFFFF#64),
      (25, 0xFF0FFFFF#64), (26, 0xFF0FFFFF#64), (27, 0xFF0FFFFF#64), (29, BitVec.allOnes 64)]
  | .set => [(0, 0x04#64), (1, 0#64), (2, 0#64), (3, 0#64), (4, 0#64), (5, 0#64), (6, 0xFF#64), (8, 0xFFFFFFFF#64),
    (9, 0x7FFFFFFFFFFFF#64),
      (10, 0#64), (12, 0x1FFFF#64), (14, 0xFFFFFFFF#64), (15, 0xFFFFFFFF#64), (16, 0#64), (17, 0#64), (18, 0#64), (19, 0#64),
      (24, 0#64), (25, 0#64), (26, 0#64), (27, 0#64), (28, 0#64), (29, 0#64)]
  | .clear => [(0, 0x04#64), (1, 0#64), (2, 0#64), (3, 0#64), (4, 0#64), (5, 0#64), (6, 0xFF#64), (8, 0xFFFFFFFF#64),
    (9, 0x7FFFFFFFFFFFF#64),
      (10, 0#64), (12, 0x1FFFF#64), (14, 0xFFFFFFFF#64), (15, 0xFFFFFFFF#64), (16, 0#64), (17, 0#64), (18, 0#64), (19, 0#64),
      (24, 0x1FFFFF#64), (25, 0x1FFFFF#64), (26, 0x1FFFFF#64), (27, 0x1FFFFF#64), (28, 0#64), (29, 0#64)]

/-- The member that writes a control register, and what it makes of the old value and its operand. -/
def csrWrites (n : Fin 30) (b : Src) (sw : Bool) : List (Instr × CsrOp × (Word → Word → Word)) :=
  [ (.csrw n b sw, .write, fun _ y => y), (.csrs n b sw, .set, fun x y => x ||| y), (.csrc n b sw, .clear, fun x y => x &&& ~~~y) ]

/-- The 512 bytes of the user context (14 R285). -/
def contextImage (t : Strand) : List Byte :=
  t.ra.toList.flatMap (fun v => lowBytes 8 v.toNat) ++ t.rl.toList.flatMap (fun v => lowBytes 8 v.toNat)
    ++ t.rn.toList.flatMap (fun v => lowBytes 8 v.toNat) ++ lowBytes 8 t.sp.toNat
    ++ t.k.toList.flatMap (fun v => lowBytes 4 v.toNat) ++ List.replicate 40 0#8 ++ t.v.toList.flatMap (fun v => lowBytes 16 v.toNat)

/-! ### The network, pages and the host (01 R23-R30; 07 R132-R139; 16; 18) -/

/-- Stops between two places of a line, and of a ring of four the shorter way (01 R24, R25). -/
def lineGap (x y : Nat) : Nat := (x - y) + (y - x)
def ringGap (x y : Nat) : Nat := Nat.min ((x + 4 - y) % 4) ((y + 4 - x) % 4)

/-- The hops that a packet at p still makes to d, on the fabric while its column differs, then on the mesh. -/
def hopsLeft (p d : Stop) : Nat :=
  if p.col = d.col then lineGap (p.stop % 4) (d.stop % 4) + lineGap (p.stop / 4) (d.stop / 4)
  else ringGap (p.col % 4) (d.col % 4) + ringGap (p.col / 4) (d.col / 4)

/-- The n bytes at b are those that stood at a, the n bytes at a are zero, and every other byte reads as before. -/
def PageMoved (s t : State) (a b : Loc) (n : Nat) : Prop :=
  ∀ k, Memory.get t.mem k =
    if b.key ≤ k ∧ k < b.key + n then Memory.get s.mem (a.key + (k - b.key))
    else if a.key ≤ k ∧ k < a.key + n then 0#8 else Memory.get s.mem k

/-- The n bytes at l are zero but for those of bs, which stand at its start, and every other byte reads as before. -/
def Filled (s t : State) (l : Loc) (n : Nat) (bs : List Byte) : Prop :=
  ∀ k, Memory.get t.mem k =
    if l.key ≤ k ∧ k < l.key + n then bs.getD (k - l.key) 0#8 else Memory.get s.mem k

/-- No cache of translations of the module holds page p of handle h. -/
def NoTranslation (t : State) (h p : Nat) : Prop :=
  (∀ k, ∀ e ∈ (t.hub k).tlb, ¬ (e.handle = h ∧ e.page = p)) ∧ (∀ k, ∀ e ∈ (t.group k).l2, ¬ (e.handle = h ∧ e.page = p))

/-- A handle entry that no condition of its map refuses (07 R132, 05 R90). -/
def EntryLegal (s : State) (d0 d1 d2 d3 : Word) : Prop :=
  let f (d : Word) (lo n : Nat) : Nat := d.toNat / 2 ^ lo % 2 ^ n
  let fmt := f d0 12 4
  let size := f d1 0 36 + 1
  let wid := f d0 24 24
  let scale := s.handle (f d3 36 24)
  f d0 0 1 = 1 ∧ f d0 5 3 ≠ 7 ∧ f d0 10 2 ≠ 3 ∧ (fmt ≤ 8 ∨ fmt = 15) ∧ f d0 16 5 ≤ 16 ∧ f d0 21 3 = 0 ∧ f d0 48 16 = 0
  ∧ f d1 36 28 = 0 ∧ f d2 0 12 = 0 ∧ size % pageSize (BitVec.ofNat 3 (f d0 5 3)) = 0
  ∧ (f d0 9 1 = 0 → fmt ≠ 7 ∧ (f d0 4 1 = 1 → f d3 24 40 = 0) ∧ (f d0 4 1 = 0 → d3 = 0#64))
  ∧ (f d0 9 1 = 1 → f d0 4 1 = 0 ∧ fmt ∈ [3, 4, 7] ∧ wid ≠ 0 ∧ f d3 60 4 = 2 ∧ scale.v = true ∧ scale.pr = true
    ∧ scale.tenant.toNat = f d0 16 5 ∧ (f d0 10 2 = 0 → wid % 256 = 0) ∧ (f d0 10 2 = 1 → wid % 16 = 0)
    ∧ (f d0 10 2 = 2 → (size * 8 / (if fmt = 7 then 4 else 8)) % (256 * wid) = 0))

/-- The entry of four dwords, field by field. -/
def EntryIs (e : Handle) (d0 d1 d2 d3 : Word) : Prop :=
  let f (d : Word) (lo n : Nat) : Nat := d.toNat / 2 ^ lo % 2 ^ n
  e.v = true ∧ e.pr = d0.getLsbD 1 ∧ e.pw = d0.getLsbD 2 ∧ e.px = d0.getLsbD 3 ∧ e.priv = d0.getLsbD 4
  ∧ e.psz.toNat = f d0 5 3 ∧ e.repl = d0.getLsbD 8 ∧ e.scl = d0.getLsbD 9 ∧ e.geo.toNat = f d0 10 2 ∧ e.fmt.toNat = f d0 12 4
  ∧ e.tenant.toNat = f d0 16 5 ∧ e.wid.toNat = f d0 24 24 ∧ e.limit.toNat = f d1 0 36 ∧ e.pmap = d2 ∧ e.ext = d3

/-- Dispatch accepts a bind record (08 R158). -/
def RecordLegal (r : BindRec) : Prop :=
  r.v = true ∧ r.x0.toNat + r.wm1.toNat ≤ 15 ∧ r.y0.toNat + r.hm1.toNat ≤ 15 ∧ 1 ≤ r.part.toNat ∧ r.part.toNat ≤ 16
  ∧ (r.lock = true → r.die = false) ∧ r.first = 0#14
  ∧ r.last.toNat + 1 = 16 * (r.wm1.toNat + 1) * (r.hm1.toNat + 1) * (r.sm1.toNat + 1)
  ∧ r.rsvd = 0#91

/-- A bound team whose rectangle the head entry may use: its slots are all bound and restored, it is not being saved, and NOSWAP
is 0 (16 R309). -/
def Candidate (s : State) (pt : Nat) (e : PendEntry) (q : Nat × Nat) : Prop :=
  let r := s.bindRec q.1 q.2
  q ∈ s.teamsOf pt ∧ r.v = true ∧ r.noswap = false ∧ r.saving = 0 ∧ s.allBound q.1 q.2 r = true
  ∧ (∀ x ∈ (s.sg q.1).restores, x.1 ≠ q.2) ∧ s.frees pt e q.1 q.2 = true

/-- A candidate with a quantum of residence at the boundary (16 R309). -/
def Victim (s : State) (pt : Nat) (e : PendEntry) (q : Nat × Nat) : Prop :=
  let quantum := 2 ^ (s.partOf pt).qshift.toNat
  Candidate s pt e q ∧ (s.bindRec q.1 q.2).since + quantum ≤ (s.partOf pt).quantaAt

/-- The longest residence first, then the lowest GRID, then the lowest team number (16 R309). -/
def Before (a b : BindRec) : Prop :=
  a.since < b.since ∨ a.since = b.since ∧ (a.grid.toNat < b.grid.toNat
    ∨ a.grid = b.grid ∧ a.team.toNat < b.team.toNat)

/-- A strand is in one of the waits of an idle team, or stalls on the pending token of a launch, for longer than so many cycles
(16 R310). -/
def IdleStrand (s : State) (t : Strand) (quantum : Nat) : Prop :=
  t.status = .free ∨ t.lastIssue + quantum < s.cycle.toNat ∧
    ((∃ ea l, t.status = .parked (.waita ea l)) ∨ (∃ v d, t.status = .parked (.waitt v d))
      ∨ (∃ l, t.status = .parked (.sleep l)) ∨ (∃ ea l, t.status = .parked (.barwait ea l))
      ∨ (∃ ea l, t.status = .parked (.join ea l)) ∨ (∃ m n d, t.status = .parked (.take .take m n d))
      ∨ (∃ n d, t.status = .parked (.twwait n d))
      ∨ (t.status = .ready ∧ t.sup = false ∧ t.pc.toNat / 2 ^ 60 = 2
        ∧ ∃ d ∈ s.launchRegs t.uid, t.pending d = true ∧ s.stalledOn t d = true))

/-- A candidate of which every strand is idle, and none waits in an arrival queue (16 R310). -/
def IdleVictim (s : State) (pt : Nat) (e : PendEntry) (q : Nat × Nat) : Prop :=
  Candidate s pt e q
  ∧ ∀ c ∈ cellsOf q.1 (s.bindRec q.1 q.2), (s.cell c).goQueue = [] ∧ ∀ k, IdleStrand s (s.strand ⟨c, k⟩) (2 ^ (s.partOf pt).qshift.toNat)

/-- Only the saving phase and NOSWAP of one bind record differ. -/
def OnlyRecord (s t : State) (g rec : Nat) (f : BindRec → BindRec) : Prop :=
  t.bindRec g rec = f (s.bindRec g rec) ∧ t.mem = s.mem ∧ t.cells = s.cells
  ∧ ∀ g' n, (g' ≠ g ∨ n ≠ rec) → t.bindRec g' n = s.bindRec g' n

/-! ### Command streams (16 R299-R303) -/

/-- n bytes of a list from an offset, little-endian. -/
def field (b : List Byte) (off n : Nat) : Nat := leNat ((b.drop off).take n)

/-- The bytes outside the named fields (offset and length) are zero. -/
def ZeroBut (b : List Byte) (named : List (Nat × Nat)) : Prop :=
  ∀ j < b.length, (∀ f ∈ named, ¬ (f.1 ≤ j ∧ j < f.1 + f.2)) → b.getD j 0#8 = 0#8

/-- b are the 64 bytes of the next command of stream n, whose turn it is among the streams of its core (16 R300). -/
def NextCmd (s : State) (n : Nat) (x : Stream) (b : List Byte) : Prop :=
  s.streamAt n = some x ∧ x.live = true ∧ x.err = 0#8 ∧ x.head < x.tail
  ∧ (∀ m y, s.streamAt m = some y → y.core = x.core → y.live = true → y.err = 0#8 → y.head < y.tail →
    s.turnOf x.core n ≤ s.turnOf x.core m)
  ∧ ∃ l, s.streamLoc x.part x.ring 64 .read = some l ∧ b = s.peek l 64

/-- The fields that every command has are in order: byte 1 holds SIG alone, SIGVAL has bit 63 zero. -/
def PlainCmd (b : List Byte) (named : List (Nat × Nat)) : Prop :=
  ZeroBut b ([(0, 2), (0x28, 16)] ++ named) ∧ field b 1 1 ≤ 1 ∧ field b 0x30 8 < 2 ^ 63

def SignalOk (s : State) (part : Nat) (b : List Byte) : Prop :=
  field b 1 1 % 2 = 0 ∨ (field b 0x28 8 / 2 ^ 60 = 3 ∧ field b 0x28 8 % 8 = 0
    ∧ (s.streamLoc part (BitVec.ofNat 64 (field b 0x28 8)) 8 .write).isSome = true)

/-- A dword of the control block has been written, where the partition's window still allows it. -/
def ControlWritten (u t : State) (x : Stream) (off v : Nat) : Prop :=
  (∀ l, u.streamLoc x.part (x.ctl + BitVec.ofNat 64 off) 8 .write = some l → StoredAt u t l (lowBytes 8 v))
  ∧ (u.streamLoc x.part (x.ctl + BitVec.ofNat 64 off) 8 .write = none → t.mem = u.mem)

/-- The stream has stopped with an error at its command, which is not taken. -/
def Stopped (s t : State) (n : Nat) (x : Stream) (err : Nat) : Prop :=
  t.streamAt n = some { x with err := BitVec.ofNat 8 err } ∧ ControlWritten s t x 0x10 err

/-- The command has been taken: HEAD is past it, it is under way, the next one lies at ring, and the turn of its core passes to
the streams after it. -/
def Took (u t : State) (n : Nat) (x : Stream) (b : List Byte) (ring : Word) (grid : Option Nat) (done : Bool) : Prop :=
  (∃ c : Cmd, t.streamAt n = some { x with head := x.head + 64, ring := ring, next := x.next + 1, cmds := x.cmds ++ [c] }
    ∧ c.index = x.next ∧ c.op = field b 0 1 ∧ c.sig = decide (field b 1 1 % 2 = 1)
    ∧ c.sigAddr.toNat = field b 0x28 8 ∧ c.sigVal.toNat = field b 0x30 8 ∧ c.grid = grid ∧ c.status = 0#8 ∧ c.done = done
    ∧ c.dst.toNat = field b 8 8 ∧ c.src.toNat = field b 0x10 8 ∧ c.len = field b 0x18 6)
  ∧ t.coreTurns.get 0 x.core = n + 1
  ∧ ControlWritten u t x 0x08 (x.head + 64)

/-! ### The host's requests (18 R334-R348) -/

/-- A request of a code waits at a function, which may issue it; the bytes of REQ that it does not name are zero. Offsets of
named fields count from 0x48. -/
def Asked (s : State) (fn code : Nat) (named : List (Nat × Nat)) : Prop :=
  s.started = true ∧ s.bar fn 0 8 ≠ s.bar fn 8 8 ∧ s.bar fn 0x40 1 = code ∧ (fn = 0 ∨ (s.partOf fn).live = true)
  ∧ ((s.partOf fn).resetting = false ∨ code = 8)
  ∧ ZeroBut (s.peek (barLoc fn 0x40) 0xC0) ((0, 1) :: named.map (fun f => (f.1 + 8, f.2)))

/-- The response stands at 0x100 and 0x108, and RESPSEQ has reached REQSEQ. -/
def Answered (s t : State) (fn result : Nat) (data : List Byte) : Prop :=
  t.bar fn 8 8 = s.bar fn 0 8 ∧ t.bar fn 0x100 8 = result ∧ t.peek (barLoc fn 0x108) data.length = data

/-- The answer of a request that has no effect: nothing but BAR0 has changed. -/
def Refused (s t : State) (fn result : Nat) (data : List Byte) : Prop :=
  Answered s t fn result data ∧ t = { s with mem := t.mem }
  ∧ ∀ l, IsPlace l → l.space ≠ .bar0 → Memory.get t.mem l.key = Memory.get s.mem l.key

/-- A request: the instruction, its code, whether only the physical function may issue it, and its named bytes. -/
def Request (fn : Fin 17) (core : Fin 16) (h : BitVec 24) (pmap : Word) (dst : Nat) (i : Instr) (code : Nat) (physical : Bool)
    (named : List (Nat × Nat)) : Prop :=
  (i, code, physical, named) ∈ ([
    (.registerStream fn core, 1, false, [(0, 16)]), (.unregisterStream fn, 2, false, [(0, 1)]),
    (.setWindow fn, 3, false, [(0, 1), (8, 32)]), (.setQuantum fn, 4, false, [(0, 1)]), (.attest fn, 5, false, [(0, 40)]),
    (.loadMuslinRoutine fn, 6, false, [(0, 1), (8, 8)]), (.endGrid fn, 7, false, [(0, 2)]),
    (.resetPartition fn, 8, false, if fn.val = 0 then [(0, 1)] else []), (.createHandle fn h pmap, 9, false, [(0, 24)]),
    (.freeHandle fn, 10, false, [(0, 3)]), (.setFillList fn dst, 11, false, [(0, 3), (8, 16)]),
    (.registerGridImage fn, 12, false, [(0, 3)]), (.retireGridImage fn, 13, false, [(0, 3)]),
    (.readCounter fn, 14, false, [(0, 1), (8, 3), (16, 1)]), (.powerState fn, 16, true, [(0, 1)]),
    (.setPartition fn, 17, true, [(0, 1), (8, 49)]), (.restart fn, 18, true, []) ] : List (Instr × Nat × Bool × List (Nat × Nat)))

/-- The bits of a window entry that must be zero, and RED 0 to 4 (18 R341). -/
def WindowZeros (w : WindowEntry) : Prop :=
  let f (d : Word) (lo n : Nat) : Nat := d.toNat / 2 ^ lo % 2 ^ n
  f w.d0 7 1 = 0 ∧ f w.d0 56 8 = 0 ∧ f w.d1 56 8 = 0 ∧ f w.d2 56 8 = 0 ∧ f w.d0 4 3 ≤ 4

/-- A valid window entry that a partition may have (18 R341). -/
def WindowLegal (s : State) (part n : Nat) (w : WindowEntry) : Prop :=
  let f (d : Word) (lo n : Nat) : Nat := d.toNat / 2 ^ lo % 2 ^ n
  let base := f w.d1 0 56
  let size := f w.d2 0 56
  (f w.d0 4 3 ≠ 0 → f w.d0 3 1 = 1 ∧ 2 ≤ f w.d0 16 8 ∧ f w.d0 24 8 < f w.d0 16 8 ∧ 1 ≤ f w.d0 48 8)
  ∧ base % 4096 = 0 ∧ size % 4096 = 0 ∧ 4096 ≤ size ∧ base + size ≤ 2 ^ 56
  ∧ ∀ e ∈ (s.partOf part).windows, e.1 ≠ n → e.2.d0.getLsbD 0 = true → f e.2.d0 3 1 = f w.d0 3 1 →
    f e.2.d1 0 56 + f e.2.d2 0 56 ≤ base ∨ base + size ≤ f e.2.d1 0 56

/-- A reset of a partition is under way: STATUS reads 2, and its streams, teams, packets and grids are gone (18 R334, R348). -/
def ResetBegun (t : State) (pt : Nat) : Prop :=
  (t.partOf pt).resetting = true ∧ (t.partOf pt).pending = [] ∧ t.bar pt 0x10 1 = 2
  ∧ (∀ n x, t.streamAt n = some x → x.part = pt → x.live = false)
  ∧ (∀ g n, (t.bindRec g n).v = true → (t.bindRec g n).part.toNat ≠ pt)
  ∧ (∀ f ∈ t.net, f.part ≠ pt) ∧ (∀ k, (t.grid k).part ≠ pt)

/-- A partition is gone: not live, with no window, key or valid handle, and the bytes of its pages zero, those of a handle that
was being freed among them (18 R348). -/
def PartitionGone (s t : State) (pt : Nat) : Prop :=
  (t.partOf pt).live = false ∧ (t.partOf pt).resetting = false ∧ (t.partOf pt).windows = [] ∧ (t.partOf pt).key = false
  ∧ t.bar pt 0x10 1 = (if s.minimal then 1 else 0)
  ∧ ∀ h, ((s.handle h).v = true ∧ (s.handle h).tenant.toNat = pt ∨ (s.partOf pt).freeing = some h) → (t.handle h).v = false ∧ (∀ p, NoTranslation t h p)
    ∧ ∀ p, s.pageOfKey (s.pageKey h p) = some (h, s.handle h) → (s.page h p).p = true → ∀ o < pageSize (s.handle h).psz,
      Memory.get t.mem ((pageLoc (s.page h p) 0).key + o) = 0#8

/-- A grid image's header in order (18 R339, R340). -/
def ImageLegal (s : State) (part h : Nat) (b : List Byte) : Prop :=
  let f := field b
  let own (n : Nat) : Prop := (s.handle n).v = true ∧ (s.handle n).tenant.toNat = part
  let code := s.handle (f 8 3)
  f 0 2 = 1
  ∧ ZeroBut b [(0, 2), (8, 3), (0x10, 3), (0x18, 8), (0x20, 2), (0x28, 1), (0x30, 8), (0x40, 64), (0x80, 64)]
  ∧ f 0x20 2 < 2 ^ 11 ∧ own (f 8 3) ∧ code.pr = true ∧ code.px = true ∧ (f 0x10 3 = 0 ∨ own (f 0x10 3))
  ∧ (∀ k < 8, f (0x83 + 8 * k) 5 = 0 ∧ (f (0x80 + 8 * k) 3 = 0 ∨ own (f (0x80 + 8 * k) 3)))
  ∧ f 0x1C 4 ≤ (if f 0x20 2 / 2 ^ 10 % 2 = 1 then 0xB000 else 0xC000) ∧ f 0x18 4 % 64 = 0
  ∧ f 0x18 4 + f 0x1C 4 ≤ (s.handle h).limit.toNat + 1 ∧ f 0x30 4 % 4096 = 0 ∧ f 0x34 4 % 4096 = 0
  ∧ ∀ k < 8, if f 0x28 1 / 2 ^ k % 2 = 0 then f (0x40 + 8 * k) 8 = 0
    else f (0x40 + 8 * k) 8 % 4 = 1 ∧ f (0x40 + 8 * k) 8 / 4 * 4 ≤ code.limit.toNat

/-- The counters of 08 R165 in the order of its table, of a unit. -/
def counterRows (s : State) (unit : Nat) : List Nat :=
  let x := s.cell unit
  let h := s.hub (unit / 16)
  let g := s.group (unit / 256)
  let p := s.pair unit
  [ x.msgdisc.toNat, x.hlong.toNat, x.gobounce.toNat, h.steps.toNat, h.hireCount.toNat, h.accerr.toNat, h.htcmiss.toNat,
    h.pagewait.toNat, h.drycyc.toNat, g.wrestart.toNat, g.wrlock.toNat, p.lstrans.toNat, p.lslast.toNat,
    (s.partOf unit).heatuse.toNat ]

/-- The unit that a counter is read of: a cell, cell 0 of a tile or group, a lower cell, or a partition (18 R337). -/
def UnitLegal (n unit : Nat) : Prop :=
  let cell := unit < 16 * 65536 ∧ unit / 4096 % 8 < 5
  if n = 13 then 1 ≤ unit ∧ unit ≤ 16
  else if n < 3 then cell
  else if n < 9 then cell ∧ unit % 16 = 0
  else if n < 11 then cell ∧ unit % 256 = 0
  else cell ∧ unit / 32768 % 2 = 0

/-! ### Power, start, ports (18 R343-R356) -/

/-- RATE, CEIL and VSP of the power states 0 to 4 (18 R355). -/
def powerRows : List (Nat × Nat × Nat) :=
  [(2048, 4096, 4), (1024, 4096, 2), (256, 1024, 1), (512, 2048, 4), (0, 0, 8)]

/-- A part that has been reset: every memory of it zero, every register and table at its reset value; host and peer memory,
and what keeps without power, as before (07 R144). -/
def WasReset (s t : State) : Prop :=
  t = { State.reset with tick := s.tick, turn := s.turn, cur := s.cur, uids := s.uids, mem := t.mem,
                         failedStarts := s.failedStarts, startReasons := s.startReasons, signatures := s.signatures,
                         full := t.full }
  ∧ ∀ l, IsPlace l → Memory.get t.mem l.key =
      if l.space = .host ∨ l.space = .peer then Memory.get s.mem l.key else 0#8

/-- A share of a layer fits beside those of the live partitions. -/
def ShareFits (s : State) (held : Part → Nat) (layer asked : Nat) : Prop :=
  (s.parts.map (fun e => if e.2.live then held e.2 else 0)).sum + asked ≤ 16 * layerSize layer
end Sys2Proof.Claims

open Sys2Proof Sys2Proof.Machine Sys2Proof.Claims

/-! ### Scalar members (09) -/

/-- 09 R169, codes 0 to 28, both widths: with its operands there, each member puts the table's value in D and ends. -/
def Sys2Proof.Claims.IntResults : Prop :=
  ∀ (s : State) (w : Bool) (d a : SReg) (b : Src) (sw : Bool), ∀ r ∈ intRows s w d a b sw, Clear s r → Written s r

/-- 09 R169, codes 29 to 40. -/
def Sys2Proof.Claims.UnaryResults : Prop :=
  ∀ (s : State) (d a : SReg) (sw : Bool), ∀ r ∈ unaryRows s d a sw, Clear s r → Written s r

/-- 09 R170 and R171: the immediate forms and the bit fields. -/
def Sys2Proof.Claims.ImmediateResults : Prop :=
  ∀ (s : State) (d a : SReg) (im : Imm) (n p wm1 : BitVec 6) (sw : Bool), p.toNat + wm1.toNat + 1 ≤ 64 →
    ∀ r ∈ immRows s d a im n sw ++ fieldRows s d a p wm1 sw, Clear s r → Written s r

/-- 09 R172: address arithmetic. -/
def Sys2Proof.Claims.AddressResults : Prop :=
  ∀ (s : State) (d a : SReg) (b : Src) (sw : Bool), ∀ r ∈ leaRows s d a b sw, Clear s r → Written s r

/-- 06 R113 and R110, of every scalar member: on a pending source or destination the strand stalls and nothing changes;
with a y register of an absent twin among the sources the value is on its way to D, and the instruction ends. -/
def Sys2Proof.Claims.ScalarInterlocks : Prop :=
  ∀ (s : State) (w : Bool) (d a : SReg) (b : Src) (im : Imm) (n p wm1 : BitVec 6) (sw : Bool),
    p.toNat + wm1.toNat + 1 ≤ 64 → ∀ r ∈ scalarRows s w d a b im n p wm1 sw,
    (s.me.anyPending (r.d :: r.reads) = true → exec r.ins s = .next s)
    ∧ (s.me.anyPending (r.d :: r.reads) = false → r.reads.any (awayY s) = true →
      Goes r.ins s (fun t => ∃ v f, r.ok v ∧ t.net = s.net ++ [f] ∧ f.who = s.cur ∧ f.uid = s.me.uid
        ∧ f.body = .reply (.reg r.d s.me.sup .zext) (leBytes 8 v.toNat) none
        ∧ RegsSame s t [] ∧ Ended s t r.words r.sw))

/-- The frame of every scalar member: whenever it goes on, only D, the pc and what the end of an instruction writes have
changed. -/
def Sys2Proof.Claims.ScalarFrame : Prop :=
  ∀ (s t : State) (w : Bool) (d a : SReg) (b : Src) (im : Imm) (n p wm1 : BitVec 6) (sw : Bool),
    ∀ r ∈ scalarRows s w d a b im n p wm1 sw, exec r.ins s = .next t → OnlyReg s t r.d ∧ (t.strand s.cur).hold = s.me.hold

/-! ### Transfers (09 R174-R179, 06 R108) -/

/-- 09 R174, R175, R176: where branches, LOOP, JMP and JMPR go, and what LOOP writes; JMPR's ALIGN. -/
def Obligations.Transfers : Prop :=
  ∀ (s : State) (a : SReg) (disp : BitVec 17) (d22 : BitVec 22) (sw : Bool), s.me.anyPending [a] = false →
    (∀ r ∈ branchRows a disp sw (s.reg a),
      (r.2 → Goes r.1 s (fun t => Jumped s t (dispTarget s disp) sw ∧ RegsSame s t []))
      ∧ (¬ r.2 → Goes r.1 s (fun t => Ended s t 1 sw ∧ RegsSame s t [])))
    ∧ (s.reg a ≠ 1#64 → Goes (.loop a disp sw) s (fun t =>
        Holds s t a (s.reg a - 1#64) ∧ RegsSame s t [a] ∧ Jumped s t (dispTarget s disp) sw))
    ∧ (s.reg a = 1#64 → Goes (.loop a disp sw) s (fun t => Holds s t a 0#64 ∧ RegsSame s t [a] ∧ Ended s t 1 sw))
    ∧ Goes (.jmp d22 sw) s (fun t => Jumped s t (dispTarget s d22) sw ∧ RegsSame s t [])
    ∧ ((s.reg a).toNat % 4 = 0 → Goes (.jmpr a sw) s (fun t => Jumped s t (s.reg a) sw ∧ RegsSame s t []))
    ∧ ((s.reg a).toNat % 4 ≠ 0 → Traps (.jmpr a sw) s 0x06 (s.reg a))

/-- 09 R178: once nothing is outstanding and no register is pending, CALL and CALLR move the window, or raise SPILL when
three windows are resident below; in a handler they raise ILL. -/
def Sys2Proof.Claims.Calls : Prop :=
  ∀ (s : State) (d22 : BitVec 22) (a : SReg) (sw : Bool),
    (s.cur.slot ≠ 4 → s.owes s.me.uid = false → s.me.pend = 0#24 → s.me.lower.length ≠ 3 →
      Goes (.call d22 sw) s (fun t => Called s t s.cur (dispTarget s d22))
      ∧ ((s.reg a).toNat % 4 = 0 → Goes (.callr a sw) s (fun t => Called s t s.cur (s.reg a))))
    ∧ (s.cur.slot ≠ 4 → s.owes s.me.uid = false → s.me.pend = 0#24 → s.me.lower.length = 3 →
      Traps (.call d22 sw) s 0x09 0#64 ∧ ((s.reg a).toNat % 4 = 0 → Traps (.callr a sw) s 0x09 0#64))
    ∧ (s.cur.slot ≠ 4 → s.me.anyPending [a] = false → (s.reg a).toNat % 4 ≠ 0 → Traps (.callr a sw) s 0x06 (s.reg a))
    ∧ (s.cur.slot = 4 → Traps (.call d22 sw) s 0x01 (firstWord (.call d22 sw))
      ∧ Traps (.callr a sw) s 0x01 (firstWord (.callr a sw)) ∧ Traps (.ret sw) s 0x01 (firstWord (.ret sw)))

/-- 09 R179: RET with a window below moves back to it; at the bottom of the resident windows it raises FILL, or with
nothing spilled waits as EXIT does; ALIGN of a7 comes first. -/
def Sys2Proof.Claims.Returns : Prop :=
  ∀ (s : State) (sw : Bool), s.cur.slot ≠ 4 → s.owes s.me.uid = false → s.me.pend = 0#24 →
    (s.me.lower ≠ [] → s.me.ra[(7 : Fin 8)].toNat % 4 = 0 → Goes (.ret sw) s (fun t => Returned s t s.cur))
    ∧ (s.me.lower = [] → s.me.wspill = 0#32 → Goes (.ret sw) s (fun t => (t.strand s.cur).status = .parked .exit
        ∧ RegsSame s t []))
    ∧ (s.me.lower = [] → s.me.wspill ≠ 0#32 → s.me.ra[(7 : Fin 8)].toNat % 4 = 0 → Traps (.ret sw) s 0x0A 0#64)
    ∧ (s.me.lower ≠ [] ∨ s.me.wspill ≠ 0#32 → s.me.ra[(7 : Fin 8)].toNat % 4 ≠ 0 →
        Traps (.ret sw) s 0x06 s.me.ra[(7 : Fin 8)])

/-- 06 R108: while a result is outstanding or a register is pending, CALL, CALLR and RET only park; the window moves at the
event that finds both conditions over. -/
def Sys2Proof.Claims.WindowMoves : Prop :=
  ∀ (s : State) (d22 : BitVec 22) (a : SReg) (sw : Bool),
    (s.cur.slot ≠ 4 → (s.owes s.me.uid = true ∨ s.me.pend ≠ 0#24) →
      Goes (.call d22 sw) s (fun t => (t.strand s.cur).status = .parked (.window (.call (dispTarget s d22)))
        ∧ (t.strand s.cur).pc = s.me.pc ∧ RegsSame s t [])
      ∧ (s.me.anyPending [a] = false → (s.reg a).toNat % 4 = 0 →
        Goes (.callr a sw) s (fun t => (t.strand s.cur).status = .parked (.window (.call (s.reg a)))
          ∧ (t.strand s.cur).pc = s.me.pc ∧ RegsSame s t []))
      ∧ Goes (.ret sw) s (fun t => (t.strand s.cur).status = .parked (.window .ret)
        ∧ (t.strand s.cur).pc = s.me.pc ∧ RegsSame s t []))
    ∧ ∀ (c : Nat) (k : Fin 5), s.owes (s.strand ⟨c, k⟩).uid = false → (s.strand ⟨c, k⟩).pend = 0#24 →
      (∀ target, (s.strand ⟨c, k⟩).status = .parked (.window (.call target)) → (s.strand ⟨c, k⟩).lower.length ≠ 3 →
        Goes (.windowMove c k) s (fun t => Called s t ⟨c, k⟩ target ∧ OthersSame s t ⟨c, k⟩ ∧ MemorySame s t))
      ∧ ((s.strand ⟨c, k⟩).status = .parked (.window .ret) → (s.strand ⟨c, k⟩).lower ≠ [] →
        (s.strand ⟨c, k⟩).ra[(7 : Fin 8)].toNat % 4 = 0 →
        Goes (.windowMove c k) s (fun t => Returned s t ⟨c, k⟩ ∧ OthersSame s t ⟨c, k⟩ ∧ MemorySame s t))

/-- The frame of the transfers: only the issuing strand can change, and of memory nothing; a branch, LOOP, JMP or JMPR that
does not trap leaves every register but LOOP's own. -/
def Obligations.TransferFrame : Prop :=
  ∀ (s t : State) (a : SReg) (disp : BitVec 17) (d22 : BitVec 22) (sw : Bool),
    (∀ i ∈ [Instr.bz a disp sw, .bnz a disp sw, .bltz a disp sw, .bgez a disp sw, .loop a disp sw, .jmp d22 sw],
      exec i s = .next t → OnlyReg s t a)
    ∧ (∀ i ∈ [Instr.jmpr a sw, .call d22 sw, .callr a sw, .ret sw], exec i s = .next t →
      OthersSame s t s.cur ∧ RestSame s t ∧ MemorySame s t ∧ (∀ c n, t.yreg c n = s.yreg c n)
        ∧ (t.strand s.cur).v = s.me.v ∧ (t.strand s.cur).k = s.me.k ∧ (t.strand s.cur).sp = s.me.sp
        ∧ (t.strand s.cur).fmode = s.me.fmode ∧ (t.strand s.cur).rmode = s.me.rmode ∧ (t.strand s.cur).tsm = s.me.tsm
        ∧ (t.strand s.cur).tvec = s.me.tvec ∧ (t.strand s.cur).wspill = s.me.wspill)

/-! ### Loads, stores and atomics as they issue (10 R181-R185, R189, R191; 07 R125-R127) -/

/-- 10 R181, R184: once the address passes its checks, a load or store leaves for its memory as one request, and the strand
goes on; registers and memory change only when the request is performed. -/
def Obligations.AccessIssue : Prop :=
  ∀ (s : State) (d a : SReg) (v : VReg) (off : Imm) (b : Src) (sw : Bool), ∀ r ∈ accessRows s d a v off b sw,
    s.me.anyPending r.reads = false → ∀ l u, s.check (s.whoAt s.cur) r.ea r.n r.n r.perm noPromote = .ok l u →
    u.blocked s.me.dcls s.cur.cell l = false → (r.perm = .read → u.awaitsHeld s.cur l r.n r.ea = false) →
    Goes r.ins s (fun t => Sent s t r.op l r.n r.ea ∧ RegsSame s t [] ∧ t.mem = u.mem ∧ Ended s t r.words r.sw)

/-- 07 R127, 06 R113, 01 R30: what else an access can do: stall on a pending register, on a walk or a page in transit, or
while its class is closed; park for the pager; or take the precise trap of the failed check with its address in EVAL. In a
lockstep pair a load of what the pair holds takes a checkpoint first (the model's choice, log 9). -/
def Sys2Proof.Claims.AccessOutcomes : Prop :=
  ∀ (s : State) (d a : SReg) (v : VReg) (off : Imm) (b : Src) (sw : Bool), ∀ r ∈ accessRows s d a v off b sw,
    (s.me.anyPending r.reads = true → exec r.ins s = .next s)
    ∧ (s.me.anyPending r.reads = false →
      (∀ l u, s.check (s.whoAt s.cur) r.ea r.n r.n r.perm noPromote = .ok l u →
        u.blocked s.me.dcls s.cur.cell l = true → exec r.ins s = .next u)
      ∧ (∀ l u, s.check (s.whoAt s.cur) r.ea r.n r.n r.perm noPromote = .ok l u →
        u.blocked s.me.dcls s.cur.cell l = false → r.perm = .read → u.awaitsHeld s.cur l r.n r.ea = true →
        exec r.ins s = .next (u.checkpoint s.cur))
      ∧ (∀ u, s.check (s.whoAt s.cur) r.ea r.n r.n r.perm noPromote = .stall u → exec r.ins s = .next u)
      ∧ (∀ h p u, s.check (s.whoAt s.cur) r.ea r.n r.n r.perm noPromote = .absent h p u →
        Goes r.ins s (fun t => (t.strand s.cur).status = .parked (.page h p) ∧ (t.strand s.cur).pc = s.me.pc
          ∧ t.pageWaits = u.pageWaits))
      ∧ (∀ c ev u, s.check (s.whoAt s.cur) r.ea r.n r.n r.perm noPromote = .bad c ev u →
        Goes r.ins s (fun t => Trapped s t s.cur c.code ev ∧ ev = r.ea)))

/-- 07 R125 to R127, 18 R342, in order: the class and its zero fields (ADDR), alignment (ALIGN); of the own cell and of another
of the team, named by its home number, the lockstep reserve (PROT), and of any other cell PROT; for a window its kind (ADDR),
its presence, permission and end (PROT), and the place it maps to; and for a handle its entry and owner (PROT), its limit (ADDR),
its privacy (PRIVMEM), its permission (PROT). A window of a reduction admits no access but a copy's (18 R344). -/
def Sys2Proof.Claims.AddressChecks : Prop :=
  ∀ (s : State) (w : Who) (ea : Word) (n al : Nat) (p : Perm), 0 < al →
    (4 ≤ ea.toNat / 2 ^ 60 → s.check w ea n al p noPromote = .bad .addr ea s)
    ∧ (ea.toNat / 2 ^ 60 = 0 → 0xC000 ≤ ea.toNat → s.check w ea n al p noPromote = .bad .addr ea s)
    ∧ (ea.toNat < 0xC000 → ea.toNat % al ≠ 0 → s.check w ea n al p noPromote = .bad .align ea s)
    ∧ (ea.toNat < 0xC000 → ea.toNat % al = 0 → w.lock = true → 0xB000 ≤ ea.toNat →
      s.check w ea n al p noPromote = .bad .prot ea s)
    ∧ (ea.toNat < 0xC000 → ea.toNat % al = 0 → (w.lock = false ∨ ea.toNat < 0xB000) →
      s.check w ea n al p noPromote = .ok ⟨.local, w.slot.cell, ea.toNat⟩ s)
    ∧ (ea.toNat / 2 ^ 60 = 1 →
      let id := ea.toNat / 2 ^ 56 % 16 * 65536 + ea.toNat / 2 ^ 40 % 65536
      let off := ea.toNat % 65536
      let named := ea.toNat / 65536 % 2 ^ 24 = 0 ∧ off < 0xC000 ∧ id / 4096 % 8 < 5
      (¬ named → s.check w ea n al p noPromote = .bad .addr ea s)
      ∧ (named → ea.toNat % al ≠ 0 → s.check w ea n al p noPromote = .bad .align ea s)
      ∧ (named → ea.toNat % al = 0 → s.teamCell w.slot.cell id = none → s.check w ea n al p noPromote = .bad .prot ea s)
      ∧ (named → ea.toNat % al = 0 → ∀ c, s.teamCell w.slot.cell id = some c →
        (w.lock = true → 0xB000 ≤ off → s.check w ea n al p noPromote = .bad .prot ea s)
        ∧ ((w.lock = false ∨ off < 0xB000) → s.check w ea n al p noPromote = .ok ⟨.local, c, off⟩ s)))
    ∧ (ea.toNat / 2 ^ 60 = 3 →
      let kind := ea.toNat / 2 ^ 56 % 16
      let off := ea.toNat % 2 ^ 56
      (2 ≤ kind → s.check w ea n al p noPromote = .bad .addr ea s)
      ∧ (kind < 2 → ea.toNat % al ≠ 0 → s.check w ea n al p noPromote = .bad .align ea s)
      ∧ (kind < 2 → ea.toNat % al = 0 → s.windowAt w.part kind off = none → s.check w ea n al p noPromote = .bad .prot ea s)
      ∧ (kind < 2 → ea.toNat % al = 0 → ∀ x, s.windowAt w.part kind off = some x →
        let admits := match p with | .read | .readHome => x.canRead = true | .write => x.canWrite = true | .exec => False
        let at' := x.d3.toNat + (off - x.base)
        (¬ admits ∨ x.base + x.size < off + n ∨ x.red ≠ 0 → s.check w ea n al p noPromote = .bad .prot ea s)
        ∧ (admits → off + n ≤ x.base + x.size → x.red = 0 → s.check w ea n al p noPromote =
          .ok (if kind = 0 then ⟨.host, w.part, at' % 2 ^ 64⟩ else ⟨.peer, x.d3.toNat / 2 ^ 48, at' % 2 ^ 48⟩) s)))
    ∧ (ea.toNat / 2 ^ 60 = 2 →
      let h := ea.toNat / 2 ^ 36 % 2 ^ 24
      let off := ea.toNat % 2 ^ 36
      let e := s.handle h
      let okPerm := match p with | .read | .readHome => e.pr | .write => e.pw | .exec => e.px
      let stranger := e.priv = true ∧ w.sup = false
        ∧ (e.ext.toNat % 2 ^ 24 = 0 ∨ e.ext.toNat % 2 ^ 24 ≠ w.splh.toNat / 2 ^ 36 % 2 ^ 24)
      (h = 0 → s.check w ea n al p noPromote = .bad .addr ea s)
      ∧ (h ≠ 0 → ea.toNat % al ≠ 0 → s.check w ea n al p noPromote = .bad .align ea s)
      ∧ (h ≠ 0 → ea.toNat % al = 0 → (e.v = false ∨ e.tenant.toNat ≠ w.part) →
        s.check w ea n al p noPromote = .bad .prot ea s)
      ∧ (h ≠ 0 → ea.toNat % al = 0 → e.v = true → e.tenant.toNat = w.part → e.limit.toNat + 1 < off + n →
        s.check w ea n al p noPromote = .bad .addr ea s)
      ∧ (h ≠ 0 → ea.toNat % al = 0 → e.v = true → e.tenant.toNat = w.part → off + n ≤ e.limit.toNat + 1 → stranger →
        s.check w ea n al p noPromote = .bad .privmem ea s)
      ∧ (h ≠ 0 → ea.toNat % al = 0 → e.v = true → e.tenant.toNat = w.part → off + n ≤ e.limit.toNat + 1 → ¬ stranger →
        okPerm = false → s.check w ea n al p noPromote = .bad .prot ea s))

/-- 10 R183: LDF and STF to an address with an element format, its scale bytes found where it has a scale plane: one
request for 16 elements; STF carries the 16 f16 lanes of vD and vD+8. A raw format never moves data: PROT, once the checks
before that of its permission have passed. -/
def Sys2Proof.Claims.ElementAccess : Prop :=
  ∀ (s : State) (d : VReg) (a : SReg) (off : Imm) (sw : Bool) (fmt : Nat) (l : Loc) (u u2 : State) (scales : List (Loc × Word)),
    s.me.anyPending [a] = false → s.formatAt (baseOff (s.reg a) off 1) = some fmt →
    let ea := baseOff (s.reg a) off 1
    let n := elemBits fmt * 2
    (fmt < 9 → s.check (s.whoAt s.cur) ea n n .read noPromote = .ok l u →
      u.scalesAt (u.whoAt u.cur) fmt ea 0 16 = (scales, none, u2) → u2.blocked s.me.dcls s.cur.cell l = false →
      u2.awaitsHeld s.cur l n ea = false → (∀ m ∈ scales, u2.awaitsHeld s.cur m.1 1 m.2 = false) →
      Goes (.ldf d a off sw) s (fun t => ∃ scl, Sent s t (.load (.ldf d fmt scl s.me.fmode s.me.rmode) scales) l n ea
        ∧ RegsSame s t [] ∧ (t.strand s.cur).progValid = false ∧ Ended s t (immWords off) sw))
    ∧ (fmt < 9 → s.me.progValid = false → s.check (s.whoAt s.cur) ea n n .write noPromote = .ok l u →
      u.blocked s.me.dcls s.cur.cell l = false → u.scalesAt (u.whoAt u.cur) fmt ea 0 16 = (scales, none, u2) →
      Goes (.stf d a off sw) s (fun t => ∃ lanes draws,
        Sent s t (.stf fmt lanes s.me.fmode s.me.rmode draws scales) l n ea
        ∧ (∀ j, j < 8 → lanes[j]? = some (s.me.v[d].extractLsb' (16 * j) 16))
        ∧ (∀ j, j < 8 → lanes[8 + j]? = some (s.me.v[(Fin.ofNat 16 (d.val + 8) : Fin 16)].extractLsb' (16 * j) 16))
        ∧ lanes.length = 16 ∧ RegsSame s t [] ∧ Ended s t (immWords off) sw))
    ∧ (9 ≤ fmt →
      let h := ea.toNat / 2 ^ 36 % 2 ^ 24
      let o := ea.toNat % 2 ^ 36
      (h = 0 → Traps (.ldf d a off sw) s 0x03 ea ∧ Traps (.stf d a off sw) s 0x03 ea)
      ∧ (h ≠ 0 → s.checkHandle (s.whoAt s.cur) h o 1 .read = none → Traps (.ldf d a off sw) s 0x04 ea)
      ∧ (h ≠ 0 → ∀ c, s.checkHandle (s.whoAt s.cur) h o 1 .read = some c → c.code ∈ [0x03, 0x04, 0x05] ∧ Traps (.ldf d a off sw) s c.code ea)
      ∧ (h ≠ 0 → s.checkHandle (s.whoAt s.cur) h o 1 .write = none → Traps (.stf d a off sw) s 0x04 ea)
      ∧ (h ≠ 0 → ∀ c, s.checkHandle (s.whoAt s.cur) h o 1 .write = some c →
        c.code ∈ [0x03, 0x04, 0x05] ∧ Traps (.stf d a off sw) s c.code ea))

/-- 10 R184, R185: PREF ends and changes no register and no byte, and an absent page it may read is asked for; HINT of an
address that is no class 2 address raises ADDR, and otherwise asks for every page of its range that is absent or in
LPDDR. -/
def Sys2Proof.Claims.PrefetchAndHint : Prop :=
  ∀ (s : State) (a : SReg) (b : Src) (len : BitVec 36) (sw : Bool),
    (s.me.anyPending (a :: b.regs) = false →
      Goes (.pref a b sw) s (fun t => Ended s t b.words sw ∧ RegsSame s t [] ∧ t.mem = s.mem
        ∧ (let ea := s.reg a + s.src b
           let h := ea.toNat / 2 ^ 36 % 2 ^ 24
           let p := ea.toNat % 2 ^ 36 / pageSize (s.handle h).psz
           ea.toNat / 2 ^ 60 = 2 → h ≠ 0 → s.checkHandle (s.whoAt s.cur) h (ea.toNat % 2 ^ 36) 1 .read = none →
             (s.page h p).p = false → ∃ w ∈ t.pageWaits, w.handle = h ∧ w.page = p)))
    ∧ (s.me.anyPending [a] = false → (s.reg a).toNat / 2 ^ 60 ≠ 2 → Traps (.hint a len sw) s 0x03 (s.reg a))
    ∧ (s.me.anyPending [a] = false → (s.reg a).toNat / 2 ^ 60 = 2 →
      Goes (.hint a len sw) s (fun t => Ended s t 3 sw ∧ RegsSame s t [] ∧ t.mem = s.mem
        ∧ (let h := (s.reg a).toNat / 2 ^ 36 % 2 ^ 24
           let off := (s.reg a).toNat % 2 ^ 36
           let e := s.handle h
           e.v = true → e.tenant.toNat = s.partAt s.cur.cell → ∀ x, off ≤ x → x < off + len.toNat → x ≤ e.limit.toNat →
             let p := x / pageSize e.psz
             ((s.page h p).p = false ∨ (s.page h p).layer = 2#2) → ∃ w ∈ t.pageWaits, w.handle = h ∧ w.page = p)))

/-- 10 R189, 02 R47: an atomic whose address passes its checks leaves as one request with its operands; of a strand of a
lockstep pair whose twins agree it stands between two checkpoints when it returns a value. Class 3 raises ADDR. -/
def Sys2Proof.Claims.AtomicIssue : Prop :=
  ∀ (s : State) (w : Bool) (d a : SReg) (b : Src) (sw : Bool), s.me.anyPending (d :: a :: b.regs) = false →
    ∀ r ∈ atomicRows w d a b sw,
      let dest := if d = .zr then Dest.none else .reg d s.me.sup r.2.2.2.2
      let op := MemOp.atomic r.2.1 r.2.2.1 (s.src b) (s.reg d) dest s.me.fmode
      let n := r.2.2.2.1
      ((s.reg a).toNat / 2 ^ 60 = 3 → Traps r.1 s 0x03 (s.reg a))
      ∧ ∀ l u, (s.reg a).toNat / 2 ^ 60 ≠ 3 →
        s.check (s.whoAt s.cur) (s.reg a) n n .write (fun layer => layer == 2) = .ok l u →
        u.blocked s.me.dcls s.cur.cell l = false →
        ((s.me.lock = false ∨ d = .zr) → Goes r.1 s (fun t => Sent s t op l n (s.reg a) ∧ RegsSame s t []
          ∧ Ended s t b.words sw))
        ∧ (s.me.lock = true → d ≠ .zr → (u.pair (pairOf s.cur.cell)).diverged = false →
          Goes r.1 s (fun t => (∃ f, t.net.getLast? = some f ∧ f.body = .mem op l n (s.reg a) ∧ f.who = s.cur)
            ∧ (t.pair (pairOf s.cur.cell)).checkpoints = (u.pair (pairOf s.cur.cell)).checkpoints + 2
            ∧ RegsSame s t []))

/-- 10 R191: FSHIP to a word of a handle whose page is absent or translated leaves for the muslin core with its operands; its
checks up to permission are precise. -/
def Sys2Proof.Claims.ShipIssue : Prop :=
  ∀ (s : State) (q : BitVec 6) (nr : Bool) (d a : SReg) (b : Src) (sw : Bool),
    s.me.anyPending (d :: a :: b.regs) = false →
    let ea := s.reg a
    let h := ea.toNat / 2 ^ 36 % 2 ^ 24
    let off := ea.toNat % 2 ^ 36
    (ea.toNat / 2 ^ 60 ≠ 2 → Traps (.fship q nr d a b sw) s 0x03 ea)
    ∧ (ea.toNat / 2 ^ 60 = 2 → h ≠ 0 → ea.toNat % 8 ≠ 0 → Traps (.fship q nr d a b sw) s 0x06 ea)
    ∧ (ea.toNat / 2 ^ 60 = 2 → h ≠ 0 → ea.toNat % 8 = 0 → ∀ c, s.checkHandle (s.whoAt s.cur) h off 8 .write = some c →
      Traps (.fship q nr d a b sw) s c.code ea)
    ∧ (ea.toNat / 2 ^ 60 = 2 → h ≠ 0 → ea.toNat % 8 = 0 → s.checkHandle (s.whoAt s.cur) h off 8 .write = none →
      (s.me.lock = false ∨ nr = true) → s.classClosed s.me.dcls = false →
      (s.page h (off / pageSize (s.handle h).psz)).p = false
        ∨ (∃ u, s.translate (.slot s.cur) (tileOf s.cur.cell) (s.partAt s.cur.cell) h (off / pageSize (s.handle h).psz)
          (s.handle h).psz.toNat = (true, u)) →
      Goes (.fship q nr d a b sw) s (fun t => ∃ dest l,
        let x := s.page h (off / pageSize (s.handle h).psz)
        Sent s t (.fship q.toNat (s.src b) (s.reg d) dest s.me.fmode d.code
          (x.p && x.layer == 1#2 && !x.transit && !x.clear)) l 8 ea
        ∧ (dest = .none ↔ nr = true) ∧ RegsSame s t [] ∧ t.mem = s.mem ∧ Ended s t b.words sw))

/-- The frame of every instruction that sends a request: whenever it goes on, no other strand and no place of memory has
changed, and of its own strand no vector or mask register and no window register; the supervisor bank and the trap
registers change only with a trap. -/
def Obligations.RequestFrame : Prop :=
  ∀ (s t : State) (d a : SReg) (v : VReg) (off : Imm) (b : Src) (w : Bool) (q : BitVec 6) (nr sw : Bool),
    s.memOk → s.cur.cell < 2 ^ 20 → (s.me.lock = false ∨ (s.pair (pairOf s.cur.cell)).diverged = false) →
    ∀ i ∈ (accessRows s d a v off b sw).map Access.ins ++ (atomicRows w d a b sw).map Prod.fst
      ++ [.fship q nr d a b sw, .ldf v a off sw, .stf v a off sw, .pref a b sw],
    exec i s = .next t →
      OthersSame s t s.cur ∧ PlacesSame s t ∧ (t.strand s.cur).v = s.me.v ∧ (t.strand s.cur).k = s.me.k
      ∧ (t.strand s.cur).sp = s.me.sp ∧ (t.strand s.cur).ra = s.me.ra ∧ (t.strand s.cur).rl = s.me.rl
      ∧ (t.strand s.cur).rn = s.me.rn ∧ (t.strand s.cur).lower = s.me.lower
      ∧ (t.strand s.cur).tvec = s.me.tvec ∧ (t.strand s.cur).wspill = s.me.wspill
      ∧ (t.strand s.cur).fmode = s.me.fmode ∧ (t.strand s.cur).rmode = s.me.rmode
      ∧ ((∃ c ev, Trapped s t s.cur c ev) ∨ (RegsSame s t [] ∧ (t.strand s.cur).sup = s.me.sup
        ∧ (t.strand s.cur).epc = s.me.epc ∧ (t.strand s.cur).ecause = s.me.ecause ∧ (t.strand s.cur).eval = s.me.eval))

/-! ### Requests performed (01 R20, 07 R130, 10 R181, R190, R192, R196) -/

/-- 01 R20, 07 R130 and 10 R181: a load or store that comes to its memory stands there, and is performed in a later cycle at
its turn. A load whose columns are not poisoned is answered with the bytes at its place; a store inside one column writes its
bytes and no other byte, and on a poisoned column that it does not cover it writes none. LDF (R183) is answered with its elements
and their scale bytes, and STF writes each of its 16 lanes rounded to the format against the scale byte in place. -/
def Obligations.MemoryPerforms : Prop :=
  ∀ (s : State) (k : Nat) (f : Flight) (l : Loc) (n : Nat) (ea : Word), s.memOk →
    (∀ op, f.body = .mem op l n ea → f.isAccess = true → Arrives s k f →
      exec (.bankAccess (.flight k)) s = .next (s.arrive k f))
    ∧ (Due s k f →
      let u := ((taken s k f).sees f.uid l ea n).checkColumns (columnsOf l n)
      (∀ r sup e, f.body = .mem (.load (.reg r sup e) []) l n ea → u.1 = [] →
        Goes (.bankAccess (.flight k)) s (fun t => t.mem = u.2.mem ∧ ∃ g, t.net = listErase s.net k ++ [g]
          ∧ g.body = .reply (.reg r sup e) (u.2.peek l n) none ∧ g.who = f.who ∧ g.uid = f.uid))
      ∧ (∀ v, f.body = .mem (.load (.vec v) []) l n ea → u.1 = [] →
        Goes (.bankAccess (.flight k)) s (fun t => t.mem = u.2.mem ∧ ∃ g, t.net = listErase s.net k ++ [g]
          ∧ g.body = .reply (.vec v) (u.2.peek l n) none ∧ g.who = f.who ∧ g.uid = f.uid))
      ∧ (∀ bs, f.body = .mem (.store bs) l n ea → bs.length ≤ 32 → l.addr % 32 + bs.length ≤ 32 →
        let w := if l.addr % 32 = 0 ∧ bs.length = 32 then (false, taken s k f) else (taken s k f).checkColumn l
        (w.1 = false → Goes (.bankAccess (.flight k)) s (fun t => StoredAt w.2 t l bs))
        ∧ (w.1 = true → Goes (.bankAccess (.flight k)) s (fun t => MemorySame s t))))
    ∧ (Due s k f → ∀ scales : List (Loc × Word),
      let u := ((taken s k f).sees f.uid l ea n).seesScales f.uid scales
      (∀ v fmt scl fm mode, f.body = .mem (.load (.ldf v fmt scl fm mode) scales) l n ea →
        (∀ c ∈ columnsOf l n, Sound u c) → (∀ m ∈ scales, Sound u m.1) →
        Goes (.bankAccess (.flight k)) s (fun t => t.mem = s.mem ∧ ∃ g, t.net = listErase s.net k ++ [g]
          ∧ g.body = .reply (.ldf v fmt scl fm mode) (s.peek l n ++ scales.map (fun m => Memory.get s.mem m.1.key)) none
          ∧ g.who = f.who ∧ g.uid = f.uid))
      ∧ (let u := (taken s k f).seesScales f.uid scales
         ∀ fmt lanes fm mode rs, f.body = .mem (.stf fmt lanes fm mode rs scales) l n ea → fmt < 9 → lanes.length = 16 →
        l.addr % (elemBits fmt * 2) = 0 → (elemBits fmt * 2 < 32 → Sound u l) → (∀ m ∈ scales, Sound u m.1) →
        Goes (.bankAccess (.flight k)) s (fun t => ∃ bs, bs.length = elemBits fmt * 2 ∧ StoredAt s t l bs
          ∧ ∀ j, j < 16 → elementOf (elemBits fmt) bs j = encodeElem mode.toNat fm (rs.getD j 0) fmt
            (scales[j]?.map (fun m => (Memory.get s.mem m.1.key).toNat)) (fmtF16.rd fm (lanes.getD j 0#16).toNat)
            % 2 ^ elemBits fmt)))

/-- 07 R128, R129: what stands in a column with no wrong bit is read as it stands; with one of its 266 bits wrong it is read as
it was written, and is due for a rewrite; with two it is poisoned. Where an error is found, the cell that owns the bank counts
it. The check changes no byte in any of the three. -/
def Sys2Proof.Claims.StoredBits : Prop :=
  ∀ (s : State) (l : Loc), (l.space = .local ∨ l.space = .cap ∨ l.space = .lpddr) →
    (l.space = .local → (s.cell l.unit).eccinj.getLsbD 30 = false) →
    let u := s.checkColumn l
    let b := Fin.ofNat 4 (bankOf l.addr)
    let counted (dbl : Bool) : Prop := l.space = .local → ((u.2.cell l.unit).berr[b]).valid = true
      ∧ ((u.2.cell l.unit).berr[b]).dbl = dbl
      ∧ ((u.2.cell l.unit).berr[b]).count = (if ((s.cell l.unit).berr[b]).count = 255#8 then 255#8
          else ((s.cell l.unit).berr[b]).count + 1#8)
    (s.flips.get [] l.column = [] → u = (false, s))
    ∧ (∀ p, p < 266 → s.flips.get [] l.column = [p] →
      u.1 = false ∧ u.2.mem = s.mem ∧ u.2.rewrites = s.rewrites ++ [l.column] ∧ counted false)
    ∧ (∀ p q, p < 266 → q < 266 → p ≠ q → s.flips.get [] l.column = [p, q] →
      u.1 = true ∧ u.2.mem = s.mem ∧ u.2.flips = s.flips ∧ counted true)

/-- 10 R189, R190: an atomic is one indivisible read and write: the old value goes back, and the new one stands in memory. The
float members add or take the maximum in f32, and AFADD16 adds in f16. -/
def Sys2Proof.Claims.AtomicPerforms : Prop :=
  ∀ (s : State) (k : Nat) (f : Flight) (l : Loc) (n m : Nat) (ea p q : Word) (wide : Bool) (d : Dest) (fm : BitVec 8),
    s.memOk → Due s k f → f.body = .mem (.atomic m wide p q d fm) l n ea →
    let u := (taken s k f).checkColumn l
    u.1 = false →
    (m < 10 →
    let w := if wide then 64 else 32
    let old := u.2.peek l (w / 8)
    let new := atomicResult m w (BitVec.ofNat w (leNat old)) (p.setWidth w) (q.setWidth w)
    Goes (.atomicExecute k) s (fun t => StoredAt u.2 t l (lowBytes (w / 8) new.toNat)
      ∧ (d.owed = true → ∃ g ∈ t.net, g.body = .reply d old none ∧ g.who = f.who ∧ g.uid = f.uid)))
    ∧ (10 ≤ m → m < 13 → wide = false →
    let w := floatBytes m
    let old := u.2.peek l w
    Goes (.atomicExecute k) s (fun t => StoredAt u.2 t l (lowBytes w (floatResult m fm (leNat old) (p.toNat % 256 ^ w)))
      ∧ (d.owed = true → ∃ g ∈ t.net, g.body = .reply d old none ∧ g.who = f.who ∧ g.uid = f.uid)))

/-- 10 R191, R192, 08 R162: FSHIP of a built-in on a page in HBM acts as the atomic it names, at the word's place, a float one on
the word's low bytes; a loaded routine leaves NEW in the word and returns RES, and one that the partition may not ship performs
nothing and returns 0x04; on a page that is not in HBM it asks the pager for it. -/
def Sys2Proof.Claims.ShipPerforms : Prop :=
  ∀ (s : State) (k : Nat) (f : Flight) (l : Loc) (n m : Nat) (ea p q : Word) (d : Dest) (fm : BitVec 8) (c : BitVec 5),
    s.memOk → Due s k f → ∀ placed, f.body = .mem (.fship m p q d fm c placed) l n ea →
    let h := ea.toNat / 2 ^ 36 % 2 ^ 24
    let z := pageSize (s.handle h).psz
    let page := ea.toNat % 2 ^ 36 / z
    let x := s.page h page
    let place := pageLoc x (ea.toNat % 2 ^ 36 % z)
    let u := (taken s k f).checkColumn place
    let inPlace := x.p = true ∧ x.layer = 1#2 ∧ (placed = true ∨ (x.transit = false ∧ x.clear = false)) ∧ u.1 = false
    let r := s.routine m
    let mayShip := m < 13 ∨ (r.v = true ∧ (r.tenant = 0#5 ∨ r.tenant.toNat = f.part))
    (m < 10 → inPlace →
      let old := u.2.peek place 8
      let new := atomicResult m 64 (BitVec.ofNat 64 (leNat old)) p q
      Goes (.fshipExecute k) s (fun t => StoredAt u.2 t place (lowBytes 8 new.toNat)
        ∧ (d.owed = true → ∃ g ∈ t.net, g.body = .reply d old none ∧ g.who = f.who ∧ g.uid = f.uid)))
    ∧ (10 ≤ m → m < 13 → inPlace →
      let w := floatBytes m
      let old := u.2.peek place w
      Goes (.fshipExecute k) s (fun t =>
        StoredAt u.2 t place (lowBytes w (floatResult m fm (leNat old) (p.toNat % 256 ^ w)))
        ∧ (d.owed = true → ∃ g ∈ t.net, g.body = .reply d old none ∧ g.who = f.who ∧ g.uid = f.uid)))
    ∧ (13 ≤ m → mayShip → inPlace →
      let w := if r.w64 then 8 else 4
      let old := BitVec.ofNat (8 * w) (leNat (u.2.peek place w))
      let regs := microRun (8 * w) fm old (p.setWidth (8 * w)) (q.setWidth (8 * w)) (r.uops.take r.len.toNat)
      Goes (.fshipExecute k) s (fun t => StoredAt u.2 t place (lowBytes w (regs 6).toNat)
        ∧ (d.owed = true → ∃ g ∈ t.net, g.body = .reply d (lowBytes w (regs 7).toNat) none ∧ g.who = f.who ∧ g.uid = f.uid)))
    ∧ (¬ mayShip → d.owed = true →
      Goes (.fshipExecute k) s (fun t => t.mem = s.mem
        ∧ ∃ g ∈ t.net, g.body = .reply d (lowBytes 8 4) none ∧ g.who = f.who ∧ g.uid = f.uid))
    ∧ (mayShip → x.p = false ∨ x.layer ≠ 1#2 → s.pageWaits = [] →
      Goes (.fshipExecute k) s (fun t => t.net = s.net ∧ MemorySame s t ∧ ∃ w ∈ t.pageWaits, w.handle = h ∧ w.page = page))

/-- 02 R34, 10 R181, 17 R313: a result lands in the register and bank it was issued for while its strand is there; results
of a strand that has gone are dropped; an acknowledgement frees its slice. LDF's 16 elements, decoded against their scale bytes
and rounded to f16, become the lanes of vD and vD+8 (10 R183). -/
def Obligations.ResultsLand : Prop :=
  ∀ (s : State) (k : Nat) (f : Flight), listGet s.net k = some f →
    (∀ r e data, f.body = .reply (.reg r (s.strand f.who).sup e) data none → (s.strand f.who).uid = f.uid →
      Goes (.loadDataReturn k) s (fun t => t.net = listErase s.net k ∧ t.mem = s.mem ∧ OthersSame s t f.who
        ∧ HoldsAt s t f.who r (extended e data)
        ∧ (∀ q, q ≠ r → t.readReg f.who q = s.readReg f.who q) ∧ (t.strand f.who).pc = (s.strand f.who).pc))
    ∧ (∀ v data, f.body = .reply (.vec v) data none → (s.strand f.who).uid = f.uid →
      Goes (.loadDataReturn k) s (fun t => t.net = listErase s.net k ∧ OthersSame s t f.who
        ∧ (t.strand f.who).v = (s.strand f.who).v.set v (BitVec.ofNat 128 (leNat data))))
    ∧ (∀ v fmt scl fm (mode : BitVec 3) data, f.body = .reply (.ldf v fmt scl fm mode) data none → fmt < 9 → (s.strand f.who).uid = f.uid →
      Goes (.loadDataReturn k) s (fun t => t.net = listErase s.net k ∧ OthersSame s t f.who ∧ t.mem = s.mem
        ∧ (let n := elemBits fmt * 2
           let rs := draws mode.toNat 16 (s.strand f.who).seed
           let hi : VReg := Fin.ofNat 16 (v.val + 8)
           let value (j : Nat) : BitVec 16 := BitVec.ofNat 16 (fmtF16.wr mode.toNat fm (rs.1.getD j 0) (decodeElem fm fmt
             (if scl then some (data.getD (n + j) 0#8).toNat else none) (elementOf (elemBits fmt) (data.take n) j)))
           (∀ j, j < 8 → lane 16 ((t.strand f.who).v[v]) j = value j ∧ lane 16 ((t.strand f.who).v[hi]) j = value (8 + j))
           ∧ (∀ r : VReg, r ≠ v → r ≠ hi → (t.strand f.who).v[r] = (s.strand f.who).v[r])
           ∧ (t.strand f.who).seed = rs.2)))
    ∧ (∀ d data, f.body = .reply d data none → (s.strand f.who).uid ≠ f.uid →
      exec (.loadDataReturn k) s = .next { s with net := listErase s.net k })
    ∧ (f.body = .ack → exec (.sliceAck k) s = .next { s with net := listErase s.net k })

/-! ### Copies and near-bank reductions (10 R186-R188, R193) -/

/-- 10 R187 step 1 to 3, 06 R113: a copy of a strand outside the supervisor, with its token free, no write in its port and
room in the engine, takes an engine entry with its addresses as read, marks its token pending, and the strand goes on; a
copy in the supervisor raises ILL (log 13). -/
def Sys2Proof.Claims.CopyIssue : Prop :=
  ∀ (s : State) (d a : SReg) (b : Src) (n rows sstr dstr : BitVec 16) (m : BitVec 32) (sz : Fin 6) (sw : Bool),
    ∀ r ∈ copyRows d a b n rows sstr dstr m sz sw,
    (s.me.sup = true → Traps r.1 s 0x01 (firstWord r.1))
    ∧ (s.me.sup = false → s.me.anyPending (d :: a :: b.regs) = false → s.engineWaits s.cur = false →
      (∃ k : Fin 8, (s.cell s.cur.cell).copies[k] = none) →
      Goes r.1 s (fun t => Ended s t (b.words + 2) sw ∧ RegsSame s t [] ∧ t.mem = s.mem
        ∧ PendIs (t.strand s.cur) d true
        ∧ ∃ (k : Fin 8) (c : Copy), (s.cell s.cur.cell).copies[k] = none ∧ (t.cell s.cur.cell).copies[k] = some c
          ∧ c.slot = s.cur.slot ∧ c.uid = s.me.uid ∧ c.token = d ∧ c.shape = r.2 ∧ c.dst = s.reg a ∧ c.src = s.src b
          ∧ c.poison = none ∧ c.fault = none ∧ ∀ j : Fin 8, j ≠ k → (t.cell s.cur.cell).copies[j] = (s.cell s.cur.cell).copies[j]))

/-- 10 R186, R187: a unit of a CPY or of a row of CPYS between places of the cell's own local memory, at the cell's turn at the
banks, moves its bytes and no others; a unit of GATH or SCAT moves one element from or to the address in its list; a unit of CPYC
leaves its element, or the two 4-bit ones of a byte, rounded to the destination's format. When every unit is done the token reads 0
and is no longer pending; a copy stopped on a fault, or one that met poison, ends with its status and a late trap. -/
def Sys2Proof.Claims.CopyPerforms : Prop :=
  ∀ (s : State) (c : Nat) (i : Fin 8) (k : Copy), (s.cell c).copies[i] = some k →
    let id : SlotId := ⟨c, k.slot⟩
    (∀ u, s.memOk → k.fault = none → u ∈ k.todo → s.contributes c i = false → BanksFree s c →
      let held (off n : Nat) : List Byte := s.peek ⟨.local, c, off⟩ n
      let dst := k.dst.toNat
      let src := k.src.toNat
      (∀ n, k.shape = .bytes n → u < unitCount dst n → dst + n ≤ 0xB000 → src + n ≤ 0xB000 →
        Goes (.bankAccess (.copyUnit c i u)) s (fun t =>
          let p := unitSpan dst n u
          UnitDone s t c i k u ⟨.local, c, dst + p.1⟩ (held (src + p.1) p.2)))
      ∧ (∀ len rows sstr dstr, k.shape = .strided len rows sstr dstr →
        let r := u / rowUnits len
        let row := dst + r * dstr
        u % rowUnits len < unitCount row len → row + len ≤ 0xB000 → src + r * sstr + len ≤ 0xB000 →
        Goes (.bankAccess (.copyUnit c i u)) s (fun t =>
          let p := unitSpan row len (u % rowUnits len)
          UnitDone s t c i k u ⟨.local, c, row + p.1⟩ (held (src + r * sstr + p.1) p.2)))
      ∧ (∀ n (z : Fin 6), k.shape = .gather n (2 ^ z.val) → src % 8 = 0 → src + 8 * u + 8 ≤ 0xB000 →
        let from' := leNat (held (src + 8 * u) 8)
        let to' := dst + u * 2 ^ z.val
        from' % 2 ^ z.val = 0 → from' + 2 ^ z.val ≤ 0xB000 → to' % 2 ^ z.val = 0 → to' + 2 ^ z.val ≤ 0xB000 →
        Goes (.bankAccess (.copyUnit c i u)) s (fun t => UnitDone s t c i k u ⟨.local, c, to'⟩ (held from' (2 ^ z.val))))
      ∧ (∀ n (z : Fin 6), k.shape = .scatter n (2 ^ z.val) → dst % 8 = 0 → dst + 8 * u + 8 ≤ 0xB000 →
        let from' := src + u * 2 ^ z.val
        let to' := leNat (held (dst + 8 * u) 8)
        from' % 2 ^ z.val = 0 → from' + 2 ^ z.val ≤ 0xB000 → to' % 2 ^ z.val = 0 → to' + 2 ^ z.val ≤ 0xB000 →
        Goes (.bankAccess (.copyUnit c i u)) s (fun t => UnitDone s t c i k u ⟨.local, c, to'⟩ (held from' (2 ^ z.val)))))
    ∧ (∀ u n dfmt, s.memOk → k.shape = .convert n → k.fault = none → k.poison = none → u ∈ k.todo → s.formatAt k.dst = some dfmt →
      dfmt < 9 →
      let w := k.who s c i
      let size := (elemBits dfmt + 7) / 8
      let e := if dfmt = 7 then 2 * u else u
      let da := (elemPlace dfmt k.dst e).1
      ∀ x l y z, x.engineLoc w da size size .write = .ok l y → x.mem = s.mem →
        y.takeTurn c l = some z → Sound z l →
        (∀ v, dfmt ≠ 7 → Converted s k w dfmt e 0 v x →
          Goes (.bankAccess (.copyUnit c i u)) s (fun t => UnitDone s t c i k u l (lowBytes size v)))
        ∧ (∀ v v2 x1, dfmt = 7 → 2 ≤ n - 2 * u → Converted s k w dfmt e 0 v x1 → Converted x1 k w dfmt e 1 v2 x →
          Goes (.bankAccess (.copyUnit c i u)) s (fun t => UnitDone s t c i k u l (lowBytes 1 (v + 16 * v2))))
        ∧ (∀ v, dfmt = 7 → n - 2 * u = 1 → Converted s k w dfmt e 0 v x →
          Goes (.bankAccess (.copyUnit c i u)) s (fun t => UnitDone s t c i k u l (lowBytes 1 (v + (leNat (s.peek l 1)) / 16 * 16)))))
    ∧ (k.fault = none → k.todo = [] → s.contributes c i = false → (s.strand id).uid = k.uid → (s.strand id).sup = false →
      (k.poison = none → Goes (.copyCompletion c i) s (fun t => (t.cell c).copies[i] = none
        ∧ HoldsAt s t id k.token 0#64 ∧ PendIs (t.strand id) k.token false ∧ t.mem = s.mem))
      ∧ (∀ l, k.poison = some l → (s.strand id).late = [] → (s.strand id).status ≠ .free →
        Goes (.copyCompletion c i) s (fun t =>
        (t.cell c).copies[i] = none ∧ HoldsAt s t id k.token 8#64 ∧ PendIs (t.strand id) k.token false
          ∧ (t.strand id).late = [l] ∧ t.mem = s.mem)))
    ∧ (∀ ev, k.fault = some ev → (s.strand id).late = [] → s.contributes c i = false → (s.strand id).uid = k.uid →
      (s.strand id).sup = false → (s.strand id).status ≠ .free →
      Goes (.copyFault c i) s (fun t => (t.cell c).copies[i] = none ∧ HoldsAt s t id k.token 0x0D#64
        ∧ PendIs (t.strand id) k.token false ∧ t.mem = s.mem
        ∧ ∃ e, (t.strand id).late = [⟨.copyf, ev, e⟩] ∧ e.toNat / 2 ^ 16 = 2))

/-- 10 R193: NDOT, NSUM and NMAX of vectors in one bank of the own cell park the strand on a reduction that starts at the
first element, or from D where PROG says; a vector elsewhere, misaligned or across banks raises its cause; each access of the
unit takes the elements up to the end of a column into the accumulator in ascending order; at the end D receives the accumulator and the
strand goes on. -/
def Sys2Proof.Claims.NearBank : Prop :=
  ∀ (s : State) (ty : FTy) (d a : SReg) (b : Src) (n : BitVec 32) (sw : Bool), ∀ r ∈ nearRows ty d a b n sw,
    let size := if ty = .f32 then 4 else 2
    let c := s.cur.cell
    let eb := (r.2.2.1.map s.src).getD (s.reg a)
    let bank := ((s.ownOffset c (s.reg a)).map bankOf).getD 0
    s.me.anyPending (d :: a :: ((r.2.2.1.map Src.regs).getD [])) = false →
    (∀ oa ob, s.nearCheck c (s.reg a) n.toNat size bank s.me.lock = .ok oa →
      s.nearCheck c eb n.toNat size bank s.me.lock = .ok ob →
      Goes r.1 s (fun t => ParkedOn s t .near r.2.2.2 sw ∧ t.mem = s.mem
        ∧ ∃ q, (t.cell c).near = (s.cell c).near ++ [q] ∧ q.slot = s.cur.slot ∧ q.kind = r.2.1 ∧ q.ty = ty ∧ q.d = d
          ∧ q.a = s.reg a ∧ q.b = eb ∧ q.n = n.toNat
          ∧ (s.me.progValid = false → q.done = 0 ∧ q.acc = if r.2.1 = 2 then 0xFF800000#32 else 0#32)
          ∧ (s.me.progValid = true → q.done = Nat.min s.me.progIndex.toNat n.toNat ∧ q.acc = (s.reg d).setWidth 32)))
    ∧ (∀ e, s.nearCheck c (s.reg a) n.toNat size bank s.me.lock = .error e → Traps r.1 s e.code (s.reg a))
    ∧ (∀ oa e, s.nearCheck c (s.reg a) n.toNat size bank s.me.lock = .ok oa →
      s.nearCheck c eb n.toNat size bank s.me.lock = .error e → Traps r.1 s e.code eb)
    ∧ (∀ (cc : Nat) (k : Fin 5) (q : NearRun), (s.cell cc).near.find? (fun x => x.slot == k) = some q → q.done < q.n →
      q.ty = ty → s.flips = [] → (s.cell cc).eccinj = 0#31 →
      let oa := q.a.toNat % 65536 + q.done * size
      let ob := q.b.toNat % 65536 + q.done * size
      let m := Nat.min (q.n - q.done) (Nat.min ((32 - oa % 32) / size) ((32 - ob % 32) / size))
      let elem (o j : Nat) : FVal := (ftyFmt ty).rd q.fmode (leNat (s.peek ⟨.local, cc, o + j * size⟩ size))
      let acc (x : BitVec 32) : FVal := fmtF32.decode false x.toNat
      let one (x : BitVec 32) (j : Nat) : BitVec 32 := match q.kind.val with
        | 0 => f32Rne q.fmode (FVal.add false (acc x) ((elem oa j).mul (elem ob j)))
        | 1 => f32Rne q.fmode (FVal.add false (acc x) (elem oa j))
        | _ => BitVec.ofNat 32 (fmtF32.encode 0 false false 0 (FVal.max (acc x) (elem oa j)))
      ∀ u, s.accessAll ⟨cc, k⟩ (m * size) ((⟨.local, cc, oa⟩, q.a + BitVec.ofNat 64 (q.done * size))
          :: if q.kind = 0 then [(⟨.local, cc, ob⟩, q.b + BitVec.ofNat 64 (q.done * size))] else []) = some u →
      Goes (.bankAccess (.near cc k)) s (fun t => t.mem = s.mem ∧ OthersSame s t ⟨cc, k⟩
        ∧ ∃ r, (t.cell cc).near.find? (fun x => x.slot == k) = some r ∧ r.done = q.done + m ∧ r.poison = q.poison
          ∧ r.acc = (List.range m).foldl one q.acc ∧ r.n = q.n ∧ r.d = q.d))
    ∧ ∀ (cc : Nat) (k : Fin 5) (q : NearRun), (s.cell cc).near.find? (fun x => x.slot == k) = some q → q.n ≤ q.done →
      Goes (.nearBankCompletion cc k) s (fun t => HoldsAt s t ⟨cc, k⟩ q.d (q.acc.setWidth 64)
        ∧ WentOn s t ⟨cc, k⟩ false ∧ (t.strand ⟨cc, k⟩).progValid = false ∧ t.mem = s.mem
        ∧ ∀ x ∈ (t.cell cc).near, x.slot ≠ k)

/-! ### Releases, acquires and barriers (10 R195-R198) -/

/-- 10 R196: a release whose waits are over ends at once and clears the slices it collected, none at `self`, in TSMR only
those named, with the rest in D; otherwise the strand parks, and RELEASE_COMPLETE ends it when they are over. An acquire waits
for the strand's results. At tile and wider a lockstep strand takes a checkpoint with its release, and first one that lets out
what its pair holds (02 R48, 15 R298). -/
def Obligations.ReleaseRules : Prop :=
  ∀ (s : State) (sc : Scope) (d a : SReg) (sw : Bool),
    Goes (.acq sc sw) s (fun t => Ended s t 1 (sc != .self || sw) ∧ RegsSame s t [] ∧ t.mem = s.mem)
    ∧ (s.released s.cur sc s.me.tsm = true → (s.me.lock = false ∨ Narrow sc) →
      Goes (.rel sc sw) s (fun t => Ended s t 1 sw ∧ (t.strand s.cur).tsm = (if sc = .self then s.me.tsm else 0#51)
        ∧ RegsSame s t [] ∧ t.mem = s.mem)
      ∧ Goes (.fence sc sw) s (fun t => Ended s t 1 sw ∧ (t.strand s.cur).tsm = (if sc = .self then s.me.tsm else 0#51)
        ∧ RegsSame s t [] ∧ t.mem = s.mem))
    ∧ (s.released s.cur sc s.me.tsm = false → s.mismatched s.cur = false →
      Goes (.rel sc sw) s (fun t => ParkedOn s t (.release sc .rel) 1 sw ∧ t.mem = s.mem)
      ∧ Goes (.fence sc sw) s (fun t => ParkedOn s t (.release sc .fence) 1 sw ∧ t.mem = s.mem))
    ∧ (s.me.anyPending [d, a] = false → (s.me.lock = false ∨ Narrow sc) →
      s.released s.cur .cell (s.me.tsm &&& (s.reg a).setWidth 51) = true →
      Goes (.tsmr sc d a sw) s (fun t => Ended s t 1 sw ∧ (t.strand s.cur).tsm = s.me.tsm &&& ~~~((s.reg a).setWidth 51)
        ∧ Holds s t d ((t.strand s.cur).tsm.setWidth 64) ∧ RegsSame s t [d] ∧ t.mem = s.mem))
    ∧ (s.me.lock = true → ¬ Narrow sc → (s.pair (pairOf s.cur.cell)).diverged = false →
      (s.holding s.cur = false → s.released s.cur sc s.me.tsm = true →
        Goes (.rel sc sw) s (fun t =>
          (t.pair (pairOf s.cur.cell)).checkpoints = (s.pair (pairOf s.cur.cell)).checkpoints + 1
          ∧ Ended s t 1 sw ∧ t.mem = s.mem))
      ∧ (s.holding s.cur = true →
        Goes (.rel sc sw) s (fun t =>
          (t.pair (pairOf s.cur.cell)).checkpoints = (s.pair (pairOf s.cur.cell)).checkpoints + 1
          ∧ ParkedOn s t (.release sc .rel) 1 sw ∧ t.mem = s.mem)))
    ∧ ∀ (c : Nat) (k : Fin 5), (s.strand ⟨c, k⟩).status = .parked (.release sc .rel) →
      s.released ⟨c, k⟩ sc (s.strand ⟨c, k⟩).tsm = true → ((s.strand ⟨c, k⟩).lock = false ∨ Narrow sc) →
      Goes (.releaseComplete c k) s (fun t => WentOn s t ⟨c, k⟩ false
        ∧ (t.strand ⟨c, k⟩).tsm = (if sc = .self then (s.strand ⟨c, k⟩).tsm else 0#51)
        ∧ OthersSame s t ⟨c, k⟩ ∧ t.mem = s.mem)

/-- 10 R198: BARINIT sends the word of its count and scope, and a count outside 1 to 1,048,575 raises ILL; BARARR sends an
arrival behind its release; BARTEST loads the word, as an atomic on it does from the home copy of a replicated page (R197); BARWAIT
parks. -/
def Sys2Proof.Claims.BarrierIssue : Prop :=
  ∀ (s : State) (sc : Scope) (d a : SReg) (b : Src) (sw : Bool) (l : Loc) (u : State),
    (s.reg a).toNat / 2 ^ 60 ≠ 3 →
    (s.me.anyPending (a :: b.regs) = false → 1 ≤ (s.src b).toNat → (s.src b).toNat < 2 ^ 20 →
      s.check (s.whoAt s.cur) (s.reg a) 8 8 .write (fun layer => layer == 2) = .ok l u →
      u.blocked s.me.dcls s.cur.cell l = false →
      Goes (.barinit sc a b sw) s (fun t =>
        Sent s t (.barinit (BitVec.ofNat 64 ((s.src b).toNat + sc.code * 2 ^ 60))) l 8 (s.reg a)
        ∧ RegsSame s t [] ∧ Ended s t b.words sw))
    ∧ (s.me.anyPending (a :: b.regs) = false → ((s.src b).toNat = 0 ∨ 2 ^ 20 ≤ (s.src b).toNat) →
      Traps (.barinit sc a b sw) s 0x01 (firstWord (.barinit sc a b sw)))
    ∧ (s.me.anyPending [a] = false →
      s.check (s.whoAt s.cur) (s.reg a) 8 8 .write (fun layer => layer == 2) = .ok l u →
      ∀ x, u.access s.cur l 8 (s.reg a) = some x → Sound x l →
      let w := leNat (u.peek l 8) / 2 ^ 60
      x.released s.cur ((Scope.ofCode w).getD .sys) s.me.tsm = true →
      (s.me.lock = false ∨ Narrow ((Scope.ofCode w).getD .sys)) →
      Goes (.bararr a sw) s (fun t => Sent s t .barrier l 8 (s.reg a) ∧ RegsSame s t [] ∧ Ended s t 1 sw))
    ∧ (s.me.anyPending [d, a] = false → s.check (s.whoAt s.cur) (s.reg a) 8 8 .readHome (fun layer => layer == 2) = .ok l u →
      u.blocked s.me.dcls s.cur.cell l = false → u.awaitsHeld s.cur l 8 (s.reg a) = false →
      Goes (.bartest d a sw) s (fun t => Sent s t (.load (.reg d s.me.sup .zext) []) l 8 (s.reg a)
        ∧ RegsSame s t [] ∧ Ended s t 1 sw))
    ∧ (s.me.anyPending [a] = false → s.cur.slot ≠ 4 →
      s.check (s.whoAt s.cur) (s.reg a) 8 8 .write (fun layer => layer == 2) = .ok l u →
      Goes (.barwait a sw) s (fun t => ParkedOn s t (.barwait (s.reg a) l) 1 sw ∧ t.mem = u.mem))
    ∧ (s.cur.slot = 4 → Traps (.barwait a sw) s 0x01 (firstWord (.barwait a sw)))

/-- 10 R198: an arrival below the count adds one to ARRIVED; the last one sets DEPART to the count and ARRIVED to 0; an
arrival that finds DEPART above 0, or an earlier one held, is held and performed once DEPART is 0; a waiter takes one departure
and goes on. -/
def Sys2Proof.Claims.BarrierPerforms : Prop :=
  ∀ (s : State) (k : Nat) (f : Flight) (l : Loc) (ea : Word), s.memOk → Sound (s.served f) l →
    let w := leNat (s.peek l 8)
    let count := w % 2 ^ 20
    let arrived := w / 2 ^ 20 % 2 ^ 20
    let depart := w / 2 ^ 40 % 2 ^ 20
    let new := if arrived + 1 = count then w / 2 ^ 60 * 2 ^ 60 + count * 2 ^ 40 + count
      else w / 2 ^ 60 * 2 ^ 60 + (arrived + 1) % 2 ^ 20 * 2 ^ 20 + count
    (∀ n, Due s k f → f.body = .mem .barrier l n ea → depart = 0 → s.heldAt l = false →
      Goes (.atomicExecute k) s (fun t => StoredAt s t l (lowBytes 8 new)))
    ∧ (∀ n, Due s k f → f.body = .mem .barrier l n ea → (depart ≠ 0 ∨ s.heldAt l = true) →
      Goes (.atomicExecute k) s (fun t => t.mem = s.mem ∧ ∃ g, listGet t.net k = some g ∧ g.body = .arrival l ea))
    ∧ (listGet s.net k = some f → f.body = .arrival l ea → depart = 0 →
      (∀ j g, j < k → listGet s.net j = some g → ∀ e, g.body ≠ .arrival l e) →
      ∀ x, s.atTurn f.srcCell l = some x → Sound x l →
      Goes (.barrierArrivalPerformed k) s (fun t => StoredAt s t l (lowBytes 8 new)))
    ∧ ∀ (c : Nat) (q : Fin 5) (m : Loc) (u : State), (s.strand ⟨c, q⟩).status = .parked (.barwait ea m) →
      s.check (s.whoAt ⟨c, q⟩) ea 8 8 .write (fun layer => layer == 2) = .ok l u → u.mem = s.mem →
      ((s.strand ⟨c, q⟩).lock = false ∨ (u.pair (pairOf c)).diverged = false) →
      ∀ x, u.access ⟨c, q⟩ l 8 ea = some x → Sound x l → depart ≠ 0 →
      Goes (.barwaitPoll c q) s (fun t => StoredAt s t l (lowBytes 8 (w - 2 ^ 40)) ∧ WentOn s t ⟨c, q⟩ true)

/-! ### Waits (10 R199, 08 R153) -/

/-- 10 R199: WAITA goes on with 0 when the word differs from B, and else parks with its monitor armed; after a restore it goes
on with 2; WAITT goes on with
CYCLE once it has reached A, and else parks; SLEEP parks with its limit; YIELD goes on and notes the slots it lets pass.
WAITA, WAITT and SLEEP raise ILL in a handler. -/
def Sys2Proof.Claims.Waits : Prop :=
  ∀ (s : State) (d a : SReg) (b : Src) (sw : Bool),
    (s.cur.slot ≠ 4 → s.me.anyPending (d :: a :: b.regs) = false → s.me.woken = false →
      (s.reg a).toNat / 2 ^ 60 ≠ 3 → s.flips = [] → ∀ l u,
      s.check (s.whoAt s.cur) (s.reg a) 8 8 .read noPromote = .ok l u → l.space = .hbm →
      (∃ x, u.access s.cur l 8 (s.reg a) = some x) → (s.cell s.cur.cell).monitors.length < 8 →
      (leNat (s.peek l 8) ≠ (s.src b).toNat → u.mem = s.mem → Goes (.waita d a b sw) s (fun t => Holds s t d 0#64
        ∧ RegsSame s t [d] ∧ Ended s t b.words sw ∧ t.mem = s.mem))
      ∧ (leNat (s.peek l 8) = (s.src b).toNat → u.mem = s.mem →
        Goes (.waita d a b sw) s (fun t => ParkedOn s t (.waita (s.reg a) d) b.words sw ∧ t.mem = s.mem
          ∧ (⟨s.cur.slot, false, true, s.reg a, l, s.src b⟩ : Monitor) ∈ (t.cell s.cur.cell).monitors)))
    ∧ (s.cur.slot ≠ 4 → s.me.anyPending (d :: a :: b.regs) = false → s.me.woken = true →
      (s.reg a).toNat / 2 ^ 60 ≠ 3 → ∀ l u, s.check (s.whoAt s.cur) (s.reg a) 8 8 .read noPromote = .ok l u →
      Goes (.waita d a b sw) s (fun t => Holds s t d 2#64 ∧ (t.strand s.cur).woken = false ∧ RegsSame s t [d]
        ∧ Ended s t b.words sw ∧ t.mem = u.mem))
    ∧ (s.cur.slot ≠ 4 → s.me.anyPending [d, a] = false → (s.reg a).toNat ≤ s.cycle.toNat →
      Goes (.waitt d a sw) s (fun t => Holds s t d s.cycle ∧ RegsSame s t [d] ∧ Ended s t 1 sw ∧ t.mem = s.mem))
    ∧ (s.cur.slot ≠ 4 → s.me.anyPending [d, a] = false → s.cycle.toNat < (s.reg a).toNat →
      Goes (.waitt d a sw) s (fun t => ParkedOn s t (.waitt (s.reg a) d) 1 sw ∧ t.mem = s.mem))
    ∧ (s.cur.slot ≠ 4 → s.me.anyPending [a] = false → Goes (.sleep a sw) s (fun t =>
      ParkedOn s t (.sleep (if s.reg a = 0#64 then none else some (s.cycle.toNat + (s.reg a).toNat))) 1 sw ∧ t.mem = s.mem))
    ∧ Goes (.yield sw) s (fun t => Ended s t 1 sw ∧ RegsSame s t [] ∧ t.mem = s.mem ∧ OthersSame s t s.cur
      ∧ ∃ l, (s.cur.slot, l) ∈ (t.cell s.cur.cell).yields
        ∧ ∀ j, j ∈ l ↔ j ≠ s.cur.slot ∧ (s.strand ⟨s.cur.cell, j⟩).status = .ready)
    ∧ (s.cur.slot = 4 → Traps (.waita d a b sw) s 0x01 (firstWord (.waita d a b sw))
      ∧ Traps (.waitt d a sw) s 0x01 (firstWord (.waitt d a sw)) ∧ Traps (.sleep a sw) s 0x01 (firstWord (.sleep a sw)))

/-- 10 R199, 08 R153: a WAITT whose CYCLE has come and a SLEEP whose limit has passed go on; an armed monitor on a word
outside the cell's own banks fires when the word differs from EXP, and wakes its WAITA with 0. -/
def Sys2Proof.Claims.WaitsEnd : Prop :=
  ∀ (s : State) (c : Nat) (k : Fin 5),
    (∀ limit d, (s.strand ⟨c, k⟩).status = .parked (.waitt limit d) → limit.toNat ≤ s.cycle.toNat →
      Goes (.waittExpiry c k) s (fun t => HoldsAt s t ⟨c, k⟩ d s.cycle ∧ WentOn s t ⟨c, k⟩ false
        ∧ OthersSame s t ⟨c, k⟩ ∧ t.mem = s.mem))
    ∧ (∀ limit, (s.strand ⟨c, k⟩).status = .parked (.sleep (some limit)) → limit ≤ s.cycle.toNat →
      Goes (.sleepExpiry c k) s (fun t => WentOn s t ⟨c, k⟩ false ∧ OthersSame s t ⟨c, k⟩ ∧ t.mem = s.mem))
    ∧ ∀ (n : Fin 8) (m : Monitor) (l : Loc) (u : State) (d : SReg), listGet (s.cell c).monitors n.val = some m →
      m.fired = false → m.wait = true → (m.loc.space ≠ .local ∨ m.loc.unit ≠ c) →
      s.check (s.whoAt ⟨c, m.slot⟩) m.addr 8 8 .read noPromote = .ok l u → l.space = .hbm → s.flips = [] → u.mem = s.mem →
      (∃ x, u.access ⟨c, m.slot⟩ l 8 m.addr = some x) → (s.strand ⟨c, m.slot⟩).status = .parked (.waita m.addr d) →
        leWord (s.peek l 8) ≠ m.exp →
      Goes (.monitorPoll c n) s (fun t => HoldsAt s t ⟨c, m.slot⟩ d 0#64 ∧ WentOn s t ⟨c, m.slot⟩ false ∧ t.mem = s.mem
        ∧ ∃ x, listGet (t.cell c).monitors n.val = some x ∧ x.fired = true)

/-! ### Post registers, messages and twin signals (06 R111; 14 R262-R269; 02 R44, R45; 12 R238) -/

/-- 14 R262, R263, R264: PUT sends its value behind its release, and names only cells of the team; TAKE and TAKEF read a
present register and clear it, PEEK leaves it, and each parks on one that is not present (TAKEF in a handler reads 0
instead). -/
def Sys2Proof.Claims.Posts : Prop :=
  ∀ (s : State) (d a : SReg) (b : Src) (m : PostIx) (sw : Bool),
    (∀ target, s.me.anyPending (a :: b.regs) = false → s.targetCell s.cur.cell (s.reg a) = some target →
      AtOnce s (commonScope s.cur.cell target) target s.me.dcls →
      Goes (.put m a b sw) s (fun t =>
        Posted s t s.cur (.put m (s.src b) (commonScope s.cur.cell target)) target s.me.dcls
        ∧ Ended s t b.words sw ∧ RegsSame s t [] ∧ t.mem = s.mem))
    ∧ (s.me.anyPending (a :: b.regs) = false → s.targetCell s.cur.cell (s.reg a) = none → ∃ ev,
      Traps (.put m a b sw) s 0x04 ev)
    ∧ (s.me.anyPending [d] = false → (s.cell s.cur.cell).posts[m].present = true →
      (∀ h ∈ (s.cell s.cur.cell).held, h.m ≠ m) →
      (∀ j kd e since, j ≠ s.cur.slot → (s.strand ⟨s.cur.cell, j⟩).status ≠ .parked (.take kd m e since)) →
      s.me.chainEn = false →
      (s.cur.slot ≠ 4 → Goes (.take d m sw) s (fun t => Holds s t d (s.cell s.cur.cell).posts[m].value
        ∧ (t.cell s.cur.cell).posts[m].present = false ∧ RegsSame s t [d] ∧ Ended s t 1 true ∧ t.mem = s.mem)
      ∧ Goes (.peek d m sw) s (fun t => Holds s t d (s.cell s.cur.cell).posts[m].value
        ∧ (t.cell s.cur.cell).posts[m] = (s.cell s.cur.cell).posts[m] ∧ RegsSame s t [d] ∧ Ended s t 1 true ∧ t.mem = s.mem))
      ∧ Goes (.takef d m sw) s (fun t => Holds s t d (s.cell s.cur.cell).posts[m].value
        ∧ (t.cell s.cur.cell).posts[m].present = false ∧ RegsSame s t [d] ∧ Ended s t 1 true ∧ t.mem = s.mem))
    ∧ (s.me.anyPending [d] = false → (s.cell s.cur.cell).posts[m].present = false → s.me.chainEn = false →
      (s.cur.slot ≠ 4 → Goes (.take d m sw) s (fun t => ParkedOn s t (.take .take m d s.tick) 1 sw ∧ t.mem = s.mem)
      ∧ Goes (.peek d m sw) s (fun t => ParkedOn s t (.take .peek m d s.tick) 1 sw ∧ t.mem = s.mem)
      ∧ Goes (.takef d m sw) s (fun t => ParkedOn s t (.take .takef m d s.tick) 1 sw ∧ t.mem = s.mem))
      ∧ (s.cur.slot = 4 → Goes (.takef d m sw) s (fun t => Holds s t d 0#64 ∧ RegsSame s t [d] ∧ Ended s t 1 sw)))
    ∧ (s.cur.slot = 4 → Traps (.take d m sw) s 0x01 (firstWord (.take d m sw))
      ∧ Traps (.peek d m sw) s 0x01 (firstWord (.peek d m sw)))

/-- 06 R111, 02 R44: a value that comes to its cell stands at the port, and is taken there in a later cycle. At a post register
with no value and no waiter it becomes present; at one that is present it joins the hold queue while that has room. -/
def Sys2Proof.Claims.PostArrives : Prop :=
  ∀ (s : State) (k c : Nat) (f : Flight) (m : PostIx) (v : Word) (sc : Scope), f.body = .put m v sc → f.dstCell = some c →
    (Arrives s k f → exec (.putArrival k) s = .next (s.arrive k f))
    ∧ (AtPort s k f → s.first k f ((s.cell c).putRival m) = true →
      ((s.cell c).posts[m].present = false → (∀ h ∈ (s.cell c).held, h.m ≠ m) →
        (∀ j kd e since, (s.strand ⟨c, j⟩).status ≠ .parked (.take kd m e since)) →
        Goes (.putArrival k) s (fun t => (t.cell c).posts[m].present = true ∧ (t.cell c).posts[m].value = v
          ∧ t.net = listErase s.net k ∧ t.mem = s.mem))
      ∧ ((s.cell c).posts[m].present = true → (s.cell c).held.length < 8 →
        Goes (.putArrival k) s (fun t => (t.cell c).posts[m] = (s.cell c).posts[m]
          ∧ (t.cell c).held = (s.cell c).held ++ [⟨m, f.srcCell, v, sc⟩] ∧ t.mem = s.mem)))

/-- 14 R267, R268, R269: SEND sends n0 to n(w-1) on its class behind its release; MASKC and UNMASKC set and clear a bit of
CLSMASK and raise ILL in a handler; DONE parks a handler until it can end and raises ILL in a strand slot. -/
def Sys2Proof.Claims.Messages : Prop :=
  ∀ (s : State) (a : SReg) (c : Cls) (n : Fin 8) (sw : Bool),
    (∀ target, s.me.anyPending (a :: ((List.finRange 8).take n.val).map SReg.n) = false →
      s.targetCell s.cur.cell (s.reg a) = some target →
      AtOnce s (commonScope s.cur.cell target) target (BitVec.ofNat 3 c.val) →
      Goes (.send c a n sw) s (fun t => ∃ p, Posted s t s.cur (.msg ⟨c, s.homeOf s.cur.cell, p⟩) target (BitVec.ofNat 3 c.val)
        ∧ p.length = n.val ∧ (∀ j : Fin 8, j < n → p[j.val]? = some (s.reg (.n j)))
        ∧ Ended s t 1 sw ∧ RegsSame s t [] ∧ t.mem = s.mem))
    ∧ (s.cur.slot ≠ 4 →
      Goes (.maskc c sw) s (fun t => Ended s t 1 sw ∧ RegsSame s t [] ∧ t.mem = s.mem
        ∧ ∀ j, j < 8 → (t.strand s.cur).clsmask.getLsbD j = (s.me.clsmask.getLsbD j || j == c.val))
      ∧ Goes (.unmaskc c sw) s (fun t => Ended s t 1 sw ∧ RegsSame s t [] ∧ t.mem = s.mem
        ∧ ∀ j, j < 8 → (t.strand s.cur).clsmask.getLsbD j = (s.me.clsmask.getLsbD j && j != c.val)))
    ∧ (s.cur.slot = 4 → Goes (.done sw) s (fun t => ParkedOn s t .done 1 sw ∧ t.mem = s.mem)
      ∧ Traps (.maskc c sw) s 0x01 (firstWord (.maskc c sw)) ∧ Traps (.unmaskc c sw) s 0x01 (firstWord (.unmaskc c sw)))
    ∧ (s.cur.slot ≠ 4 → Traps (.done sw) s 0x01 (firstWord (.done sw)))

/-- 02 R44, R45; 14 R267, R269; 17 R314: a message that stands at its cell's port, the first of its class there, is discarded
and counted without permission, else it waits in the inbox; the oldest of the lowest class that no strand holds enters a Free
handler slot with its payload in a0 to a6 and its sender in a7; a handler ends after DONE, and takes HANDLONG with the class of
its message at its 2,049th instruction, after a late trap and SSTEP (R315), which the supervisor's action on it ends and counts. -/
def Sys2Proof.Claims.Handlers : Prop :=
  ∀ (s : State) (k c : Nat) (f : Flight) (m : Msg),
    (f.body = .msg m → f.dstCell = some c →
      (Arrives s k f → exec (.messageArrival k) s = .next (s.arrive k f))
      ∧ (AtPort s k f → s.first k f (fun b => match b with | .msg n => n.cls == m.cls | _ => false) = true →
        ((s.cell c).classes[m.cls].perm = false → (s.cell c).msgdisc ≠ BitVec.allOnes 32 →
          Goes (.messageArrival k) s (fun t => (t.cell c).msgdisc = (s.cell c).msgdisc + 1#32
            ∧ (t.cell c).inbox = (s.cell c).inbox ∧ t.net = listErase s.net k))
        ∧ ((s.cell c).classes[m.cls].perm = true → (s.cell c).inbox.length < 8 →
          Goes (.messageArrival k) s (fun t => (t.cell c).inbox = (s.cell c).inbox ++ [m] ∧ t.net = listErase s.net k))))
    ∧ (∀ r j, (s.strand ⟨c, 4⟩).status = .free → s.saving c 2 = false → s.recOf c = some r →
      listGet (s.cell c).inbox j = some m → m.payload.length ≤ 7 →
      (∀ x ∈ (s.cell c).strands.toList, x.clsmask.getLsbD m.cls.val = false) →
      (∀ n x, listGet (s.cell c).inbox n = some x → (∃ y ∈ (s.cell c).strands.toList, y.clsmask.getLsbD x.cls.val = true)
        ∨ m.cls.val < x.cls.val ∨ (m.cls = x.cls ∧ j ≤ n)) →
      Goes (.handlerEntry c) s (fun t => (t.cell c).inbox = listErase (s.cell c).inbox j
        ∧ (t.strand ⟨c, 4⟩).status = .ready ∧ (t.strand ⟨c, 4⟩).ra[(7 : Fin 8)] = BitVec.ofNat 64 m.sender
        ∧ (∀ i : Fin 8, i < 7 → (t.strand ⟨c, 4⟩).ra[i] = m.payload.getD i.val 0#64)
        ∧ (t.strand ⟨c, 4⟩).pc = handleAddr (s.codeHandle r) (4 * (s.cell c).classes[m.cls].entry.toNat)
        ∧ (t.strand ⟨c, 4⟩).sup = false))
    ∧ ((s.strand ⟨c, 4⟩).status = .parked .done → s.owes (s.strand ⟨c, 4⟩).uid = false → (s.strand ⟨c, 4⟩).pend = 0#24 →
      (s.strand ⟨c, 4⟩).late = [] → Goes (.handlerEnd c) s (fun t => (t.strand ⟨c, 4⟩).status = .free ∧ OthersSame s t ⟨c, 4⟩
        ∧ t.mem = s.mem))
    ∧ ((s.strand ⟨c, 4⟩).status = .ready → 2048 ≤ (s.strand ⟨c, 4⟩).instret.toNat → (s.strand ⟨c, 4⟩).sup = false →
      (s.strand ⟨c, 4⟩).late = [] → (s.strand ⟨c, 4⟩).stepDue = false →
      Goes (.handlong c) s (fun t => Trapped s t ⟨c, 4⟩ 0x13 ((s.strand ⟨c, 4⟩).mcls.setWidth 64)
        ∧ OthersSame s t ⟨c, 4⟩ ∧ t.mem = s.mem))
    ∧ ((s.strand ⟨c, 4⟩).status ≠ .free → (s.strand ⟨c, 4⟩).sup = true → (s.strand ⟨c, 4⟩).ecause = 0x13#9 →
      (s.cell c).hlong ≠ BitVec.allOnes 32 →
      Goes (.handlong c) s (fun t => (t.strand ⟨c, 4⟩).status = .free ∧ (t.cell c).hlong = (s.cell c).hlong + 1#32
        ∧ OthersSame s t ⟨c, 4⟩ ∧ t.mem = s.mem))

/-- 12 R238: TWSIG adds one to the twin's counter behind its release at twin scope; TWWAIT takes the count before it
subtracts one, or parks at 0, or in a handler reads 0; both raise ILL in lockstep, and TWSIG names an absent twin. -/
def Sys2Proof.Claims.TwinSignals : Prop :=
  ∀ (s : State) (d : SReg) (n : Fin 4) (sw : Bool),
    let p := twinOfCell s.cur.cell
    let v := (s.cell s.cur.cell).sig[n]
    (s.me.lock = false → s.twinPresent s.cur.cell = true → p ≠ s.cur.cell → s.released s.cur .twin s.me.tsm = true →
      (s.cell p).sig[n] ≠ 255#8 → (∀ j e, (s.strand ⟨p, j⟩).status ≠ .parked (.twwait n e)) →
      Goes (.twsig n sw) s (fun t => (t.cell p).sig[n] = (s.cell p).sig[n] + 1#8 ∧ Ended s t 1 sw ∧ RegsSame s t []
        ∧ OthersSame s t s.cur ∧ t.mem = s.mem))
    ∧ (s.me.lock = false → s.twinPresent s.cur.cell = false → ∃ ev, Traps (.twsig n sw) s 0x04 ev)
    ∧ (s.me.lock = false → s.me.anyPending [d] = false → v ≠ 0#8 → Goes (.twwait d n sw) s (fun t =>
      (t.cell s.cur.cell).sig[n] = v - 1#8 ∧ Holds s t d (v.setWidth 64) ∧ RegsSame s t [d] ∧ Ended s t 1 true ∧ t.mem = s.mem))
    ∧ (s.me.lock = false → s.me.anyPending [d] = false → v = 0#8 →
      (s.cur.slot ≠ 4 → Goes (.twwait d n sw) s (fun t => ParkedOn s t (.twwait n d) 1 sw ∧ t.mem = s.mem))
      ∧ (s.cur.slot = 4 → Goes (.twwait d n sw) s (fun t => Holds s t d 0#64 ∧ Ended s t 1 sw ∧ t.mem = s.mem)))
    ∧ (s.me.lock = true → Traps (.twsig n sw) s 0x01 (firstWord (.twsig n sw))
      ∧ Traps (.twwait d n sw) s 0x01 (firstWord (.twwait d n sw)))

/-- The frame of copies, near-bank members, releases, barriers, waits, takes and messages as they issue: whenever one goes
on, no place of memory has changed, no strand of another cell but its twin's, and of the issuing strand no vector or mask
register, no window below and no special register that a trap does not write. A scalar register changes only where it is D;
WAITA, the takes and TWSIG can let another strand of the cell or its twin go on, which can write y0-y3. Stored bits that read
wrong are shut out for BARARR and WAITA, which read their word at once. -/
def Obligations.SyncFrame : Prop :=
  ∀ (s t : State) (d a : SReg) (b : Src) (n rows sstr dstr : BitVec 16) (m : BitVec 32) (sz : Fin 6) (sw : Bool)
    (ty : FTy) (sc : Scope) (p : PostIx) (c : Cls) (w : Fin 8) (q : Fin 4),
    s.memOk → s.cur.cell < 2 ^ 20 → (s.pair (pairOf s.cur.cell)).diverged = false →
    let plain := (copyRows d a b n rows sstr dstr m sz sw).map Prod.fst ++ (nearRows ty d a b m sw).map Prod.fst
      ++ [Instr.rel sc sw, .acq sc sw, .fence sc sw, .barinit sc a b sw, .bararr a sw, .barwait a sw, .bartest d a sw,
        .yield sw, .sleep a sw, .put p a b sw, .send c a w sw, .maskc c sw, .unmaskc c sw, .done sw]
    let writers := [Instr.tsmr sc d a sw, .waitt d a sw, .pres d p sw, .clsr d c sw, .twwait d q sw]
    let wakers := [Instr.waita d a b sw, .take d p sw, .peek d p sw, .takef d p sw, .twsig q sw]
    let kept (ds : List SReg) := (∃ x ev, Trapped s t s.cur x ev) ∨ (RegsSame s t ds ∧ (t.strand s.cur).sup = s.me.sup
      ∧ (t.strand s.cur).epc = s.me.epc ∧ (t.strand s.cur).ecause = s.me.ecause ∧ (t.strand s.cur).eval = s.me.eval)
    ∀ i ∈ plain ++ writers ++ wakers, exec i s = .next t →
      (i ∈ [Instr.bararr a sw, .waita d a b sw] → s.flips = []) →
      PlacesSame s t ∧ (∀ j, j.cell ≠ s.cur.cell → j.cell ≠ twinOfCell s.cur.cell → t.strand j = s.strand j)
      ∧ (t.strand s.cur).v = s.me.v ∧ (t.strand s.cur).k = s.me.k ∧ (t.strand s.cur).lower = s.me.lower
      ∧ (t.strand s.cur).tvec = s.me.tvec ∧ (t.strand s.cur).wspill = s.me.wspill ∧ (t.strand s.cur).fmode = s.me.fmode
      ∧ (t.strand s.cur).rmode = s.me.rmode ∧ (t.strand s.cur).seed = s.me.seed
      ∧ (i ∈ plain → kept [] ∧ OthersSame s t s.cur) ∧ (i ∈ writers → kept [d] ∧ OthersSame s t s.cur)
      ∧ (i ∈ wakers → kept [d, .y 0, .y 1, .y 2, .y 3])

/-! ### The vector unit (11) -/

/-- 11 R204: every VINT member, lane by lane. -/
def Obligations.VectorIntegers : Prop :=
  ∀ (s : State) (ty : ITy) (d a b : VReg) (k : KReg) (sw : Bool),
    (∀ r ∈ vintRows ty d a b sw, Goes r.1 s (fun t => Ended s t 1 sw ∧ LanesAre s t d (intWidth ty)
      (fun j => r.2 (intWidth ty) (lane _ s.me.v[a] j) (lane _ s.me.v[b] j))))
    ∧ (∀ r ∈ vintCmpRows ty k a b sw, Goes r.1 s (fun t => Ended s t 1 sw ∧ MaskIs s t k (128 / intWidth ty)
      (fun j => r.2 (intWidth ty) (lane _ s.me.v[a] j) (lane _ s.me.v[b] j))))

/-- 11 R202, 05 R91, R92: every VFP member rounds the exact result of each lane once, in RMODE, and the members that draw
draw once a lane; the compares write one bit a lane. Of VEXP2 at a value that is no integer the exact result is a sum exact to
2^-300 (the model's reading, log 16). Within VSP cycles of the last VFP issue of the cell they stall (18
R355). -/
def Obligations.VectorFloats : Prop :=
  ∀ (s : State) (ty : FTy) (d a b : VReg) (k : KReg) (sw : Bool),
    let f := ftyFmt ty
    let n := 128 / f.width
    let soon := ∃ m, (s.cell s.cur.cell).lastVfp = some m ∧ s.cycle.toNat < m + s.vsp
    (soon → ∀ i ∈ (vfpRows s ty d a b sw).map Prod.fst ++ (vfpCmpRows s ty k a b sw).map Prod.fst, exec i s = .next s)
    ∧ (¬ soon → ∀ r ∈ vfpRows s ty d a b sw, Goes r.1 s (fun t => Ended s t 1 sw
      ∧ (t.cell s.cur.cell).lastVfp = some s.cycle.toNat
      ∧ (let rs := if r.2.2 then (draws s.me.rmode.toNat n s.me.seed).1 else []
         LanesAre s t d f.width (fun j => BitVec.ofNat f.width (f.wr s.me.rmode.toNat s.me.fmode (rs.getD j 0) (r.2.1 j))))
      ∧ (t.strand s.cur).seed = if r.2.2 then (draws s.me.rmode.toNat n s.me.seed).2 else s.me.seed))
    ∧ (¬ soon → ∀ r ∈ vfpCmpRows s ty k a b sw, Goes r.1 s (fun t => Ended s t 1 sw ∧ MaskIs s t k n r.2))

/-- 11 R205, R207: broadcasts, inserts, shuffles, selections, mask operations and moves. -/
def Sys2Proof.Claims.VectorMoves : Prop :=
  ∀ (s : State) (ey : ElemTy) (lw : LaneW) (d a : VReg) (k k2 k3 : KReg) (r : SReg) (x : Src) (n : Fin 2) (sw : Bool),
    (s.me.anyPending [r] = false →
      Goes (.vbcast ey d r sw) s (fun t => Ended s t 1 sw
        ∧ LanesAre s t d (elemWidth ey) (fun _ => BitVec.ofNat _ (s.reg r).toNat))
      ∧ Goes (.vins d r n sw) s (fun t => Ended s t 1 sw
        ∧ LanesAre s t d 64 (fun j => if j = n.val then s.reg r else lane 64 s.me.v[d] j))
      ∧ Goes (.kmov (.ks k r) sw) s (fun t => Ended s t 1 sw ∧ MaskIs s t k 32 (fun j => (s.reg r).getLsbD j = true)))
    ∧ (s.me.anyPending x.regs = false → Goes (.vshuf d a x sw) s (fun t => Ended s t x.words sw
        ∧ LanesAre s t d 8 (fun j => lane 8 s.me.v[a] ((s.src x).toNat / 16 ^ j % 16))))
    ∧ Goes (.vsel d a k lw sw) s (fun t => Ended s t 1 sw ∧ LanesAre s t d (laneBits lw)
        (fun j => if s.me.k[k].getLsbD j then lane _ s.me.v[a] j else lane _ s.me.v[d] j))
    ∧ Goes (.kand k k2 k3 sw) s (fun t => Ended s t 1 sw
        ∧ MaskIs s t k 32 (fun j => s.me.k[k2].getLsbD j = true ∧ s.me.k[k3].getLsbD j = true))
    ∧ Goes (.kor k k2 k3 sw) s (fun t => Ended s t 1 sw
        ∧ MaskIs s t k 32 (fun j => s.me.k[k2].getLsbD j = true ∨ s.me.k[k3].getLsbD j = true))
    ∧ Goes (.kxor k k2 k3 sw) s (fun t => Ended s t 1 sw
        ∧ MaskIs s t k 32 (fun j => s.me.k[k2].getLsbD j ≠ s.me.k[k3].getLsbD j))
    ∧ Goes (.knot k k2 sw) s (fun t => Ended s t 1 sw ∧ MaskIs s t k 32 (fun j => s.me.k[k2].getLsbD j = false))
    ∧ Goes (.kmov (.kk k k2) sw) s (fun t => Ended s t 1 sw ∧ MaskIs s t k 32 (fun j => s.me.k[k2].getLsbD j = true))
    ∧ Goes (.vzero (.v d) sw) s (fun t => Ended s t 1 sw ∧ LanesAre s t d 64 (fun _ => 0#64))
    ∧ Goes (.vzero (.k k) sw) s (fun t => Ended s t 1 sw ∧ MaskIs s t k 32 (fun _ => False))
    ∧ Goes (.vmov d a sw) s (fun t => Ended s t 1 sw ∧ LanesAre s t d 64 (lane 64 s.me.v[a]))

/-- 11 R205, R206, R207: VMOVS, KMOV to a scalar and the reductions put their value in D: the exact sum of integer lanes
modulo 2^64, one of the lanes that none exceeds (or falls below), or the float reduction of the lanes in order, rounded. -/
def Sys2Proof.Claims.VectorToScalar : Prop :=
  ∀ (s : State) (ey : ElemTy) (d : SReg) (a : VReg) (k : KReg) (n : Fin 2) (sw : Bool), s.me.anyPending [d] = false →
    let w := elemWidth ey
    let lanes := (List.range (128 / w)).map (fun j => asInt (elemSigned ey) (lane w s.me.v[a] j))
    let row (i : Instr) (ok : Word → Prop) : Prop := Written s ⟨i, [], d, ok, 1, sw⟩
    row (.vmovs d a n sw) (· = lane 64 s.me.v[a] n.val)
    ∧ row (.kmov (.sk d k) sw) (· = (s.me.k[k]).setWidth 64)
    ∧ (elemFloat ey = none →
      row (.vredadd ey d a sw) (· = BitVec.ofInt 64 lanes.sum)
      ∧ row (.vredmax ey d a sw) (fun v => ∃ x ∈ lanes, v = BitVec.ofInt 64 x ∧ ∀ y ∈ lanes, y ≤ x)
      ∧ row (.vredmin ey d a sw) (fun v => ∃ x ∈ lanes, v = BitVec.ofInt 64 x ∧ ∀ y ∈ lanes, x ≤ y))
    ∧ ∀ f, elemFloat ey = some f →
      let xs := (List.range (128 / w)).map (fun j => f.rd s.me.fmode (lane w s.me.v[a] j).toNat)
      let x0 := xs.headD (.zero false)
      row (.vredadd ey d a sw) (fun v => ∃ r, v = BitVec.ofNat 64
        (f.wr s.me.rmode.toNat s.me.fmode r (xs.tail.foldl (FVal.add (decide (s.me.rmode = 2#3))) x0)))
      ∧ row (.vredmax ey d a sw) (· = BitVec.ofNat 64 (f.wr 0 s.me.fmode 0 (xs.tail.foldl FVal.max x0)))
      ∧ row (.vredmin ey d a sw) (· = BitVec.ofNat 64 (f.wr 0 s.me.fmode 0 (xs.tail.foldl FVal.min x0)))

/-- 11 R208, R209: VCVT converts the low elements of vA and clears the rest of vD: integers clamp to the destination's
limits; floats round in RMODE, to an integer type by R95, and a float destination takes the format's encoding. -/
def Obligations.Conversions : Prop :=
  ∀ (s : State) (dt st : ElemTy) (sat : Bool) (d a : VReg) (sw : Bool),
    let ws := elemWidth st
    let wd := elemWidth dt
    let n := 128 / Nat.max wd ws
    let mode := s.me.rmode.toNat
    let fm := s.me.fmode
    Goes (.vcvt dt st sat d a sw) s (fun t => Ended s t 1 sw
      ∧ (∀ e : VReg, e ≠ d → (t.strand s.cur).v[e] = s.me.v[e])
      ∧ (∀ j, wd * n ≤ j → j < 128 → ((t.strand s.cur).v[d]).getLsbD j = false)
      ∧ ∀ j, j < n →
        let x := lane ws s.me.v[a] j
        let y := lane wd ((t.strand s.cur).v[d]) j
        let r := (draws mode n s.me.seed).1.getD j 0
        (elemFloat st = none → elemFloat dt = none →
          y = BitVec.ofInt wd (max (limits dt).1 (min (limits dt).2 (asInt (elemSigned st) x))))
        ∧ (∀ f, elemFloat st = some f → elemFloat dt = none → s.me.rmode.toNat ≤ 5 →
          y = BitVec.ofInt wd (toType dt mode r (f.rd fm x.toNat)))
        ∧ (∀ g, elemFloat st = none → elemFloat dt = some g →
          y = BitVec.ofNat wd (g.encode mode (outFlush fm g) sat r (FVal.ofInt (asInt (elemSigned st) x))))
        ∧ (∀ f g, elemFloat st = some f → elemFloat dt = some g →
          y = BitVec.ofNat wd (g.encode mode (outFlush fm g) sat r (f.rd fm x.toNat))))

/-- 05 R95: a float value rounded to an integer by R91 and then clamped to the type's range, with 0 for a NaN of any kind;
and the rule's three examples. -/
def Obligations.FloatToInteger : Prop :=
  (∀ (ty : ElemTy) (mode r : Nat) (f : FFmt) (flush : Bool) (bits : Nat), elemFloat ty = none → mode ≤ 5 →
    f ∈ [fmtF32, fmtF16, fmtBf16, fmtE4m3, fmtE5m2] →
    toInteger mode r (limits ty).1 (limits ty).2 (f.decode flush bits) = toType ty mode r (f.decode flush bits))
  ∧ (∀ p lo hi mode r, toInteger mode r lo hi (.nan p) = 0)
  ∧ toInteger 0 0 0 255 (fmtF32.decode false 0xC0600000) = 0
  ∧ toInteger 0 0 (-128) 127 (fmtF32.decode false 0x4396599A) = 127
  ∧ toInteger 0 0 (-32768) 32767 (fmtF32.decode false 0xC0200000) = -2
  ∧ toInteger 4 0 (-32768) 32767 (fmtF32.decode false 0xC0200000) = -3

/-- 05 R91, R94: a value that a format holds is encoded to its own bits in every mode, with or without a saturation
request; no NaN, and every bit pattern below the format's width. -/
def Sys2Proof.Claims.ExactEncodings : Prop :=
  ∀ (f : FFmt) (mode r bits : Nat) (sat : Bool), f ∈ [fmtF32, fmtF16, fmtBf16, fmtE4m3, fmtE5m2] → bits < 2 ^ f.width →
    (f.decode false bits).isNan = false → ((∃ g, f.decode false bits = .inf g) → sat = false) →
    f.encode mode false sat r (f.decode false bits) = bits

/-- 11 R211, R212, R214: VQBLK and VDQBLK whose ranges
lie in the own cell park the strand on a run with their operands, and otherwise raise their cause; at the end VQBLK's D
receives its scale byte. EVAL of a range that starts in the cell and runs past it or into the reserve is its first address, and the
source range is checked first (the model's choices, log 36). -/
def Sys2Proof.Claims.BlockScales : Prop :=
  ∀ (s : State) (ty : FTy) (x : Src) (rd ra : SReg) (qk : BlkKind) (dk : DqKind) (n : BitVec 9) (sw : Bool),
    let size := if ty = .f32 then 4 else 2
    let c := s.cur.cell
    (s.me.anyPending (rd :: ra :: x.regs) = false →
      (∀ oa ob, let m := if qk = .e4m3 ∨ qk = .e5m2 then n.toNat else (n.toNat + 1) / 2
        s.blkCheck c (s.reg ra) (n.toNat * size) size s.me.lock = .ok oa → s.blkCheck c (s.src x) m 1 s.me.lock = .ok ob →
        Goes (.vqblk rd ra x ty qk n sw) s (fun t => ParkedOn s t .blockScale (x.words + 2) sw ∧ t.mem = s.mem
          ∧ ∃ r, (t.cell c).blk = (s.cell c).blk ++ [r] ∧ r.slot = s.cur.slot ∧ r.quant = true ∧ r.ty = ty ∧ r.d = rd
            ∧ r.src = s.reg ra ∧ r.dst = s.src x ∧ r.n = n.toNat ∧ r.fmode = s.me.fmode ∧ r.rmode = s.me.rmode))
      ∧ (∀ oa ob, let m := if dk = .q4 then (n.toNat + 1) / 2 else n.toNat
        s.blkCheck c (s.reg ra) m 1 s.me.lock = .ok oa →
        s.blkCheck c (s.reg rd) (n.toNat * size) size s.me.lock = .ok ob →
        Goes (.vdqblk rd ra x ty dk n sw) s (fun t => ParkedOn s t .blockScale (x.words + 2) sw ∧ t.mem = s.mem
          ∧ ∃ r, (t.cell c).blk = (s.cell c).blk ++ [r] ∧ r.slot = s.cur.slot ∧ r.quant = false ∧ r.ty = ty
            ∧ r.src = s.reg ra ∧ r.dst = s.reg rd ∧ r.scale = (s.src x).setWidth 8 ∧ r.n = n.toNat))
      ∧ (∀ q, s.blkCheck c (s.reg ra) (n.toNat * size) size s.me.lock = .error q →
        Traps (.vqblk rd ra x ty qk n sw) s q.code (s.reg ra))
      ∧ (∀ oa q, let m := if qk = .e4m3 ∨ qk = .e5m2 then n.toNat else (n.toNat + 1) / 2
        s.blkCheck c (s.reg ra) (n.toNat * size) size s.me.lock = .ok oa → s.blkCheck c (s.src x) m 1 s.me.lock = .error q →
        Traps (.vqblk rd ra x ty qk n sw) s q.code (s.src x))
      ∧ (∀ q, let m := if dk = .q4 then (n.toNat + 1) / 2 else n.toNat
        s.blkCheck c (s.reg ra) m 1 s.me.lock = .error q → Traps (.vdqblk rd ra x ty dk n sw) s q.code (s.reg ra))
      ∧ (∀ oa q, let m := if dk = .q4 then (n.toNat + 1) / 2 else n.toNat
        s.blkCheck c (s.reg ra) m 1 s.me.lock = .ok oa →
        s.blkCheck c (s.reg rd) (n.toNat * size) size s.me.lock = .error q →
        Traps (.vdqblk rd ra x ty dk n sw) s q.code (s.reg rd)))
    ∧ ∀ (cc : Nat) (k : Fin 5) (r : BlkRun), (s.cell cc).blk.find? (fun y => y.slot == k) = some r → r.computed = true →
      r.out.length ≤ r.written → Goes (.blockScaleCompletion cc k) s (fun t => WentOn s t ⟨cc, k⟩ false ∧ t.mem = s.mem
        ∧ (r.quant = true → HoldsAt s t ⟨cc, k⟩ r.d (r.result.setWidth 64)) ∧ ∀ y ∈ (t.cell cc).blk, y.slot ≠ k)

/-- The frame of the vector unit: whenever a member goes on, no byte of memory, no scalar register, no other strand and
nothing else of the module but the cell's cycle of its last VFP issue has changed, and of the strand only vD or kD, SEED, and
what the end of an instruction writes;
only the members that write a vector register change one, and only those that write a mask change one. A member with a
scalar D changes D and SEED alone; VQBLK and VDQBLK, as they issue, no register and no byte. -/
def Obligations.VectorFrame : Prop :=
  ∀ (s t : State) (ty : ITy) (fy : FTy) (ey dt : ElemTy) (lw : LaneW) (d a b : VReg) (k k2 k3 : KReg) (r ra : SReg) (x : Src)
    (n : Fin 2) (sat sw : Bool) (qk : BlkKind) (dk : DqKind) (m : BitVec 9),
    (∀ i ∈ vectorInstrs ty fy ey dt lw d a b k k2 k3 r x n sat sw, exec i s = .next t →
      MemorySame s t ∧ OthersSame s t s.cur ∧ RegsSame s t []
      ∧ (∃ m, RestSame (s.updCell s.cur.cell (fun x => { x with lastVfp := m })) t)
      ∧ (∃ v m seed, settled (t.strand s.cur) = settled { s.me with v := s.me.v.set d v, k := s.me.k.set k m, seed := seed })
      ∧ ((t.strand s.cur).v = s.me.v ∨ (t.strand s.cur).k = s.me.k))
    ∧ (∀ i ∈ [Instr.vmovs r a n sw, .kmov (.sk r k) sw, .vredadd ey r a sw, .vredmax ey r a sw, .vredmin ey r a sw],
      exec i s = .next t → MemorySame s t ∧ OthersSame s t s.cur ∧ RegsSame s t [r] ∧ RestSame s t
      ∧ ∃ v seed, settled (t.strand s.cur) = settled { s.me.setWin s.me.sup r v with seed := seed })
    ∧ (∀ i ∈ [Instr.vqblk r ra x fy qk m sw, .vdqblk r ra x fy dk m sw], exec i s = .next t →
      MemorySame s t ∧ OthersSame s t s.cur ∧ (t.strand s.cur).v = s.me.v ∧ (t.strand s.cur).k = s.me.k
      ∧ (t.strand s.cur).seed = s.me.seed ∧ (RegsSame s t [] ∨ ∃ c ev, Trapped s t s.cur c ev))


/-! ### Hiring the arrays (12; 08 R146-R150, R163, R164; 07 R131) -/

/-- 12 R217, 08 R146-R150: HIRE with its block read. A block that fails checks 2 to 6 raises ILL, an operand of class 3 or a
q4 operand outside class 2 raises ADDR, a slot that the strand does not own raises PROT; else, admitted, it takes an entry,
D receives its sequence number, and its slots become Busy; not admitted, it stalls. MMA does the same for one slot and
writes no register. Both raise ILL in a handler. -/
def Obligations.HireIssue : Prop :=
  ∀ (s : State) (batch : Fin 4) (z l o rk : Bool) (d a : SReg) (sw : Bool),
    let i := Instr.hire batch z l o rk d a sw
    let ea := s.reg a
    (s.cur.slot = 4 → Traps i s 0x01 (firstWord i))
    ∧ (s.cur.slot ≠ 4 → s.minimal = false → s.me.anyPending [d, a] = false → s.engineWaits s.cur = false →
      ea.toNat / 2 ^ 60 = 3 → Traps i s 0x03 ea)
    ∧ (s.cur.slot ≠ 4 → s.minimal = false → s.me.anyPending [d, a] = false → s.engineWaits s.cur = false →
      ea.toNat / 2 ^ 60 ≠ 3 → ∀ loc u data v, s.check (s.whoAt s.cur) ea 64 64 .read noPromote = .ok loc u →
      ∀ y, u.access s.cur loc 64 ea = some y → y.readRaw loc 64 = (data, [], v) →
      let f (off n : Nat) : Nat := leNat ((data.drop off).take n)
      let addr (off : Nat) : Word := BitVec.ofNat 64 (f off 8)
      let n := ((f 0x24 2 + 15) / 16) * ((f 0x26 2 + 15) / 16)
      (¬ BlockLegal rk f → Goes i s (fun t => Trapped s t s.cur 0x01 (firstWord i) ∧ OthersSame s t s.cur))
      ∧ (BlockLegal rk f → BadOperand (addr 0) (f 0x2C 1) →
        Goes i s (fun t => Trapped s t s.cur 0x03 (addr 0) ∧ OthersSame s t s.cur))
      ∧ (BlockLegal rk f → ¬ BadOperand (addr 0) (f 0x2C 1) → (rk = true → (s.ownOffset s.cur.cell (addr 0)).isSome) →
        (BadOperand (addr 8) (f 0x2D 1) →
          Goes i s (fun t => Trapped s t s.cur 0x03 (addr 8) ∧ OthersSame s t s.cur))
        ∧ (¬ BadOperand (addr 8) (f 0x2D 1) → (l || o) = true → (addr 16).toNat / 2 ^ 60 = 3 →
          Goes i s (fun t => Trapped s t s.cur 0x03 (addr 16) ∧ OthersSame s t s.cur))
        ∧ (¬ BadOperand (addr 8) (f 0x2D 1) → ((l || o) = true → (addr 16).toNat / 2 ^ 60 ≠ 3) →
          (∀ k, k < n → ¬ Mine v (f 0x30 2 + k) → (∀ j, j < k → Mine v (f 0x30 2 + j)) →
            Goes i s (fun t => Trapped s t s.cur 0x04 (BitVec.ofNat 64 (f 0x30 2 + k)) ∧ OthersSame s t s.cur))
          ∧ ((∀ k, k < n → Mine v (f 0x30 2 + k)) → v.admits s.cur.cell = false → exec i s = .next u)
          ∧ ((∀ k, k < n → Mine v (f 0x30 2 + k)) → v.admits s.cur.cell = true →
            Goes i s (fun t => Hired s v t (fun q => q.block = data.take 56 ∧ q.z = z ∧ q.l = l ∧ q.o = o ∧ q.rk = rk
                ∧ q.mma = false) batch ea (f 0x30 2) n
              ∧ Holds s t d ((seqAfter s).setWidth 64) ∧ RegsSame s t [d] ∧ Ended s t 1 sw ∧ t.mem = v.mem)))))
    ∧ ∀ (pair : MmaPair) (b : Src) (rows cols depth : BitVec 16),
      let i := Instr.mma pair z batch d a b rows cols depth sw
      let p := MmaPair.codes pair
      (s.cur.slot = 4 → Traps i s 0x01 (firstWord i))
      ∧ (s.cur.slot ≠ 4 → s.minimal = false → s.me.anyPending (d :: a :: b.regs) = false → s.engineWaits s.cur = false →
        (BadOperand (s.reg a) p.1 → Traps i s 0x03 (s.reg a))
        ∧ (¬ BadOperand (s.reg a) p.1 → BadOperand (s.src b) p.2 → Traps i s 0x03 (s.src b))
        ∧ (¬ BadOperand (s.reg a) p.1 → ¬ BadOperand (s.src b) p.2 →
          (¬ Mine s (s.reg d).toNat → Traps i s 0x04 (s.reg d))
          ∧ (Mine s (s.reg d).toNat → s.admits s.cur.cell = false → exec i s = .next s)
          ∧ (Mine s (s.reg d).toNat → s.admits s.cur.cell = true →
            Goes i s (fun t => Hired s s t (fun q => q.mma = true ∧ q.z = z ∧ q.l = false ∧ q.o = false ∧ q.rk = false
                ∧ q.aaddr = s.reg a ∧ q.baddr = s.src b ∧ q.lda = s.me.mstra.toNat ∧ q.ldb = s.me.mstrb.toNat
                ∧ q.rows = 16 ∧ q.cols = 16 ∧ q.depth = 16 ∧ q.slotBase = (s.reg d).toNat
                ∧ q.masks = depth ++ cols ++ rows) batch 0#64 (s.reg d).toNat 1
              ∧ RegsSame s t [] ∧ Ended s t (b.words + 2) sw ∧ t.mem = s.mem))))

/-- 12 R218, R220, R223 to R225, R234; 08 R163: each load pipe reads the columns of the hub's next four steps ahead in step order,
four being the model's choice (log 10); an absent page parks the hire, and a failed check is its fault; a faulted hire is cancelled at the boundary; the array that holds the licence runs one step of the hire chosen
and pays its tokens; a short bucket stops it; D units are written; a finished hire frees its entry and its slots, and a
cancelled one leaves its cause, its batch's mark and a late HIREF. -/
def Sys2Proof.Claims.HireRuns : Prop :=
  ∀ (s : State) (t k : Nat) (r : Hire), listGet (s.hub t).hires k = some r →
    (∀ ofB e, e ∈ s.pipeColumns t ofB → NextOfPipe s t ofB e.1 e.2.1 e.2.2)
    ∧ (∀ col n c, listGet (unread s t k) col = some (n, c) →
      let ops := (s.operands r n).filter (fun o => o.col == c)
      (∀ l u, s.operandLocs (r.who s) ops = .ok l u → Intact u l →
        let l32 : Loc := { l with addr := l.addr / 32 * 32 }
        u.behind r.uid l32 (BitVec.ofNat 64 (32 * c)) 32 = false → (u.takeTurn r.cell l32).isSome = true →
        Goes (.operandReadReturn t k col) s (fun w => listGet (w.hub t).hires k
          = some { r with fetched := r.fetched ++ [⟨n, c, u.peek l32 32, false⟩] }
          ∧ w.mem = u.mem ∧ (w.hub t).acc = (u.hub t).acc))
      ∧ (∀ ask, s.operandLocs (r.who s) ops = .wait true ask →
        Goes (.operandReadReturn t k col) s (fun w => listGet (w.hub t).hires k = some { r with state := .onPage } ∧ w.mem = s.mem))
      ∧ (∀ e ev u, s.operandLocs (r.who s) ops = .fault e ev u →
        Goes (.operandReadReturn t k col) s (fun w => listGet (w.hub t).hires k = some { r with fault := some (e, ev) }
          ∧ w.mem = u.mem)))
    ∧ (s.refillDue = false → r.fault ≠ none → r.state ≠ .cancelled → (r.state ≠ .writing ∨ r.writes ≠ []) →
      (∀ q ∈ (s.hub t).hires.take k, q.fault = none ∨ q.state = .cancelled) →
      Goes (.stepBoundary t) s (fun w => listGet (w.hub t).hires k
        = some { r with state := .cancelled, fetched := [], writes := [] } ∧ w.mem = s.mem ∧ (w.hub t).acc = (s.hub t).acc))
    ∧ (ArrayRuns s t → chosen s t = some (k, r) →
      (r.cost ≤ (s.bondAt t).tokens.toNat →
        Goes (.stepBoundary t) s (fun w => (∃ q, listGet (w.hub t).hires k = some q ∧ q.done = r.done + 1
            ∧ q.state = (if r.done + 1 = r.total then .writing else .running) ∧ q.block = r.block ∧ q.seq = r.seq)
          ∧ (w.bondAt t).tokens = (s.bondAt t).tokens - BitVec.ofNat 16 r.cost
          ∧ (w.hub t).steps = (s.hub t).steps + 1#64 ∧ w.mem = s.mem
          ∧ ∀ j, j < r.slotBase ∨ r.slotBase + r.slotCount ≤ j → ∀ x y, x < 16 → y < 16 → w.accElem t j x y = s.accElem t j x y))
      ∧ ((s.bondAt t).tokens.toNat < r.cost →
        Goes (.stepBoundary t) s (fun w => (w.bondAt t).dry = true ∧ (w.bondAt t).tokens = (s.bondAt t).tokens
          ∧ (w.hub t).acc = (s.hub t).acc ∧ w.mem = s.mem ∧ ∀ q ∈ (w.hub t).hires, q.state ≠ .queued ∧ q.state ≠ .running)))
    ∧ (r.fault = none → r.state ≠ .cancelled → ∀ n u l v, listGet r.writes n = some u →
      s.engineLoc (r.whoWrites s) u.ea u.data.length (Nat.max 1 (elemBits r.fmtD / 8)) .write = .ok l v → l.space = .local →
      Intact v l → v.memOk → (v.takeTurn r.cell l).isSome = true → l.addr / 32 = (l.addr + u.data.length - 1) / 32 →
      Goes (.bankAccess (.hireWrite t k n)) s (fun w => StoredAt v w l u.data
        ∧ ∃ q, listGet (w.hub t).hires k = some q ∧ q.writes = listErase r.writes n))
    ∧ (r.poison = [] → r.fault = none → r.state = .writing → r.writes = [] →
      Goes (.hireCompletion t k) s (fun w => (w.hub t).hires = listErase (s.hub t).hires k
        ∧ (w.hub t).hireCount = (s.hub t).hireCount + 1#64 ∧ (w.hub t).acc = (s.hub t).acc ∧ w.mem = s.mem
        ∧ ∀ j, j ∈ r.slots → ((w.hub t).owner j).busy = ((s.hub t).owner j).busy - 1
          ∧ ((w.hub t).owner j).state = if ((s.hub t).owner j).busy ≤ 1 then 1#2 else 2#2))
    ∧ (∀ c ev, r.poison = [] → r.fault = some (c, ev) → r.state = .cancelled → (s.strand r.master).late = [] →
      (s.strand r.master).uid = r.uid → (s.strand r.master).status ≠ .free →
      Goes (.hireCompletion t k) s (fun w => (w.hub t).hires = listErase (s.hub t).hires k
        ∧ (w.strand r.master).late = [⟨.hiref, ev, 1#2 ++ r.seq⟩]
        ∧ ((w.strand r.master).marks[r.batch]).set = true
        ∧ ((s.strand r.master).marks[r.batch] = Mark.zero →
          (w.strand r.master).marks[r.batch] = ⟨true, BitVec.ofNat 8 c.code, r.seq, 1#8⟩) ∧ w.mem = s.mem))

/-- 05 R104: a step of an integer hire after its first adds to each live element of its tile the sum of its products, modulo
2^32, and changes no other element of the hub. -/
def Sys2Proof.Claims.IntegerSteps : Prop :=
  ∀ (s : State) (t k : Nat) (r : Hire), listGet (s.hub t).hires k = some r → ArrayRuns s t → chosen s t = some (k, r) →
    r.cost ≤ (s.bondAt t).tokens.toNat → r.done ≠ 0 → r.rk = false → r.fmtA ∈ [5, 6] → r.fmtB ∈ [5, 6] →
    (s.hub t).accBad = [] →
    let p := r.place r.done
    let slot := r.slotBase + p.2.1 * r.tj + p.2.2
    Goes (.stepBoundary t) s (fun w =>
      (∀ i ∈ r.liveRows r.done, ∀ j ∈ r.liveCols r.done, w.accElem t slot i j = s.accElem t slot i j
        + BitVec.ofInt 32 (((r.liveDepths r.done).map (fun d =>
          (r.value r.done (s.opA r (16 * p.2.1 + i) (16 * p.1 + d))).toInt
            * (r.value r.done (s.opB r (16 * p.1 + d) (16 * p.2.2 + j))).toInt)).sum))
      ∧ ∀ x i j, i < 16 → j < 16 → (x ≠ slot ∨ i ∉ r.liveRows r.done ∨ j ∉ r.liveCols r.done) →
        w.accElem t x i j = s.accElem t x i j)

/-- 12 R228-R233: ACCGET claims and zeroes the lowest run of Free slots, or answers all ones; ACCPUT frees, ACCZ zeroes;
ACCLD reads the image, ACCST sends it in 32 writes, ACCSTM sends the selected elements; a slot outside or of another raises
PROT, a Busy one ACCBUSY; WAITB parks until the batch is over, and D receives its status; HSTAT reads the ring or the
summary; HCANCEL cancels the batch's hires that are not writing. In a lockstep pair ACCGET, ACCPUT, ACCZ and ACCLD stand between
checkpoints, and roll back first when its twins differ (the model's choice, log 9). -/
def Obligations.AccSlots : Prop :=
  ∀ (s : State) (d a : SReg) (b : Src) (n : BitVec 5) (q : Fin 4) (sw : Bool),
    let tile := tileOf s.cur.cell
    let h := s.hub tile
    let m := n.toNat + 1
    let base := (s.reg a).toNat
    let mine (x : Nat) : Prop := ∀ j, j < x → Mine s (base + j) ∧ (h.owner (base + j)).state ≠ 2#2
    let keepAcc (t : State) : Prop := (t.hub tile).acc = h.acc ∧ t.mem = s.mem
    (s.mismatched s.cur = true →
      (s.cur.slot ≠ 4 → s.me.anyPending [d] = false → exec (.accget d n sw) s = .next (s.checkpoint s.cur))
      ∧ (s.cur.slot ≠ 4 → s.me.anyPending [a] = false → mine m →
        exec (.accput a n sw) s = .next (s.checkpoint s.cur) ∧ exec (.accz a n sw) s = .next (s.checkpoint s.cur)))
    ∧ (s.cur.slot ≠ 4 → s.me.anyPending [d] = false → s.mismatched s.cur = false →
      (∀ lo, lo + m ≤ 128 → (∀ j, j < m → (h.owner (lo + j)).state = 0#2) →
        (∀ x, x < lo → ∃ j, j < m ∧ (h.owner (x + j)).state ≠ 0#2) →
        Goes (.accget d n sw) s (fun t => Holds s t d (BitVec.ofNat 64 lo) ∧ RegsSame s t [d] ∧ Ended s t 1 sw
          ∧ (∀ j, j < m → Mine { t with cur := s.cur } (lo + j) ∧ ((t.hub tile).owner (lo + j)).state = 1#2
            ∧ ∀ x y, x < 16 → y < 16 → t.accElem tile (lo + j) x y = 0#32)
          ∧ (∀ k, k < lo ∨ lo + m ≤ k → (t.hub tile).owner k = h.owner k) ∧ t.mem = s.mem))
      ∧ ((∀ x, x + m ≤ 128 → ∃ j, j < m ∧ (h.owner (x + j)).state ≠ 0#2) →
        Goes (.accget d n sw) s (fun t => Holds s t d (BitVec.allOnes 64) ∧ RegsSame s t [d] ∧ Ended s t 1 sw
          ∧ (t.hub tile).owners = h.owners ∧ keepAcc t)))
    ∧ (s.cur.slot ≠ 4 → s.me.anyPending [a] = false →
      (mine m → s.mismatched s.cur = false → Goes (.accput a n sw) s (fun t => (∀ j, j < m → ((t.hub tile).owner (base + j)).state = 0#2)
          ∧ (∀ k, k < base ∨ base + m ≤ k → (t.hub tile).owner k = h.owner k) ∧ keepAcc t ∧ RegsSame s t [] ∧ Ended s t 1 sw)
        ∧ Goes (.accz a n sw) s (fun t => (∀ j, j < m → ∀ x y, x < 16 → y < 16 → t.accElem tile (base + j) x y = 0#32)
          ∧ (∀ k x y, (k < base ∨ base + m ≤ k) → x < 16 → y < 16 → t.accElem tile k x y = s.accElem tile k x y)
          ∧ (t.hub tile).owners = h.owners ∧ t.mem = s.mem ∧ RegsSame s t [] ∧ Ended s t 1 sw))
      ∧ (∀ k, k < m → ¬ Mine s (base + k) → (∀ j, j < k → Mine s (base + j)) →
        Traps (.accput a n sw) s 0x04 (BitVec.ofNat 64 (base + k)) ∧ Traps (.accz a n sw) s 0x04 (BitVec.ofNat 64 (base + k)))
      ∧ ((∀ j, j < m → Mine s (base + j)) → (∃ j, j < m ∧ (h.owner (base + j)).state = 2#2) →
        Traps (.accput a n sw) s 0x0B (s.reg a) ∧ Traps (.accz a n sw) s 0x0B (s.reg a)))
    ∧ (s.cur.slot ≠ 4 → s.me.anyPending (a :: b.regs) = false → mine 1 → (s.src b).toNat / 2 ^ 60 ≠ 3 →
      (∀ ls u, s.checkAll (s.whoAt s.cur) 32 .read (imageUnits (s.src b)) = (ls, none, u) →
        (u.accessAll s.cur 32 (ls.zip ((imageUnits (s.src b)).map Prod.fst))).isSome = true → (∀ l ∈ ls, Intact u l) →
        s.mismatched s.cur = false →
        Goes (.accld a b sw) s (fun t => (∀ i j, i < 16 → j < 16 → imageElem u ls i j (t.accElem tile base i j))
          ∧ (∀ k x y, k ≠ base → x < 16 → y < 16 → t.accElem tile k x y = s.accElem tile k x y)
          ∧ t.mem = u.mem ∧ RegsSame s t [] ∧ Ended s t b.words sw))
      ∧ (∀ ls u, s.checkAll (s.whoAt s.cur) 32 .write (imageUnits (s.src b)) = (ls, none, u) →
        (∀ l ∈ ls, u.blocked s.me.dcls s.cur.cell l = false) → h.accBad = [] →
        Goes (.accst a b sw) s (fun t => (∃ fs : List Flight, t.net = s.net ++ fs ∧ fs.length = 32
          ∧ ∀ (x : Nat) (f : Flight) (l : Loc), fs[x]? = some f →
            ls[x]? = some l → f.who = s.cur ∧ f.uid = s.me.uid ∧ f.body = .mem (.store ((List.range 8).flatMap (fun j =>
              lowBytes 4 (s.accElem tile base (x / 2) (8 * (x % 2) + j)).toNat))) l 32 (s.src b + BitVec.ofNat 64 (32 * x)))
          ∧ t.mem = u.mem ∧ RegsSame s t [] ∧ Ended s t b.words sw)))
    ∧ (∀ (rows cols : BitVec 16) (fmt : AccFmt) (stride : BitVec 24),
      let z := elemBits (Machine.AccFmt.code fmt) / 8
      let us := accstmWrites (fun i j => accConvert (Machine.AccFmt.code fmt) s.me.rmode.toNat s.me.fmode false
        (s.accElem tile base i j)) (s.src b) rows cols z stride.toNat
      s.me.anyPending (a :: b.regs) = false → mine 1 → (s.src b).toNat / 2 ^ 60 ≠ 3 → (parseAddr s.cur.cell (s.src b)).isSome →
      ((s.src b).toNat % z = 0 → stride.toNat % z = 0 → ∀ ls u,
        s.checkAll (s.whoAt s.cur) z .write (us.map (fun x => (x.ea, x.data.length))) = (ls, none, u) →
        (∀ l ∈ ls, u.blocked s.me.dcls s.cur.cell l = false) → h.accBad = [] →
        Goes (.accstm a b rows cols fmt stride sw) s (fun t => (∃ fs : List Flight, t.net = s.net ++ fs ∧ fs.length = us.length
            ∧ ∀ (x : Nat) (f : Flight) (l : Loc) (w : DWrite), fs[x]? = some f → ls[x]? = some l → us[x]? = some w →
              f.who = s.cur ∧ f.body = .mem (.store w.data) l w.data.length w.ea)
          ∧ t.mem = u.mem ∧ RegsSame s t [] ∧ Ended s t (b.words + 2) sw))
      ∧ (((s.src b).toNat % z ≠ 0 ∨ stride.toNat % z ≠ 0) →
        Traps (.accstm a b rows cols fmt stride sw) s 0x06 (s.src b)))
    ∧ (s.cur.slot ≠ 4 → s.me.anyPending [d] = false →
      ((∃ r ∈ h.hires, r.cell = s.cur.cell ∧ r.slot = s.cur.slot ∧ r.uid = s.me.uid ∧ r.batch = q) →
        s.mismatched s.cur = false → Goes (.waitb d q sw) s (fun t => ParkedOn s t (.waitb q d) 1 sw ∧ t.mem = s.mem))
      ∧ (s.me.lock = false → (∀ r ∈ h.hires, ¬ (r.cell = s.cur.cell ∧ r.slot = s.cur.slot ∧ r.uid = s.me.uid ∧ r.batch = q)) →
        Goes (.waitb d q sw) s (fun t => Holds s t d (BitVec.ofNat 64 ((s.me.marks[q]).cause.toNat
            + 2 ^ 16 * (s.me.marks[q]).seq.toNat + 2 ^ 32 * (s.me.marks[q]).nfail.toNat))
          ∧ (t.strand s.cur).marks[q] = ⟨false, 0#8, 0#16, 0#8⟩ ∧ RegsSame s t [d] ∧ Ended s t 1 sw ∧ t.mem = s.mem)))
    ∧ (∀ (c : Nat) (k : Fin 5), (s.strand ⟨c, k⟩).status = .parked (.waitb q d) → (s.strand ⟨c, k⟩).lock = false →
      (∀ r ∈ (s.hub (tileOf c)).hires, ¬ (r.cell = c ∧ r.slot = k ∧ r.uid = (s.strand ⟨c, k⟩).uid ∧ r.batch = q)) →
      Goes (.waitbReturn c k) s (fun t => HoldsAt s t ⟨c, k⟩ d ((s.strand ⟨c, k⟩).marks[q]).status
        ∧ (t.strand ⟨c, k⟩).marks[q] = Mark.zero ∧ WentOn s t ⟨c, k⟩ false ∧ t.mem = s.mem))
    ∧ (Goes (.hcancel q sw) s (fun t => Ended s t 1 sw ∧ RegsSame s t [] ∧ keepAcc t
        ∧ (t.hub tile).hires.length = h.hires.length
        ∧ ∀ (x : Nat) (r : Hire), h.hires[x]? = some r → ∃ r' : Hire, (t.hub tile).hires[x]? = some r'
          ∧ ((r.isOf s.cur s.me.uid = true ∧ r.batch = q ∧ r.state ≠ .writing ∧ r.state ≠ .cancelled) →
            r' = { r with state := .cancelled, fetched := [], writes := [], fault := none })
          ∧ (¬ (r.isOf s.cur s.me.uid = true ∧ r.batch = q ∧ r.state ≠ .writing ∧ r.state ≠ .cancelled) → r' = r)))
    ∧ (s.cur.slot = 4 → Traps (.accget d n sw) s 0x01 (firstWord (.accget d n sw))
      ∧ Traps (.accput a n sw) s 0x01 (firstWord (.accput a n sw)) ∧ Traps (.accz a n sw) s 0x01 (firstWord (.accz a n sw))
      ∧ Traps (.accld a b sw) s 0x01 (firstWord (.accld a b sw)) ∧ Traps (.accst a b sw) s 0x01 (firstWord (.accst a b sw))
      ∧ Traps (.waitb d q sw) s 0x01 (firstWord (.waitb d q sw)))

/-- 12 R235, R237, R234; 08 R163: LICREQ and LICREL set and clear the pin of the strand's tile in the supervisor, and raise
PRIV outside; the licence is granted to a requester when nobody holds it, the lower array first after reset, as the
reset state grants the upper one last, and a holder
whose hold has reached 16,384 cycles yields to its twin; the refill adds RATE up to CEIL at each multiple of 4,096 cycles. CAPHOT
clears at the earliest 65,536 cycles after its stop (18 R357), and each of the two is reported to the physical function, which is
the model's choice (log 41). -/
def Sys2Proof.Claims.Licences : Prop :=
  ∀ (s : State) (sw : Bool) (b : Nat), b / 2048 % 2 = 0 →
    let tile := tileOf s.cur.cell
    let x := s.bond b
    (s.me.sup = true →
      Goes (.licreq sw) s (fun t => t.pinned tile = true ∧ t.requests tile = true ∧ t.pinned (twinTile tile) = s.pinned (twinTile tile)
        ∧ Ended s t 1 sw ∧ RegsSame s t [] ∧ t.mem = s.mem ∧ OthersSame s t s.cur)
      ∧ Goes (.licrel sw) s (fun t => t.pinned tile = false ∧ ((s.hub tile).hires = [] → s.holds tile = true → t.holds tile = false)
        ∧ Ended s t 1 sw ∧ RegsSame s t [] ∧ t.mem = s.mem ∧ OthersSame s t s.cur))
    ∧ (s.me.sup = false → Traps (.licreq sw) s 0x02 (firstWord (.licreq sw)) ∧ Traps (.licrel sw) s 0x02 (firstWord (.licrel sw)))
    ∧ (x.holder = 0#2 → s.minimal = false → (x.yieldAt = none ∨ ∃ y, x.yieldAt = some y ∧ y + 64 ≤ s.cycle.toNat) →
      (s.requests b = true → s.requests (b + 2048) = false →
        Goes (.licenceGrant b) s (fun t => (t.bond b).holder = 1#2 ∧ (t.bond b).grantAt = s.cycle.toNat ∧ t.mem = s.mem))
      ∧ (s.requests b = false → s.requests (b + 2048) = true →
        Goes (.licenceGrant b) s (fun t => (t.bond b).holder = 2#2 ∧ (t.bond b).grantAt = s.cycle.toNat ∧ t.mem = s.mem))
      ∧ (s.requests b = true → s.requests (b + 2048) = true →
        Goes (.licenceGrant b) s (fun t => (t.bond b).holder = (if x.lastUpper then 1#2 else 2#2)
          ∧ (t.bond b).grantAt = s.cycle.toNat ∧ t.mem = s.mem)))
    ∧ (x.holder = 1#2 → s.requests (b + 2048) = true → x.grantAt + 16384 ≤ s.cycle.toNat →
      Goes (.licenceHoldExpiry b) s (fun t => (t.bond b).holder = 0#2 ∧ (t.bond b).yieldAt = some s.cycle.toNat ∧ t.mem = s.mem))
    ∧ (s.started = true → s.cycle.toNat % 4096 = 0 → s.refillAt ≠ some s.cycle.toNat → s.powerReq = none →
      Goes .heatRefill s (fun t => (t.bond b).dry = false ∧ t.mem = s.mem
        ∧ (t.bond b).tokens.toNat = Nat.min s.ceil.toNat (x.tokens.toNat + s.rate.toNat)))
    ∧ (x.caphot = false → Goes (.capHot b) s (fun t => (t.bond b).caphot = true ∧ (t.bond b).hotAt = s.cycle.toNat ∧ ReportedPhysical s t))
    ∧ (x.caphot = true → x.hotAt + 65536 ≤ s.cycle.toNat →
      Goes (.caphotClear b) s (fun t => (t.bond b).caphot = false ∧ ReportedPhysical s t))
    ∧ (x.caphot = true → s.cycle.toNat < x.hotAt + 65536 → exec (.caphotClear b) s = .next s)
    ∧ (State.reset.bond b).lastUpper = true

/-! ### Rank streams (13; 08 R151, R152) -/

/-- 13 R242-R247 as they issue: RANK joins the ranking network's queue; RSEND, its release over, sends its first index and
goes on at once or byte by byte; RWACC parks on its stream, RVAL on its vector; RTLD loads its table; RCLR resets its stream,
but for what arrives in its own cycle. In a lockstep pair RTLD and RCLR stand between checkpoints, and roll back first when its
twins differ (the model's choice, log 9). A control word out of range raises ILL. -/
def Sys2Proof.Claims.RankIssue : Prop :=
  ∀ (s : State) (d a : SReg) (b : Src) (c : Cls) (n : Fin 4) (sw : Bool),
    let own := s.cur.cell
    let ctl := s.src b
    (s.me.anyPending (d :: a :: b.regs) = false →
      (∀ r oa oo, RankFields ctl r →
        let size := if r.ty = .f32 then 4 else 2
        s.blkCheck own (s.reg a) (r.n * size) size s.me.lock = .ok oa →
        s.blkCheck own (BitVec.ofNat 64 r.out) r.k 1 s.me.lock = .ok oo →
        Goes (.rank d a b sw) s (fun t => ParkedOn s t .rank b.words sw ∧ t.mem = s.mem
          ∧ ∃ q, (t.cell own).ranking = (s.cell own).ranking ++ [q] ∧ q.slot = s.cur.slot ∧ q.val = false ∧ q.d = d
            ∧ q.src = s.reg a ∧ q.dst = BitVec.ofNat 64 r.out ∧ q.ctl = ctl ∧ q.fmode = s.me.fmode ∧ q.granted = false
            ∧ q.read = [] ∧ q.out = none ∧ (s.me.progValid = false → q.start = 0)))
      ∧ ((∀ r, ¬ RankFields ctl r) → Traps (.rank d a b sw) s 0x01 (firstWord (.rank d a b sw))))
    ∧ (∀ target oa, s.me.anyPending (a :: b.regs) = false → ctl.toNat / 2 ^ 22 % 2 ^ 10 = 0 → ctl.toNat / 2 ^ 41 = 0 →
      let m := ctl.toNat / 2 ^ 32
      m ≤ 256 → s.adapt.getLsbD c.val = false → s.teamCell own (ctl.toNat % 2 ^ 20) = some target →
      s.blkCheck own (s.reg a) m 1 s.me.lock = .ok oa →
      (m = 0 → Goes (.rsend c a b sw) s (fun t => Ended s t b.words sw ∧ RegsSame s t [] ∧ t.mem = s.mem))
      ∧ (1 ≤ m → AtOnce s (commonScope own target) target (BitVec.ofNat 3 c.val) → s.portFull s.cur c = false →
        (s.access s.cur ⟨.local, own, oa⟩ 1 (s.reg a)).isSome = true → Intact s ⟨.local, own, oa⟩ →
        Goes (.rsend c a b sw) s (fun t => Posted s t s.cur (.rank (Memory.get s.mem (⟨.local, own, oa⟩ : Loc).key)
            (Fin.ofNat 4 (ctl.toNat / 2 ^ 20))) target (BitVec.ofNat 3 c.val)
          ∧ (m = 1 → Ended s t b.words sw)
          ∧ (1 < m → ParkedOn s t (.release (commonScope own target) (.rsend c target ⟨.local, own, oa + 1⟩ (s.reg a + 1#64)
            (m - 1) (Fin.ofNat 4 (ctl.toNat / 2 ^ 20)))) b.words sw)
          ∧ RegsSame s t [] ∧ t.mem = s.mem)))
    ∧ (s.me.anyPending (a :: b.regs) = false →
      (ctl.toNat / 2 ^ 22 % 2 ^ 10 ≠ 0 ∨ ctl.toNat / 2 ^ 41 ≠ 0 ∨ 256 < ctl.toNat / 2 ^ 32 % 2 ^ 9) →
      Traps (.rsend c a b sw) s 0x01 (firstWord (.rsend c a b sw)))
    ∧ (s.cur.slot ≠ 4 → s.me.anyPending (d :: a :: b.regs) = false →
      (∀ r oa od, RwaccFields ctl r →
        let size := if r.ty = .f32 then 4 else 2
        s.blkCheck own (s.reg a) size size s.me.lock = .ok oa → s.blkCheck own (s.reg d) (4 * r.w) 4 s.me.lock = .ok od →
        s.me.progValid = false →
        Goes (.rwacc d a b sw) s (fun t => ParkedOn s t (.rwacc ctl (s.reg a) (s.reg d) 0 s.tick none) b.words sw ∧ t.mem = s.mem))
      ∧ ((∀ r, ¬ RwaccFields ctl r) → Traps (.rwacc d a b sw) s 0x01 (firstWord (.rwacc d a b sw))))
    ∧ (s.cur.slot = 4 → Traps (.rwacc d a b sw) s 0x01 (firstWord (.rwacc d a b sw)))
    ∧ (s.me.anyPending (d :: a :: b.regs) = false →
      (∀ r oa od, RvalFields ctl r →
        let size := if r.wide then 4 else 2
        s.blkCheck own (s.reg a) r.c 1 s.me.lock = .ok oa → s.blkCheck own (s.reg d) (r.n * size) size s.me.lock = .ok od →
        Goes (.rval d a b sw) s (fun t => ParkedOn s t .rank b.words sw ∧ t.mem = s.mem
          ∧ ∃ q, (t.cell own).ranking = (s.cell own).ranking ++ [q] ∧ q.slot = s.cur.slot ∧ q.val = true ∧ q.src = s.reg a
            ∧ q.dst = BitVec.ofNat 64 od ∧ q.ctl = ctl ∧ q.fmode = s.me.fmode ∧ q.granted = true
            ∧ q.read = [] ∧ q.out = none ∧ (s.me.progValid = false → q.start = 0)))
      ∧ ((∀ r, ¬ RvalFields ctl r) → Traps (.rval d a b sw) s 0x01 (firstWord (.rval d a b sw))))
    ∧ (∀ ls u, s.me.anyPending [a] = false → (s.reg a).toNat / 2 ^ 60 ≠ 3 →
      let units := (List.range 16).map (fun x => (s.reg a + BitVec.ofNat 64 (32 * x), 32))
      s.checkAll (s.whoAt s.cur) 32 .read units = (ls, none, u) →
      ∀ v, u.accessAll s.cur 32 (ls.zip (units.map Prod.fst)) = some v →
      (s.mismatched s.cur = true → exec (.rtld a n sw) s = .next (v.checkpoint s.cur))
      ∧ (s.mismatched s.cur = false → (∀ l ∈ ls, Intact u l) →
        Goes (.rtld a n sw) s (fun t => Ended s t 1 sw ∧ RegsSame s t [] ∧ t.mem = u.mem
          ∧ (∀ j l, j < 256 → ls[j / 16]? = some l →
            ((t.cell own).rankTab.get 0#16 (256 * n.val + j)).toNat = elemOf u l 2 (j % 16))
          ∧ ∀ x, x / 256 ≠ n.val → (t.cell own).rankTab.get 0#16 x = (s.cell own).rankTab.get 0#16 x)))
    ∧ (s.mismatched s.cur = true → exec (.rclr n sw) s = .next (s.checkpoint s.cur))
    ∧ (s.mismatched s.cur = false → Goes (.rclr n sw) s (fun t => Ended s t 1 sw ∧ RegsSame s t [] ∧ t.mem = s.mem
        ∧ (t.cell own).rankCount[n] = BitVec.ofNat 16 ((s.cell own).ranks.filter (fun e =>
            e.stream == n && e.since == s.cycle.toNat)).length
        ∧ (∀ m, m ≠ n → (t.cell own).rankCount[m] = (s.cell own).rankCount[m])
        ∧ (∀ e, e.stream ≠ n → (e ∈ (t.cell own).ranks ↔ e ∈ (s.cell own).ranks))
        ∧ ∀ e ∈ (t.cell own).ranks, e.stream = n → e.since = s.cycle.toNat))

/-- 13 R242, R246: the network takes the next waiting RANK when none holds it; a run reads its source column by column; then a
RANK has the indices of its values in rank order, and an RVAL its vector from the table, and writes them column by column; with
the last one D takes RANK's count, and the strand goes on. -/
def Sys2Proof.Claims.RankColumns : Prop :=
  (∀ (s : State) (t c : Nat) (r : RankRun), (∀ j, j < 16 → (s.cell (16 * t + j)).holdsNetwork = false) →
    s.nextRank t = some c → (s.cell c).rankWaiting = some r →
    Goes (.rankNetworkGrant t) s (fun w => (w.hub t).rankNext = (c + 1) % 16 ∧ w.mem = s.mem
      ∧ (w.cell c).ranking = (s.cell c).ranking.map (fun y => if y.slot = r.slot then { r with granted := true } else y)))
  ∧ ∀ (s : State) (c : Nat) (k : Fin 5) (r : RankRun), Runs s c k r → r.granted = true →
    (s.strand ⟨c, k⟩).status = .parked .rank → s.memOk →
    (r.out = none → r.read.length < r.bytes →
      let off := r.src.toNat % 2 ^ 16 + r.read.length
      let m := Nat.min (r.bytes - r.read.length) (32 - off % 32)
      let l : Loc := ⟨.local, c, off⟩
      (s.access ⟨c, k⟩ l m (r.src + BitVec.ofNat 64 r.read.length)).isSome = true → Intact s l →
      Goes (.bankAccess (.ranking c k)) s (fun t => Runs t c k { r with read := r.read ++ s.peek l m } ∧ t.mem = s.mem))
    ∧ (r.out = none → r.bytes ≤ r.read.length → r.start = 0 → r.val = false → ∀ q, RankFields r.ctl q →
      Goes (.bankAccess (.ranking c k)) s (fun t => t.mem = s.mem
        ∧ ∃ L, RankedBy (fun j => (ftyFmt q.ty).rd r.fmode (elemAt (ftyCode q.ty) r.read j)) q.n L
          ∧ (L ≠ [] → Runs t c k { r with out := some ((L.take q.k).map (BitVec.ofNat 8)), written := 0 })
          ∧ (L = [] → RunEnded s t c k r 0)))
    ∧ (r.out = none → r.bytes ≤ r.read.length → r.start = 0 → r.val = true → ∀ q, RvalFields r.ctl q → (s.cell c).rankBad = [] →
      let size := if q.wide then 4 else 2
      let carries (p j : Nat) : Prop := p < q.c ∧ (r.read.getD p 0#8).toNat = j
      Goes (.bankAccess (.ranking c k)) s (fun t => t.mem = s.mem ∧ ∃ v : Nat → Nat,
        Runs t c k { r with out := some ((List.range q.n).flatMap (fun j => lowBytes size (v j))), written := 0 }
        ∧ ∀ j, j < q.n → ((∀ p, ¬ carries p j) → v j = 0) ∧ ∀ p, carries p j → (∀ x, p < x → ¬ carries x j) →
          let x := fmtF16.rd r.fmode ((s.cell c).rankTab.get 0#16 (256 * q.tab + p)).toNat
          v j = (if q.wide then fmtF32.encode 0 false false 0 x else fmtF16.encode 0 false false 0 x)))
    ∧ (∀ out, r.out = some out → r.written < out.length →
      let o := r.dst.toNat + r.written
      let m := Nat.min (out.length - r.written) (32 - o % 32)
      let l : Loc := ⟨.local, c, o⟩
      (s.access ⟨c, k⟩ l m (BitVec.ofNat 64 o)).isSome = true → Intact s l →
      Goes (.bankAccess (.ranking c k)) s (fun t => StoredAt s t l ((out.drop r.written).take m)
        ∧ (r.written + m < out.length → Runs t c k { r with written := r.written + m })
        ∧ (r.written + m = out.length → RunEnded s t c k r out.length)))

/-- 13 R244, R245, 08 R151: an arrival takes its stream's count as its rank; a parked RWACC pops its oldest arrival of an earlier
cycle and adds its row, times the table's entry, or adds nothing at rank 256 and above; a row past the cell raises ADDR, with the
row's address (the model's reading, log 36) and the arrival not popped. The first poison that it read (log 37) is pending when it
ends. In a lockstep pair each arrival stands between checkpoints (the model's choice, log 9). -/
def Sys2Proof.Claims.RankRuns : Prop :=
  (∀ (s : State) (k c : Nat) (f : Flight) (index : Byte) (st : Fin 4), Arrives s k f → f.body = .rank index st →
    f.dstCell = some c →
    ((s.cell c).ranks.length < 64 → Goes (.rankArrival k) s (fun t => t.net = listErase s.net k
      ∧ (t.cell c).ranks = (s.cell c).ranks ++ [⟨index, st, (s.cell c).rankCount[st], s.cycle.toNat⟩]
      ∧ (t.cell c).rankCount[st].toNat = Nat.min 0xFFFF ((s.cell c).rankCount[st].toNat + 1) ∧ t.mem = s.mem))
    ∧ ((s.cell c).ranks.length = 64 → exec (.rankArrival k) s = .next s))
  ∧ ∀ (s : State) (i : SlotId) (ctl a acc : Word) (done since n oa od : Nat) (poison : Option LateTrap) (r : RwaccCtl)
      (e : RankEntry),
    let c := i.cell
    let t0 := s.strand i
    let size := if r.ty = .f32 then 4 else 2
    let row : Loc := ⟨.local, c, oa + e.index.toNat * r.stride⟩
    let dst : Loc := ⟨.local, c, od⟩
    let tv := fmtF16.rd t0.fmode ((s.cell c).rankTab.get 0#16 (256 * r.tab + e.rank.toNat)).toNat
    let sum (j : Nat) : BitVec 32 := f32Rne t0.fmode (FVal.add false (fmtF32.decode false (elemOf s dst 4 j))
      (tv.mul ((ftyFmt r.ty).rd t0.fmode (elemOf s row size j))))
    t0.status = .parked (.rwacc ctl a acc done since poison) → RwaccFields ctl r → s.ownOffset c a = some oa →
    s.ownOffset c acc = some od → (∀ x ∈ (s.cell c).rwaccs r.st, since ≤ x.2) → s.owes t0.uid = false →
    listFind (fun (y : RankEntry) => y.stream == r.st) (s.cell c).ranks = some n → listGet (s.cell c).ranks n = some e →
    e.since < s.cycle.toNat →
    let after (t : State) : Prop := (t.cell c).ranks = listErase (s.cell c).ranks n
      ∧ (done + 1 = r.p → WentOn s t i false ∧ (t.strand i).progValid = false
        ∧ (t.strand i).late = t0.late ++ poison.toList)
      ∧ (done + 1 ≠ r.p → (t.strand i).status = .parked (.rwacc ctl a acc (done + 1) since poison) ∧ (t.strand i).pc = t0.pc
        ∧ (t.strand i).late = t0.late)
    (256 ≤ e.rank.toNat → s.mismatched i = true → exec (.rwaccPop c i.slot) s = .next (s.checkpoint i))
    ∧ (256 ≤ e.rank.toNat → s.mismatched i = false → Goes (.rwaccPop c i.slot) s (fun t => after t ∧ t.mem = s.mem))
    ∧ (e.rank.toNat < 256 → row.addr + r.w * size ≤ (if t0.lock then 0xB000 else 0xC000) →
      s.mayAccess i row (r.w * size) (a + BitVec.ofNat 64 (e.index.toNat * r.stride)) = true →
      s.mayAccess i dst (4 * r.w) acc = true → Intact s dst → s.memOk → s.mismatched i = false →
      (s.takeTurns c (columnsOf row (r.w * size) ++ columnsOf dst (4 * r.w))).isSome = true → (s.cell c).rankBad = [] →
      Goes (.rwaccPop c i.slot) s (fun t => after t
        ∧ StoredAt s t dst ((List.range r.w).flatMap (fun j => lowBytes 4 (sum j).toNat))))
    ∧ (e.rank.toNat < 256 → 0xC000 < row.addr + r.w * size →
      Goes (.rwaccPop c i.slot) s (fun t => Trapped s t i 0x03 (a + BitVec.ofNat 64 (e.index.toNat * r.stride))
        ∧ (t.strand i).late = t0.late ++ poison.toList
        ∧ (t.strand i).progIndex = BitVec.ofNat 48 done ∧ (t.strand i).progValid = true
        ∧ (t.cell c).ranks = (s.cell c).ranks ∧ t.mem = s.mem))

/-! ### The damask walker (13 R249-R259) -/

/-- The walker members but TSTAT: the instruction, its operation, and whether the walker writes (13 R249-R251). -/
def Sys2Proof.Claims.walkRows (d a : SReg) (b : Src) (sw : Bool) : List (Instr × WalkOp × List SReg × Nat) :=
  [ (.tnew d a b sw, .tnew, b.regs, b.words), (.tapp d a b sw, .tapp, b.regs, b.words),
    (.twalk d a b sw, .twalk, b.regs, b.words), (.tsum d a b sw, .tsum, b.regs, b.words), (.tdrop d a sw, .tdrop, [], 1) ]

/-- What each member's other operand must be (13 R253-R257). -/
def Sys2Proof.Claims.walkOperand (s : State) (d : SReg) (v : Word) : WalkOp → Prop
  | .tnew => 1 ≤ v.toNat % 2 ^ 16 ∧ v.toNat % 2 ^ 16 ≤ 256 ∧ v.toNat / 2 ^ 16 % 2 ^ 16 ≤ 256 ∧ v.toNat / 2 ^ 32 ≠ 0
  | .tapp => v.toNat / 2 ^ 60 < 3 ∧ v.toNat % 4 = 0
  | .twalk => v.toNat / 2 ^ 60 < 3 ∧ v.toNat % 32 = 0
  | .tsum => ∃ off, s.blkCheck s.cur.cell (s.reg d) 16 16 s.me.lock = .ok off
  | _ => True

/-- 13 R250, R253: a walker member with a good base and operand joins its group's queue and parks; a base of another class
raises ADDR, a misaligned one ALIGN; in a handler all but TSTAT raise ILL; TNEW's control word out of range raises ILL;
TOPEN writes TAU, THETA, CMIN and TMODE. -/
def Sys2Proof.Claims.WalkIssue : Prop :=
  ∀ (s : State) (d a : SReg) (b : Src) (sel : Fin 4) (sw : Bool),
    let base := s.reg a
    let g := groupOf s.cur.cell
    let queued (i : Instr) (op : WalkOp) (v : Word) (words : Nat) : Prop :=
      Goes i s (fun t => ParkedOn s t (.walker s.tick) words sw ∧ t.mem = s.mem
        ∧ ∃ q, (t.group g).walkq = (s.group g).walkq ++ [q] ∧ q.op = op ∧ q.cell = s.cur.cell ∧ q.slot = s.cur.slot
          ∧ q.uid = s.me.uid ∧ q.d = d ∧ q.a = base ∧ (op = .tdrop ∨ q.b = v) ∧ q.tau = s.me.tau ∧ q.theta = s.me.theta
          ∧ q.cmin = s.me.cmin ∧ q.tmode = s.me.tmode ∧ q.restarts = 0 ∧ q.rlock = false
          ∧ q.since = s.tick)
    (∀ r ∈ walkRows d a b sw,
      (s.cur.slot = 4 → Traps r.1 s 0x01 (firstWord r.1))
      ∧ (s.cur.slot ≠ 4 → s.me.anyPending (d :: a :: r.2.2.1) = false → s.engineWaits s.cur = false → s.mismatched s.cur = false →
        (walkOperand s d (s.src b) r.2.1 → base.toNat / 2 ^ 60 = 2 → base.toNat / 2 ^ 36 % 2 ^ 24 ≠ 0 → base.toNat % 64 = 0 →
          queued r.1 r.2.1 (s.src b) r.2.2.2)
        ∧ (walkOperand s d (s.src b) r.2.1 → base.toNat / 2 ^ 60 ≠ 2 → Traps r.1 s 0x03 base)
        ∧ (walkOperand s d (s.src b) r.2.1 → base.toNat / 2 ^ 60 = 2 → base.toNat / 2 ^ 36 % 2 ^ 24 ≠ 0 →
          base.toNat % 64 ≠ 0 → Traps r.1 s 0x06 base)
        ∧ (r.2.1 = .tnew → ¬ walkOperand s d (s.src b) .tnew → Traps r.1 s 0x01 (firstWord r.1))))
    ∧ (s.me.anyPending [d, a] = false → s.engineWaits s.cur = false → base.toNat / 2 ^ 60 = 2 →
      base.toNat / 2 ^ 36 % 2 ^ 24 ≠ 0 → base.toNat % 64 = 0 → queued (.tstat d a sel sw) (.tstat sel) 0#64 1)
    ∧ (s.me.anyPending (a :: b.regs) = false →
      ((s.src b).toNat / 2 ^ 33 = 0 → Goes (.topen a b sw) s (fun t => (t.strand s.cur).tau = (s.reg a).extractLsb' 0 32
        ∧ (t.strand s.cur).theta = (s.reg a).extractLsb' 32 32 ∧ (t.strand s.cur).cmin = (s.src b).extractLsb' 0 32
        ∧ (t.strand s.cur).tmode = (s.src b).getLsbD 32 ∧ Ended s t b.words sw ∧ RegsSame s t [] ∧ t.mem = s.mem
        ∧ OthersSame s t s.cur))
      ∧ ((s.src b).toNat / 2 ^ 33 ≠ 0 → Traps (.topen a b sw) s 0x01 (firstWord (.topen a b sw))))

/-- 13 R251-R259: the walker takes the next request once the write lock is free, setting it for TNEW, TAPP and TDROP, which wait
for the readers, and gives it back while its class is open. TNEW makes an empty tree and TDROP drops one; TAPP whose leaf has room
adds the record to the nodes of its path and to the leaf, and counts its key and version; TSTAT reads the descriptor; TSUM writes a
node's summary; TWALK writes the entries of its visit, and a full buffer leaves the cursor. Statuses 2 to 5, BAD and STALE are
as R252 and R258 give them, a descriptor with a nonzero zero field by the model's choice (log 62). A read without the lock that
finds the tree changed restarts, and from its fourth restart on takes the read lock. -/
def Sys2Proof.Claims.WalkerRuns : Prop :=
  ∀ (s : State) (g : Nat) (r : WalkReq), r.a.toNat % 64 = 0 → s.flips = [] → s.memOk → s.walkWaits r = true →
    (∀ rest u, (s.group g).running = none → (s.group g).walkq = r :: rest →
      s.walkTree (r.who s) r.a r.op.perm [(0, 64)] [] = .ok none u →
      ((u.descAt r.a).wlock = true → exec (.walkerStart g) s = .next u)
      ∧ ((u.descAt r.a).wlock = false → Goes (.walkerStart g) s (fun t => (t.group g).walkq = rest
        ∧ (t.group g).running = some { r with version := BitVec.ofNat 64 (u.descAt r.a).version }
        ∧ (r.op.writes = true → t.descAt r.a = { u.descAt r.a with wlock := true })
        ∧ (r.op.writes = false → r.rlock = true → (u.descAt r.a).readers < 0xFFFF →
          t.descAt r.a = { u.descAt r.a with readers := (u.descAt r.a).readers + 1 })
        ∧ (r.op.writes = false → r.rlock = false → t.mem = u.mem))))
    ∧ ((s.group g).running = some r → s.walkClosed r = true → exec (.walkerCompletion g) s = .next s)
    ∧ ((s.group g).running = some r → s.walkClosed r = false → s.mismatched r.id = false →
      let d := s.descAt r.a
      let dim := d.d + d.vd
      let rest (t : State) : Prop := WentOn s t r.id false ∧ (t.group g).running = none
      let answers (t : State) (v : Word) : Prop := HoldsAt s t r.id r.d v ∧ rest t
      let same : Prop := r.rlock = false ∧ d.wlock = false ∧ BitVec.ofNat 64 d.version = r.version
      (r.op.writes = true → d.readers ≠ 0 → exec (.walkerCompletion g) s = .next s)
      ∧ (r.op = .tnew → d.readers = 0 →
        let nd := r.b.toNat % 2 ^ 16
        let nv := r.b.toNat / 2 ^ 16 % 2 ^ 16
        let capn := r.b.toNat / 2 ^ 32
        let nsz := (64 + 68 * (nd + nv) + 63) / 64 * 64
        r.a.toNat % 2 ^ 36 + 64 + nsz * capn ≤ (s.handle (r.a.toNat / 2 ^ 36 % 2 ^ 24)).limit.toNat + 1 → nd ≤ 256 → nv ≤ 256 →
        (d.valid = true → Goes (.walkerCompletion g) s (fun t => answers t 5#64))
        ∧ (d.valid = false → ∀ u, s.walkTree (r.who s) r.a .write [] [(64, 64 + 4 * (nd + nv)), (0, 64)] = .ok none u →
          Goes (.walkerCompletion g) s (fun t => answers t 0#64
            ∧ t.descAt r.a = ⟨nd, nv, 0, 1, false, true, 0, nsz, capn, 1, 0xFFFFFFFF, 0, 0⟩)))
      ∧ (r.op = .tdrop → d.readers = 0 →
        (d.valid = false → Goes (.walkerCompletion g) s (fun t => answers t 2#64))
        ∧ (d.valid = true → s.descZero r.a = true → Goes (.walkerCompletion g) s (fun t => answers t 0#64 ∧ t.descAt r.a
          = { d with valid := false, used := 0, keys := 0, free := 0xFFFFFFFF, wlock := false }))
        ∧ (d.valid = true → s.descZero r.a = false → Goes (.walkerCompletion g) s (fun t => answers t 3#64)))
      ∧ (r.op = .tapp → d.readers = 0 →
        (d.valid = false → Goes (.walkerCompletion g) s (fun t => answers t 2#64))
        ∧ (d.valid = true → s.descZero r.a = false → Goes (.walkerCompletion g) s (fun t => answers t 3#64))
        ∧ (d.valid = true → s.descZero r.a = true → ∀ data u, s.walkRead (r.who s) r.b (4 * dim) = .ok (data, none) u →
          let record := f32s dim data
          ((∃ x ∈ record, f32Finite x = false) → Goes (.walkerCompletion g) s (fun t => answers t 4#64))
          ∧ ((∀ x ∈ record, f32Finite x = true) → TreeApart s r.a d → d.root < d.used →
            ∀ path : List (Nat × Nat), Descends s r.a d (record.take d.d) d.root path → path.length ≤ 8 →
            let nodes := path.map Prod.fst
            nodes.Nodup → (∀ n ∈ nodes, (nodeAt s r.a d n).kind = 1 → (nodeAt s r.a d n).fill < 16) →
            ∀ sorted v w, sorted.Perm nodes → sorted.Pairwise (fun x y => x < y) →
            u.walkTree (r.who u) r.a .write (descentReads s r.a d nodes) [] = .ok none v →
            v.walkTree (r.who v) r.a .write (nodes.map (fun n => (64 + d.nsz * n, 64 + 4 * dim))) (appendWrites s r.a d sorted)
              = .ok none w →
            Goes (.walkerCompletion g) s (fun t => answers t 0#64 ∧ (t.strand r.id).progValid = false
              ∧ t.descAt r.a = { d with version := (d.version + 1) % 2 ^ 64, keys := (d.keys + 1) % 2 ^ 64, wlock := false }
              ∧ (∀ n ∈ nodes, TookRecord s t r.a d record n)
              ∧ ∀ n, n < d.used → n ∉ nodes → nodeAt t r.a d n = nodeAt s r.a d n))))
      ∧ (∀ sel, r.op = .tstat sel → same → Goes (.walkerCompletion g) s (fun t => t.mem = s.mem
        ∧ answers t (if s.descZero r.a then BitVec.ofNat 64 (if sel = 0 then d.keys else if sel = 1 then d.version
          else if sel = 2 then d.used + 2 ^ 32 * d.capn
          else d.height + (if d.valid then 2 ^ 8 else 0) + (if d.wlock then 2 ^ 9 else 0) + 2 ^ 16 * d.readers) else 0#64)))
      ∧ (r.op = .tsum → same → (s.cell r.cell).eccinj = 0#31 →
        let x := nodeAt s r.a d r.b.toNat
        let legal : Prop := r.b.toNat < d.used ∧ s.descZero r.a = true
        let writes (u : State) (bs : List Byte) : Prop := ∀ off,
          s.blkCheck r.cell (s.readReg r.id r.d) bs.length 16 (s.strand r.id).lock = .ok off → OwnTurns u r.cell off bs →
          Goes (.walkerCompletion g) s (fun t => StoredAt s t ⟨.local, r.cell, off⟩ bs ∧ rest t)
        (¬ legal → writes s (List.replicate 16 0#8))
        ∧ (legal → ¬ NodeZeros x → ∀ u, s.walkTree (r.who s) r.a .readHome [(64 + d.nsz * r.b.toNat, 64)] [] = .ok none u →
          writes u (List.replicate 16 0#8))
        ∧ (legal → NodeZeros x → ∀ u,
          s.walkTree (r.who s) r.a .readHome [(64 + d.nsz * r.b.toNat, 48 + (summary x).length)] [] = .ok none u →
          writes u (summary x)))
      ∧ (r.op = .twalk → same → ∀ blk q e cap fresh off u, s.walkRead (r.who s) r.b 32 = .ok (blk, none) u →
        BlockOfWalk blk q e cap fresh → s.blkCheck r.cell (BitVec.ofNat 64 e) (8 * cap) 8 (s.strand r.id).lock = .ok off →
        q / 2 ^ 60 < 3 → q % 4 = 0 → (s.cell r.cell).eccinj = 0#31 →
        let count : Nat := 2 ^ 20 * r.restarts
        (d.valid = false ∨ s.descZero r.a = false →
          Goes (.walkerCompletion g) s (fun t => t.mem = s.mem ∧ answers t (BitVec.ofNat 64 (2 ^ 19 + count))))
        ∧ (d.valid = true → s.descZero r.a = true → r.progValid = true → fresh = 0 →
          r.progIndex.toNat / 2 ^ 28 % 2 ^ 12 ≠ d.version % 2 ^ 12 →
          Goes (.walkerCompletion g) s (fun t => t.mem = s.mem ∧ answers t (BitVec.ofNat 64 (2 ^ 18 + count))))
        ∧ (d.valid = true → s.descZero r.a = true → (r.progValid = false ∨ fresh = 1) → d.root < d.used →
          ∀ qs v, u.walkRead (r.who u) (BitVec.ofNat 64 q) (4 * d.d) = .ok (qs, none) v →
          let o : Opens := ⟨r.tmode, r.theta, r.tau, r.cmin.toNat, f32s d.d qs⟩
          let list := emitted s r.a d o 8 d.root 0
          WalkSound s r.a d o 8 d.root →
          (list.length ≤ cap →
            ∀ w, v.walkTree (r.who v) r.a .readHome (visitReads s r.a d o 8 d.root) [] = .ok none w →
            OwnTurns w r.cell off (list.flatMap (lowBytes 8)) →
            Goes (.walkerCompletion g) s (fun t => StoredAt s t ⟨.local, r.cell, off⟩ (list.flatMap (lowBytes 8))
              ∧ answers t (BitVec.ofNat 64 (list.length + 2 ^ 16 + count)) ∧ (t.strand r.id).progValid = false))
          ∧ (cap < list.length → (nodeAt s r.a d d.root).kind = 1 →
            ∀ w, v.walkTree (r.who v) r.a .readHome [(64 + d.nsz * d.root, 64)] [] = .ok none w →
            OwnTurns w r.cell off ((list.take cap).flatMap (lowBytes 8)) →
            Goes (.walkerCompletion g) s (fun t => StoredAt s t ⟨.local, r.cell, off⟩ ((list.take cap).flatMap (lowBytes 8))
              ∧ answers t (BitVec.ofNat 64 (cap + count)) ∧ (t.strand r.id).progValid = true
              ∧ (t.strand r.id).progIndex = BitVec.ofNat 48 (cap * 2 ^ 24 + d.version % 2 ^ 12 * 2 ^ 28)))))
      ∧ (r.op.writes = false → r.rlock = false → (d.wlock = true ∨ BitVec.ofNat 64 d.version ≠ r.version) →
        Goes (.walkerCompletion g) s (fun t => t.mem = s.mem ∧ (t.group g).running = none
          ∧ (t.group g).walkq = { r with restarts := r.restarts + 1, rlock := decide (3 ≤ r.restarts) } :: (s.group g).walkq
          ∧ (t.group g).wrestart = countUp (s.group g).wrestart)))

/-! ### Strands (02 R38-R43; 14 R270-R278) -/

/-- 14 R271-R275: SPAWN pushes a record with n0 to n5 behind its release, after the checks of its entry and its join word;
JOIN and EXIT park; STEALD sets the steal domain from cell, tile, group and super-group, and raises ILL for another; GO ends
at once in its own cell, leaves for another cell of the team, and raises ILL while a slot or a hire is held, in the
supervisor and in a handler. -/
def Sys2Proof.Claims.StrandIssue : Prop :=
  ∀ (s : State) (d a : SReg) (sc : Scope) (sw : Bool),
    let e := s.reg d
    let j := s.reg a
    (∀ r, s.cur.slot ≠ 4 → s.me.anyPending [d, a, .n 0, .n 1, .n 2, .n 3, .n 4, .n 5] = false →
      s.recOf s.cur.cell = some r →
      ((∀ o, o < 2 ^ 32 → e ≠ handleAddr (s.codeHandle r) o) → Traps (.spawn d a sw) s 0x03 e)
      ∧ (∀ o, o < 2 ^ 32 → e = handleAddr (s.codeHandle r) o →
        (o % 4 ≠ 0 → Traps (.spawn d a sw) s 0x06 e)
        ∧ (o % 4 = 0 → j.toNat / 2 ^ 60 = 3 → Traps (.spawn d a sw) s 0x03 j)
        ∧ (o % 4 = 0 → j.toNat < 0xC000 → j.toNat % 8 ≠ 0 → Traps (.spawn d a sw) s 0x06 j)
        ∧ (s.spawnFault e j = none → (s.cell s.cur.cell).dequeFull = true → exec (.spawn d a sw) s = .next s)
        ∧ (s.spawnFault e j = none → (s.cell s.cur.cell).dequeFull = false → s.dequeAbsent s.cur.cell = none →
          s.dequeHeld s.cur.cell = false → s.dequeClosed s.cur = false →
          let scope := domScope (domCode s.me.stealdom)
          s.released s.cur scope s.me.tsm = true → (s.me.lock = false ∨ Narrow scope) →
          Goes (.spawn d a sw) s (fun t =>
            let q : Child := ⟨BitVec.ofNat 32 o, s.me.sidx, s.me.team, domCode s.me.stealdom, j,
              [s.reg (.n 0), s.reg (.n 1), s.reg (.n 2), s.reg (.n 3), s.reg (.n 4), s.reg (.n 5)]⟩
            ((s.cell s.cur.cell).deque.length < 16 →
              (t.cell s.cur.cell).deque = (s.cell s.cur.cell).deque ++ [q] ∧ t.mem = s.mem)
            ∧ ((s.cell s.cur.cell).deque.length = 16 →
              (t.cell s.cur.cell).deque = (s.cell s.cur.cell).deque.drop 1 ++ [q]
                ∧ (t.cell s.cur.cell).acnt = (s.cell s.cur.cell).acnt + 1)
            ∧ RegsSame s t [] ∧ Ended s t 1 sw))))
    ∧ (s.cur.slot ≠ 4 → s.me.anyPending [a] = false → ∀ l u, s.check (s.whoAt s.cur) j 8 8 .read noPromote = .ok l u →
      Goes (.join a sw) s (fun t => ParkedOn s t (.join j l) 1 sw ∧ t.mem = u.mem))
    ∧ (s.cur.slot ≠ 4 → Goes (.exit sw) s (fun t => ParkedOn s t .exit 1 sw ∧ t.mem = s.mem))
    ∧ (s.cur.slot ≠ 4 → sc ∈ [Scope.cell, .tile, .group, .sgrp] →
      Goes (.steald sc sw) s (fun t => (t.strand s.cur).stealdom = BitVec.ofNat 4 sc.code ∧ Ended s t 1 sw ∧ RegsSame s t []
        ∧ OthersSame s t s.cur ∧ t.mem = s.mem))
    ∧ (s.cur.slot ≠ 4 → sc ∉ [Scope.cell, .tile, .group, .sgrp] → Traps (.steald sc sw) s 0x01 (firstWord (.steald sc sw)))
    ∧ (s.cur.slot ≠ 4 → s.me.sup = false → s.me.anyPending [a] = false → s.owes s.me.uid = false → s.me.pend = 0#24 →
      let held := (s.hub (tileOf s.cur.cell)).owners.any (fun x => x.2.isOf s.cur) = true
        ∨ ∃ r ∈ (s.hub (tileOf s.cur.cell)).hires, r.isOf s.cur s.me.uid = true
      (held → Traps (.go a sw) s 0x01 (firstWord (.go a sw)))
      ∧ (¬ held → ∀ off, parseAddr s.cur.cell j = some (.local s.cur.cell off) → s.released s.cur .cell s.me.tsm = true →
        Goes (.go a sw) s (fun t => Ended s t 1 sw ∧ RegsSame s t [] ∧ t.mem = s.mem))
      ∧ (¬ held → ∀ id off target, parseAddr s.cur.cell j = some (.home id off) → s.teamCell s.cur.cell id = some target →
        target ≠ s.cur.cell → s.me.lower = [] → AtOnce s (commonScope s.cur.cell target) target s.me.dcls →
        Goes (.go a sw) s (fun t => Departed s t s.cur target))
      ∧ (¬ held → ∀ id off, parseAddr s.cur.cell j = some (.home id off) → s.teamCell s.cur.cell id = none →
        Traps (.go a sw) s 0x04 j)
      ∧ (¬ held → j.toNat / 2 ^ 60 = 2 ∨ j.toNat / 2 ^ 60 = 3 → Traps (.go a sw) s 0x03 j))
    ∧ ((s.cur.slot = 4 ∨ s.me.sup = true) → Traps (.go a sw) s 0x01 (firstWord (.go a sw)))
    ∧ (s.cur.slot = 4 → Traps (.spawn d a sw) s 0x01 (firstWord (.spawn d a sw))
      ∧ Traps (.join a sw) s 0x01 (firstWord (.join a sw)) ∧ Traps (.exit sw) s 0x01 (firstWord (.exit sw))
      ∧ Traps (.steald sc sw) s 0x01 (firstWord (.steald sc sw)))

/-- 14 R276-R278, 16 R304: LAUNCH reads its descriptor; a bad one raises ILL, an image of another partition or shape PROT,
arguments outside class 2 ADDR, and in the supervisor ILL (the model's reading, log 13); else, its release over, the grid goes to the module manager with its token pending, and
DEVICE_GRID_ENTRY names it and enters it among the partition's pending grids. -/
def Obligations.Launches : Prop :=
  ∀ (s : State) (d a : SReg) (b : Src) (n : BitVec 32) (sw : Bool),
    let i := Instr.launch d a b n sw
    (s.cur.slot ≠ 4 → s.me.sup = false → n ≠ 0#32 → s.me.anyPending (d :: a :: b.regs) = false → (s.reg a).toNat / 2 ^ 60 ≠ 3 →
      ∀ l u y bs v, s.check (s.whoAt s.cur) (s.reg a) 32 32 .read noPromote = .ok l u →
      u.access s.cur l 32 (s.reg a) = some y → y.readRaw l 32 = (bs, [], v) →
      let w (k : Nat) : Nat := leNat ((bs.drop (8 * k)).take 8)
      let legal := w 0 < 2 ^ 24 ∧ w 1 < 2 ^ 32 ∧ w 1 % 4 = 0 ∧ w 2 < 2 ^ 15 ∧ w 3 = 0
      let img := v.images.get Image.zero (w 0)
      let part := s.partAt s.cur.cell
      let fits := ∃ e ∈ v.images, e.1 = w 0 ∧ e.2.part = part ∧ e.2.shape = w 2 % 2 ^ 11
      (¬ legal → Goes i s (fun t => Trapped s t s.cur 0x01 (firstWord i)))
      ∧ (legal → ¬ fits → Goes i s (fun t => Trapped s t s.cur 0x04 (BitVec.ofNat 64 (w 0))))
      ∧ (legal → fits → (s.src b).toNat / 2 ^ 60 ≠ 2 → Goes i s (fun t => Trapped s t s.cur 0x03 (s.src b)))
      ∧ (legal → fits → (s.src b).toNat / 2 ^ 60 = 2 → v.launchCount s.me.uid < 4 → s.me.lock = false →
        v.released s.cur .mod s.me.tsm = true →
        Goes i s (fun t => Ended s t (b.words + 2) sw ∧ RegsSame s t [] ∧ PendIs (t.strand s.cur) d true ∧ t.mem = v.mem
          ∧ ∃ g, t.launches = v.launches ++ [⟨g⟩] ∧ g.part = part ∧ g.image = w 0 ∧ g.entry = handleAddr img.code (w 1)
            ∧ g.teams = n.toNat ∧ g.args = s.src b ∧ g.notify = .token s.cur s.me.uid d ∧ g.column = columnOf s.cur.cell
            ∧ g.bound = 0 ∧ g.ended = 0 ∧ g.finished = false)))
    ∧ ((s.cur.slot = 4 ∨ s.me.sup = true ∨ n = 0#32) → Traps i s 0x01 (firstWord i))
    ∧ ∀ (k : Nat) (grid : BitVec 16) (l : DevLaunch), listGet s.launches k = some l → grid.msb = true →
      s.gridLive (gridKey l.grid.part grid.toNat) = false → s.mayEnter l.grid.part l.grid.column = true →
      Goes (.deviceGridEntry k grid) s (fun t => t.launches = listErase s.launches k
        ∧ t.grid (gridKey l.grid.part grid.toNat) = l.grid ∧ t.mem = s.mem
        ∧ .grid grid.toNat ∈ (t.partOf l.grid.part).pending
        ∧ ∀ e, e ∈ (t.partOf l.grid.part).pending ↔ e = .grid grid.toNat ∨ e ∈ (s.partOf l.grid.part).pending)

/-- 02 R40-R43, 14 R272-R274: a JOIN goes on when its word reads 0; a strand that EXITs with nothing held ends, and a child
takes one from its join word; a GO packet takes a Free slot, waits in the queue of four, or is returned, and its old slot is
freed or waits to send again; a Free slot takes a queued arrival, the newest record of its own deque, or the oldest of
another cell's; of a lockstep pair that holds its records a checkpoint comes first (the model's choice, log 9). Its Free slots take strands after a
fence too (log 63), and an EXIT waits while a late trap is pending, in the supervisor for ever (log 66). -/
def Sys2Proof.Claims.StrandEvents : Prop :=
  ∀ (s : State) (c : Nat) (k : Fin 5) (n : Nat),
    let i : SlotId := ⟨c, k⟩
    let x := s.strand i
    let Left (t : State) : Prop := (t.strand i).status = .free ∧ (∀ d : SReg, ((∃ n, d = .a n) ∨ (∃ n, d = .l n) ∨ ∃ n, d = .n n) →
      t.readReg i d = s.readReg i d) ∧ (t.strand i).v = x.v ∧ (t.strand i).k = x.k ∧ (t.strand i).mstra = x.mstra ∧ (t.strand i).mstrb = x.mstrb
    (∀ ea l0 l u, x.status = .parked (.join ea l0) → x.late = [] → s.check (s.whoAt i) ea 8 8 .read noPromote = .ok l u →
      (u.access i l 8 ea).isSome = true → Intact u l →
      (leNat (u.peek l 8) = 0 → Goes (.joinPoll c k) s (fun t => WentOn s t i true ∧ OthersSame s t i ∧ t.mem = u.mem))
      ∧ (leNat (u.peek l 8) ≠ 0 → Goes (.joinPoll c k) s (fun t => t.strand i = x ∧ OthersSame s t i ∧ t.mem = u.mem)))
    ∧ (x.status = .parked .exit → x.late ≠ [] → exec (.strandEnd c k) s = .next s)
    ∧ (x.status = .parked .exit → x.late = [] → s.mayEnd i = true → s.released i (s.endScope i) x.tsm = true → x.lock = false →
      (x.child = false → Goes (.strandEnd c k) s (fun t => Left t ∧ t.mem = s.mem))
      ∧ (x.child = true → ∀ l u, s.check (s.whoAt i) x.join 8 8 .write atomicPromote = .ok l u →
        l.space = .hbm → u.blocked x.dcls c l = false →
        Goes (.strandEnd c k) s (fun t => Left t ∧ ∃ f ∈ t.net, f.who = i ∧ f.uid = x.uid
          ∧ f.body = .mem (.atomic 0 true (BitVec.allOnes 64) 0#64 .none x.fmode) l 8 x.join)))
    ∧ (∀ sc target, x.status = .parked (.release sc (.goAway target)) → s.released i sc x.tsm = true → x.lock = false →
      (sgOf c = sgOf target ∨ s.classClosed x.dcls = false) → Goes (.goDepart c k) s (fun t => Departed s t i target))
    ∧ (∀ f g, Arrives s n f → f.body = .go g → f.dstCell = some c →
      (∀ q r, s.freeSlot c = some q → (s.cell c).goQueue = [] → s.recOf c = some r →
        Goes (.goArrival n) s (fun t => Landed t c q g ∧ Replied (listErase s.net n) t (.goAccept g.src g.uid) g.src.cell))
      ∧ ((s.freeSlot c = none ∨ (s.cell c).goQueue ≠ []) → (s.cell c).goQueue.length < 4 →
        Goes (.goArrival n) s (fun t => (t.cell c).goQueue = (s.cell c).goQueue ++ [g]
          ∧ Replied (listErase s.net n) t (.goAccept g.src g.uid) g.src.cell))
      ∧ ((s.cell c).goQueue.length = 4 →
        Goes (.goArrival n) s (fun t => (t.cell c).goQueue = (s.cell c).goQueue
          ∧ Replied (listErase s.net n) t (.goReturn g (decide ((s.cell c).bounced.length < 4))) g.src.cell
          ∧ (t.cell c).bounced = (s.cell c).bounced ++ (if (s.cell c).bounced.length < 4 then [g.src] else [])
          ∧ (t.cell c).gobounce.toNat = Nat.min (2 ^ 32 - 1) ((s.cell c).gobounce.toNat + 1))))
    ∧ (∀ f, Arrives s n f → f.body = .goAccept i x.uid → x.status = .parked .goFlight →
      Goes (.goAcceptNotice n) s (fun t => Left t ∧ OthersSame s t i ∧ t.net = listErase s.net n))
    ∧ (∀ f g rec, Arrives s n f → f.body = .goReturn g rec → g.src = i → g.uid = x.uid → x.status = .parked .goFlight →
      Goes (.goBounceReturn n) s (fun t => (t.strand i).status = .parked (.goBounced f.srcCell rec s.cycle.toNat)
        ∧ OthersSame s t i ∧ t.net = listErase s.net n))
    ∧ (∀ target since, x.status = .parked (.goBounced target false since) → since + 256 ≤ s.cycle.toNat →
      Goes (.goResendTimeout c k) s (fun t => Departed s t i target))
    ∧ (∀ f target since, Arrives s n f → f.body = .goResend i → x.status = .parked (.goBounced target true since) →
      f.srcCell = target → Goes (.goResendRequestArrival n) s (fun t => Departed (s.without n) t i target))
    ∧ (∀ g q r, (s.cell c).goQueue = g :: q → s.slotFree c k = true → s.recOf c = some r →
      ((s.cell c).bounced = [] → Goes (.arrivalTakesSlot c k) s (fun t => Landed t c k g ∧ (t.cell c).goQueue = q))
      ∧ (∀ b bs, (s.cell c).bounced = b :: bs → Goes (.arrivalTakesSlot c k) s (fun t => Landed t c k g
        ∧ (t.cell c).goQueue = q ∧ (t.cell c).bounced = bs ∧ Replied s.net t (.goResend b) b.cell)))
    ∧ (∀ r stk spl, s.recOf c = some r → s.handlesFor stk spl = true →
      (s.slotFree c k = true → (s.cell c).goQueue = [] →
        (∀ q, (s.cell c).deque.getLast? = some q → Goes (.dequePop c k stk spl) s (fun t =>
          Born s t c k r (s.homeOf c) q stk spl ∧ (t.cell c).deque = (s.cell c).deque.dropLast))
        ∧ ((s.cell c).deque = [] → 0 < (s.cell c).acnt → s.flips = [] → s.areaAbsent c ((s.cell c).ahead + (s.cell c).acnt - 1) = none →
          Goes (.dequePop c k stk spl) s (fun t => Born s t c k r (s.homeOf c)
              (childOfBytes (s.peek (s.dequeLoc c ((s.cell c).ahead + (s.cell c).acnt - 1)) 64)) stk spl
            ∧ (t.cell c).acnt = (s.cell c).acnt - 1)))
      ∧ (∀ f home q late, Arrives s n f → f.body = .steal k home q late → f.dstCell = some c →
        Goes (.stealRecordArrival n stk spl) s (fun t => Born s t c k r home q stk spl ∧ t.net = listErase s.net n
          ∧ (t.strand i).late = late.toList
          ∧ k ∉ (t.cell c).stealing)))
    ∧ (∀ v q qs, s.slotFree c k = true → (s.cell c).goQueue = [] → (s.cell c).deque = [] → (s.cell c).acnt = 0 →
      s.victim c = some v → v ≠ c → (s.cell v).acnt = 0 → (s.cell v).deque = q :: qs → s.holdsRecords v = false →
      Goes (.stealRequest c k) s (fun t => (t.cell v).deque = qs ∧ (t.cell c).stealing = (s.cell c).stealing ++ [k]
        ∧ Replied s.net t (.steal k (s.homeOf v) q none) c ∧ t.mem = s.mem))
    ∧ (∀ v, s.slotFree c k = true → (s.cell c).goQueue = [] → (s.cell c).deque = [] → (s.cell c).acnt = 0 →
      s.victim c = some v → s.holdsRecords v = true → exec (.stealRequest c k) s = .next (s.checkpointAt (pairOf v)))

/-! ### Special registers and the SYS group (06 R115-R124; 14 R279-R285; 17 R313-R316) -/

/-- 06 R115-R124, 14 R265, R268, R281, 12 R231, R237, 13 R247: each member puts what it reads into D and ends; CSRR of
ECCINJ and SPLH raises PRIV outside the supervisor. Whenever one goes on without a trap, only D has changed. -/
def Sys2Proof.Claims.SpecialReads : Prop :=
  ∀ (s : State) (d a : SReg) (m : PostIx) (c : Cls) (n : Fin 4) (r : Fin 30) (sw : Bool),
    let hidden := r.val ∈ [28, 29] ∧ s.me.sup = false
    (∀ x ∈ specialRows s d a m c n r sw, (x.ins = .csrr d r sw → ¬ hidden) →
      (Clear s x → Written s x) ∧ ∀ t, exec x.ins s = .next t → OnlyReg s t x.d)
    ∧ (hidden → Traps (.csrr d r sw) s 0x02 (firstWord (.csrr d r sw)))

/-- 06 R115-R124, 05 R100, 14 R281: a write of a read-only register raises ILL, one of a supervisor's register outside the
supervisor raises PRIV; else the named fields change, an illegal RMODE reads 0, an illegal STEALDOM stays as it was, and no
other register, of either kind, changes but INSTRET. -/
def Sys2Proof.Claims.SpecialWrites : Prop :=
  ∀ (s : State) (n : Fin 30) (b : Src) (sw : Bool), ∀ w ∈ csrWrites n b sw,
    (n.val ∈ readOnlyCsrs → Traps w.1 s 0x01 (firstWord w.1))
    ∧ (n.val ∈ supervisorCsrs → s.me.sup = false → Traps w.1 s 0x02 (firstWord w.1))
    ∧ (n.val ∉ readOnlyCsrs → (n.val ∉ supervisorCsrs ∨ s.me.sup = true) → s.me.anyPending b.regs = false →
      let old := s.csr s.cur n.val
      let new := w.2.2 old (s.src b)
      Goes w.1 s (fun t => Ended s t b.words sw ∧ RegsSame s t [] ∧ OthersSame s t s.cur ∧ t.mem = s.mem
        ∧ (∀ m, m < 30 → m ≠ n.val → m ≠ 21 → t.csr s.cur m = s.csr s.cur m)
        ∧ (∀ x ∈ csrBits w.2.1, x.1 = n.val → t.csr s.cur n.val = (old &&& ~~~x.2) ||| (new &&& x.2))
        ∧ (n.val = 7 → (t.strand s.cur).rmode = if new.toNat % 8 ≤ 5 then BitVec.ofNat 3 new.toNat else 0#3)
        ∧ (n.val = 13 → (t.strand s.cur).stealdom
          = if new.toNat % 16 ∈ [1, 3, 4, 5] then BitVec.ofNat 4 new.toNat else s.me.stealdom)))

/-- 14 R280, R282; 17 R313, R314: TRAP raises TRAPI with EVAL its operand, BKPT raises BKPT. -/
def Sys2Proof.Claims.SoftwareTraps : Prop :=
  ∀ (s : State) (b : Src) (sw : Bool),
    (s.me.anyPending b.regs = false → Traps (.trap b sw) s 0x0F (s.src b)) ∧ Traps (.bkpt sw) s 0x10 0#64

/-- 14 R280: ERET copies PSUP to SUP and PSSTEP to SSTEP and goes to EPC; an EPC that is no multiple of 4 raises ALIGN, and
outside the supervisor ERET raises PRIV. -/
def Sys2Proof.Claims.TrapReturn : Prop :=
  ∀ (s : State) (sw : Bool),
    (s.me.sup = true → s.me.epc.toNat % 4 = 0 → Goes (.eret sw) s (fun t =>
      let e := t.strand s.cur
      e.sup = s.me.psup ∧ e.sstep = s.me.psstep ∧ e.pc = s.me.epc ∧ e.psup = s.me.psup ∧ e.epc = s.me.epc
      ∧ e.ecause = s.me.ecause ∧ e.eval = s.me.eval ∧ e.instret = s.me.instret ∧ e.ra = s.me.ra ∧ e.rl = s.me.rl
      ∧ e.rn = s.me.rn ∧ e.sp = s.me.sp ∧ e.sa = s.me.sa ∧ e.sl = s.me.sl ∧ e.sn = s.me.sn ∧ e.v = s.me.v ∧ e.k = s.me.k
      ∧ e.tvec = s.me.tvec ∧ e.lower = s.me.lower ∧ OthersSame s t s.cur ∧ t.mem = s.mem))
    ∧ (s.me.sup = true → s.me.epc.toNat % 4 ≠ 0 → Traps (.eret sw) s 0x06 s.me.epc)
    ∧ (s.me.sup = false → Traps (.eret sw) s 0x02 (firstWord (.eret sw)))

/-- 17 R315, R316: a late trap is entered with EPC at the next instruction, ECAUSE.LATE set and the registers of its
record, and the slot keeps the later ones; its handler issues 4 cycles later (17 R313). -/
def Sys2Proof.Claims.LateTraps : Prop :=
  ∀ (s : State) (c : Nat) (k : Fin 5) (l : LateTrap) (ls : List LateTrap),
    let i : SlotId := ⟨c, k⟩
    let x := s.strand i
    x.late = l :: ls → x.sup = false → x.stepDue = false → x.hold ≤ s.cycle.toNat → (x.status = .ready ∨ ∃ w, x.status = .parked w ∧ w.leaves = true) →
    Goes (.lateTrapEntry c k) s (fun t =>
      let e := t.strand i
      e.sup = true ∧ e.psup = false ∧ e.psstep = x.sstep ∧ e.sstep = false ∧ e.epc = x.pc
      ∧ e.ecause = BitVec.ofNat 9 (256 + l.cause.code) ∧ e.eval = l.eval ∧ e.ehseq = l.ehseq ∧ e.late = ls ∧ e.status = .ready
      ∧ e.hold = s.cycle.toNat + 4
      ∧ e.pc = BitVec.ofNat 64 (4 * x.tvec.toNat) ∧ e.ra = x.ra ∧ e.rl = x.rl ∧ e.rn = x.rn ∧ e.sp = x.sp
      ∧ (∀ j : Fin 8, e.sa[j] = 0#64 ∧ e.sl[j] = 0#64 ∧ e.sn[j] = 0#64) ∧ OthersSame s t i ∧ t.mem = s.mem)

/-- 17 R314, 23 R367: of a trap that a strand took in user mode, the runtime's act for TRAPI reports b in the function of the
partition, moves EPC past the words of the TRAP and returns; in the test build a TRAP with b[63:48] = 0xECC1 and b[47:31] = 0 has first
put b[30:0] into ECCINJ of the cell as CSRW does (an armed one stays armed: log 19), and else ECCINJ stays. The act is one step of the outside world (the model's choice, log 30). -/
def Sys2Proof.Claims.RuntimeTraps : Prop :=
  ∀ (s : State) (i : SlotId),
    let x := s.strand i
    let part := s.partAt i.cell
    let b := x.eval
    s.turn = .world (.runtime i) → s.mayIssue i = true → i.slot ≠ 4 → x.sup = true → x.psup = false → x.lock = false →
    x.hold ≤ s.cycle.toNat → x.ecause.toNat % 256 = 0x0F → x.pc = BitVec.ofNat 64 (4 * x.tvec.toNat) →
    ∃ t, step s = .next t ∧
      let e := t.strand i
      e.sup = false ∧ e.sstep = x.psstep ∧ e.pc = x.epc + BitVec.ofNat 64 (4 * (s.codeWords x.epc).length) ∧ e.status = .ready
      ∧ e.instret = x.instret ∧ e.ra = x.ra ∧ e.rl = x.rl ∧ e.rn = x.rn ∧ e.sp = x.sp ∧ e.v = x.v ∧ e.k = x.k
      ∧ (t.partOf part).reportIx = (s.partOf part).reportIx + 1
      ∧ t.csr i 28 = (if (s.partOf part).test = true ∧ b.toNat / 2 ^ 48 = 0xECC1 ∧ b.toNat / 2 ^ 31 % 2 ^ 17 = 0
        then BitVec.ofNat 64 (b.toNat % 2 ^ 31) ||| (s.csr i 28 &&& 0x40000000#64) else s.csr i 28)

/-- 02 R48, 14 R282: CHKPT outside a lockstep team changes nothing; in one whose twins agree it takes a checkpoint of the
strand past it; when they differ the pair goes back to its last checkpoint, or, when the mismatch is lasting, its strands end,
every other strand of the team has LOCKSTEP pending, and the host has a report, in the function of the pair's partition (the
model's choice, log 41). -/
def Sys2Proof.Claims.Checkpoints : Prop :=
  ∀ (s : State) (sw : Bool),
    let p := pairOf s.cur.cell
    (s.me.lock = false → Goes (.chkpt sw) s (fun t => Ended s t 1 sw ∧ RegsSame s t [] ∧ OthersSame s t s.cur ∧ t.mem = s.mem
      ∧ t.pairs = s.pairs))
    ∧ (s.me.lock = true → (s.pair p).diverged = false → s.cur.cell = p → Goes (.chkpt sw) s (fun t =>
      Ended s t 1 sw ∧ RegsSame s t [] ∧ t.mem = s.mem ∧ (t.pair p).checkpoints = (s.pair p).checkpoints + 1 ∧ (t.pair p).log = []
      ∧ ⟨s.cur.slot, t.strand s.cur⟩ ∈ (t.pair p).saved ∧ ∀ f ∈ t.net, f.heldBy ≠ some p))
    ∧ (s.me.lock = true → (s.pair p).diverged = true → (s.pair p).rollbacks < 7 →
      (s.pair p).mismatch ≠ some ((s.pair p).checkpoints, s.pairCount p - (s.pair p).baseline) →
      Goes (.chkpt sw) s (fun t => t.mem = undo s.mem (s.pair p).log ∧ (t.pair p).diverged = false ∧ (t.pair p).log = []
        ∧ (t.pair p).rollbacks = (s.pair p).rollbacks + 1 ∧ (∀ f ∈ t.net, f.heldBy ≠ some p)
        ∧ (t.pair p).lstrans = (if (s.pair p).mismatch.isSome then countUp (s.pair p).lstrans else (s.pair p).lstrans)
        ∧ (t.pair p).y = (s.pair p).savedY
        ∧ ∀ v, (s.pair p).saved = [v] → v.ctx.status = .ready → t.strand ⟨p, v.slot⟩ = v.ctx))
    ∧ (s.me.lock = true → (s.pair p).diverged = true → (s.cell p).bind.isSome = true →
      (7 ≤ (s.pair p).rollbacks ∨ (s.pair p).mismatch = some ((s.pair p).checkpoints, s.pairCount p - (s.pair p).baseline)) →
      Goes (.chkpt sw) s (fun t => (t.pair p).fenced = true ∧ (∀ k : Fin 5, (t.strand ⟨p, k⟩).status = .free)
        ∧ (t.partOf (s.partAt p)).reportIx = (s.partOf (s.partAt p)).reportIx + 1 ∧ (∀ f ∈ t.net, f.heldBy ≠ some p)
        ∧ ∀ (c : Nat) (k : Fin 5), c ≠ p → (s.cell c).bind = (s.cell p).bind → (s.strand ⟨c, k⟩).status ≠ .free →
          (t.strand ⟨c, k⟩).late = (s.strand ⟨c, k⟩).late ++ [⟨.lockstep, BitVec.ofNat 64 p, 0#18⟩]))

/-- 06 R106-R108, 14 R283-R285: in the supervisor, SPILL sends the oldest resident window as 16 stores and FILL loads the newest
spilled one, each ILL when there is none or no room; SPILL is over when the 128 bytes are written; HTCINV drops the translations of a handle of the partition, or of all;
CTXSV stores or loads the context of the current window; each raises PRIV outside the supervisor. -/
def Sys2Proof.Claims.SystemMoves : Prop :=
  ∀ (s : State) (a : SReg) (sw : Bool),
    let ea := s.reg a
    let h := ea.toNat / 2 ^ 36 % 2 ^ 24
    let place (n : Nat) (j : Nat) : Word × Nat := (s.me.splh + BitVec.ofNat 64 (128 * n + 8 * j), 8)
    let parked (op : WinOp) : State :=
      s.upd s.cur (fun x => { x with status := .parked (.window op), words := 1, marker := sw })
    (s.me.sup = true → s.owes s.me.uid = false → s.me.pend = 0#24 →
      (s.me.lower = [] → Traps (.spill sw) s 0x01 (firstWord (.spill sw)))
      ∧ (∀ w ls u, s.me.lower.getLast? = some w →
        (parked .spill).checkAll (s.whoAt s.cur) 8 .write ((List.range 16).map (place s.me.wspill.toNat)) = (ls, none, u) →
        (∀ l ∈ ls, u.blocked s.me.dcls s.cur.cell l = false) →
        Goes (.spill sw) s (fun t => ParkedOn s t (.window .spilled) 1 sw ∧ (t.strand s.cur).lower = s.me.lower
          ∧ (t.strand s.cur).wspill = s.me.wspill ∧ t.mem = u.mem
          ∧ ∃ fs : List Flight, t.net = u.net ++ fs ∧ fs.length = 16 ∧ ∀ (x : Nat) (f : Flight) (l : Loc) (v : Word), fs[x]? = some f →
            ls[x]? = some l → (w.a.toList ++ w.l.toList)[x]? = some v → f.who = s.cur ∧ f.uid = s.me.uid ∧ f.body = .mem
              (.store (lowBytes 8 v.toNat)) l 8 (s.me.splh + BitVec.ofNat 64 (128 * s.me.wspill.toNat + 8 * x))))
      ∧ ((s.me.wspill = 0#32 ∨ s.me.lower.length = 3) → Traps (.fill sw) s 0x01 (firstWord (.fill sw)))
      ∧ (∀ ls u, s.me.wspill ≠ 0#32 → s.me.lower.length ≠ 3 →
        (parked .fill).checkAll (s.whoAt s.cur) 8 .read ((List.range 16).map (place (s.me.wspill.toNat - 1))) = (ls, none, u) →
        (u.accessAll s.cur 8 (ls.zip ((List.range 16).map (fun j => (place (s.me.wspill.toNat - 1) j).1)))).isSome = true →
        (∀ l ∈ ls, Intact u l) → Goes (.fill sw) s (fun t => (t.strand s.cur).wspill = s.me.wspill - 1#32 ∧ (t.strand s.cur).pc = s.me.pc + 4#64
          ∧ (t.strand s.cur).status = .ready ∧ (t.strand s.cur).hold = s.cycle.toNat + 2 ∧ (t.strand s.cur).instret = s.me.instret
          ∧ t.mem = u.mem ∧ ∃ w, (t.strand s.cur).lower = s.me.lower ++ [w]
            ∧ ∀ (j : Fin 8) l m, ls[j.val]? = some l → ls[8 + j.val]? = some m →
              w.a[j] = BitVec.ofNat 64 (leNat (u.peek l 8)) ∧ w.l[j] = BitVec.ofNat 64 (leNat (u.peek m 8)))))
    ∧ (∀ (c : Nat) (k : Fin 5), let x := s.strand ⟨c, k⟩
      x.status = .parked (.window .spilled) → s.windowFree ⟨c, k⟩ = true →
      (s.spillOpen ⟨c, k⟩ = true → x.lock = false → exec (.windowMove c k) s = .next s)
      ∧ (s.spillOpen ⟨c, k⟩ = false → Goes (.windowMove c k) s (fun t =>
        let e := t.strand ⟨c, k⟩
        e.lower = x.lower.dropLast ∧ e.wspill = x.wspill + 1#32 ∧ e.pc = x.pc + 4#64 ∧ e.status = .ready
        ∧ e.hold = s.cycle.toNat + 2 ∧ e.instret = (if x.sup then x.instret else x.instret + 1#64)
        ∧ e.ra = x.ra ∧ e.rl = x.rl ∧ e.rn = x.rn ∧ OthersSame s t ⟨c, k⟩ ∧ t.mem = s.mem)))
    ∧ (s.me.sup = true → s.me.anyPending [a] = false →
      (ea.toNat / 2 ^ 60 ≠ 2 → Traps (.htcinv a sw) s 0x03 ea)
      ∧ (ea.toNat / 2 ^ 60 = 2 → Goes (.htcinv a sw) s (fun t =>
        let gone (e : TlbEntry) : Prop := e.tenant = s.partAt s.cur.cell ∧ (h = 0 ∨ e.handle = h)
        (∀ e, e ∈ (t.hub (tileOf s.cur.cell)).tlb ↔ e ∈ (s.hub (tileOf s.cur.cell)).tlb ∧ ¬ gone e)
        ∧ (∀ e, e ∈ (t.group (groupOf s.cur.cell)).l2 ↔ e ∈ (s.group (groupOf s.cur.cell)).l2 ∧ ¬ gone e)
        ∧ Ended s t 1 sw ∧ RegsSame s t [] ∧ OthersSame s t s.cur ∧ t.mem = s.mem)))
    ∧ (s.me.sup = true → s.me.anyPending [a] = false → s.me.pend = 0#24 → ea.toNat / 2 ^ 60 ≠ 3 → (parseAddr s.cur.cell ea).isSome →
      (ea.toNat % 64 ≠ 0 → ∀ dir, Traps (.ctxsv a dir sw) s 0x06 ea)
      ∧ (ea.toNat % 64 = 0 → ∀ ls u,
        s.checkAll (s.whoAt s.cur) 32 .write ((List.range 16).map (fun x => (ea + BitVec.ofNat 64 (32 * x), 32))) = (ls, none, u) →
        (∀ l ∈ ls, u.blocked s.me.dcls s.cur.cell l = false) →
        Goes (.ctxsv a false sw) s (fun t => Ended s t 1 sw ∧ t.mem = u.mem
          ∧ ∃ fs : List Flight, t.net = s.net ++ fs ∧ fs.length = 16 ∧ ∀ (x : Nat) (f : Flight) (l : Loc), fs[x]? = some f →
            ls[x]? = some l → f.who = s.cur ∧ f.uid = s.me.uid ∧ f.body = .mem
              (.store (((contextImage s.me).drop (32 * x)).take 32)) l 32 (ea + BitVec.ofNat 64 (32 * x))))
      ∧ (ea.toNat % 64 = 0 → ∀ ls u,
        s.checkAll (s.whoAt s.cur) 32 .read ((List.range 16).map (fun x => (ea + BitVec.ofNat 64 (32 * x), 32))) = (ls, none, u) →
        (u.accessAll s.cur 32 (ls.zip ((List.range 16).map (fun x => ea + BitVec.ofNat 64 (32 * x))))).isSome = true →
        (∀ l ∈ ls, Intact u l) →
        Goes (.ctxsv a true sw) s (fun t =>
          let bs := ls.flatMap (fun l => u.peek l 32)
          let f (off n : Nat) : Nat := leNat ((bs.drop off).take n)
          let e := t.strand s.cur
          (∀ j : Fin 8, e.ra[j].toNat = f (8 * j.val) 8 ∧ e.rl[j].toNat = f (0x40 + 8 * j.val) 8
            ∧ e.rn[j].toNat = f (0x80 + 8 * j.val) 8)
          ∧ e.sp.toNat = f 0xC0 8 ∧ (∀ j : KReg, e.k[j].toNat = f (0xC8 + 4 * j.val) 4)
          ∧ (∀ j : VReg, e.v[j].toNat = f (0x100 + 16 * j.val) 16) ∧ Ended s t 1 sw ∧ OthersSame s t s.cur ∧ t.mem = u.mem)))
    ∧ (s.me.sup = false → ∀ dir, ∀ i ∈ [Instr.spill sw, .fill sw, .htcinv a sw, .ctxsv a dir sw], Traps i s 0x02 (firstWord i))

/-! ### Routers and pages (01 R23-R30; 04 R372; 07 R129-R139) -/

/-- 01 R28-R30, 07 R129, R138: a packet that is not at its stop makes one hop, which leaves one hop less and, on a
dimension-ordered class, goes in x while its target lies elsewhere in x; a corrected column is rewritten with fresh check bits;
CLROUTE takes a value whose ADAPT differs only for classes that are closed before and after and of which no router holds a
packet, and is left alone by any other; a replica takes a forwarded write when no earlier one of its bytes is still on its
way there. -/
def Sys2Proof.Claims.NetworkMoves : Prop :=
  ∀ (s : State) (n : Nat),
    (∀ f, listGet s.net n = some f → f.packet = true → f.heldBy = none → f.reached = none → f.pos ≠ f.dst →
      (f.waits = false ∨ s.classClosed f.cls = false) →
      f.pos.col < 16 → f.dst.col < 16 → f.pos.stop < 8 → f.dst.stop < 8 →
      Goes (.packetHop n) s (fun t => ∃ p, hopsLeft p f.dst + 1 = hopsLeft f.pos f.dst ∧ p.col < 16 ∧ p.stop < 8
        ∧ (f.pos.col ≠ f.dst.col → p.col = f.dst.col → p = f.dst)
        ∧ (s.adapt.getLsbD f.cls.toNat = false →
          (f.pos.col = f.dst.col → f.pos.stop % 4 ≠ f.dst.stop % 4 → p.stop / 4 = f.pos.stop / 4)
          ∧ (f.pos.col ≠ f.dst.col → f.pos.col % 4 ≠ f.dst.col % 4 → p.col / 4 = f.pos.col / 4))
        ∧ t = { s with net := listSet s.net n { f with pos := p, waits := false } }))
    ∧ (∀ k, listGet s.rewrites n = some k →
      Goes (.correctedRewrite n) s (fun t => t.mem = s.mem ∧ k ∉ t.rewrites
        ∧ ∀ j, t.flips.get [] j = if j = k then [] else s.flips.get [] j))
    ∧ (∀ adapt closed,
      let legal := ∀ c < 8, adapt.getLsbD c ≠ s.adapt.getLsbD c → s.closed.getLsbD c = true ∧ closed.getLsbD c = true
        ∧ ∀ f ∈ s.net, f.packet = true → f.heldBy = none → f.waits = false → f.reached = none → f.cls.toNat ≠ c
      (legal → exec (.clrouteWrite adapt closed) s = .next { s with adapt := adapt, closed := closed })
      ∧ (¬ legal → exec (.clrouteWrite adapt closed) s = .next s))
    ∧ (∀ f, listGet s.forwards n = some f →
      (∀ g ∈ s.forwards.take n, g.col = f.col → g.key = f.key → g.off + g.data.length ≤ f.off ∨ f.off + f.data.length ≤ g.off) →
      let copy := (s.pages.get Page.zero f.key).replica f.col f.off
      (∀ l, copy = some l → s.memOk → Intact s l →
        Goes (.replicaForward n) s (fun t => StoredAt s t l f.data ∧ t.forwards = listErase s.forwards n))
      ∧ (copy = none → exec (.replicaForward n) s = .next { s with forwards := listErase s.forwards n }))

/-- 04 R372, 07 R135: the walk of a usable, present page fills the cache of the hub and that of the group of every miss that
it serves, and one of any other page fills nothing; a missing code line is filled with the 64 bytes that stand in its page, of
a replicated page in the column's replica; a line that cannot be read fills nothing, and is the fetch fault of every strand
that waits for it. -/
def Sys2Proof.Claims.CachesFill : Prop :=
  ∀ (s : State) (n : Nat),
    (∀ w, listGet s.walks n = some w →
      (∀ v ∈ s.walks.take n, ¬ (v.col = w.col ∧ v.tenant = w.tenant ∧ v.handle = w.handle ∧ v.page = w.page)) →
      let e := s.handle w.handle
      let x := s.page w.handle w.page
      let usable := e.v = true ∧ e.tenant.toNat = w.tenant ∧ x.p = true
      (usable → Goes (.translationWalkComplete n) s (fun t =>
        let q : TlbEntry := ⟨w.tenant, w.handle, w.page, e.psz.toNat, x.unit.toNat, x.layer.toNat, x.frame.toNat⟩
        (∀ m ∈ w.who, (t.hub m.1).tlb.head? = some q ∧ (t.group (m.1 / 16)).l2.head? = some q ∧ (t.hub m.1).tlb.length ≤ 64
          ∧ (t.group (m.1 / 16)).l2.length ≤ 1024) ∧ t.walks = listErase s.walks n ∧ t.mem = s.mem))
      ∧ (¬ usable → exec (.translationWalkComplete n) s = .next { s with walks := listErase s.walks n }))
    ∧ (∀ f, listGet s.fills n = some f →
      let z := pageSize (s.handle f.handle).psz
      let x := s.page f.handle (f.line * 64 / z)
      let home := pageLoc x (f.line * 64 % z)
      let l := if (s.handle f.handle).repl then (x.replica (f.tile / 4096) (f.line * 64 % z)).getD home else home
      let rest : State := { s with fills := listErase s.fills n }
      (x.p = true → (rest.readPlace (f.tile / 4096) f.handle (f.line * 64)).1 = l)
      ∧ (x.p = true → ∀ u v bs bad, (rest.readPlace (f.tile / 4096) f.handle (f.line * 64)).2 = u → u.readRaw l 64 = (bs, bad, v) →
        Goes (.codeCacheFill n) s (fun t => t.fills = listErase s.fills n ∧ t.mem = v.mem
          ∧ (bad = [] → (t.hub f.tile).code.length ≤ 256
            ∧ (t.hub f.tile).code.head? = some ⟨f.part, f.handle, f.line, bs⟩ ∧ (Intact u l → bs = u.peek l 64))
          ∧ (bad ≠ [] → (t.hub f.tile).code = (s.hub f.tile).code
            ∧ (t.hub f.tile).fetchFails = (s.hub f.tile).fetchFails ++ f.who.map (fun w => ⟨w.1, w.2, f.handle, f.line⟩))))
      ∧ (x.p = false → exec (.codeCacheFill n) s = .next { s with fills := listErase s.fills n }))

/-- 07 R136, R139: a page in HBM serves every waiter; a failure is every waiter's; an absent page is filled, by zeros or by
its list, in a free frame of HBM within the partition's share, one in another layer moves there, and its waiters go on; past the
share nothing is brought. -/
def Sys2Proof.Claims.PagerResolves : Prop :=
  ∀ (s : State) (n : Nat) (ok : Bool) (unit : BitVec 4) (frame : BitVec 36) (w : PageWait), s.memOk →
    listGet s.pageWaits n = some w → w.failed = false →
    let i := Instr.pagerResolution n ok unit frame
    let x := s.page w.handle w.page
    let e := s.handle w.handle
    let z := pageSize e.psz
    let l : Loc := ⟨.hbm, unit.toNat, frame.toNat * 4096⟩
    let waits (q : PageWait) : Prop := q.handle = w.handle ∧ q.page = w.page
    let served (t : State) : Prop := (∀ q ∈ t.pageWaits, ¬ waits q)
      ∧ ∀ j, (∃ q ∈ s.pageWaits, waits q ∧ q.who = .slot j) → (s.strand j).status = .parked (.page w.handle w.page) →
        (t.strand j).status = .ready
    (x.p = true → x.layer = 1#2 → Goes i s (fun t => served t ∧ t.mem = s.mem ∧ t.pages = s.pages))
    ∧ ((x.p = false ∨ x.layer ≠ 1#2) → ok = false → Goes i s (fun t => t.mem = s.mem ∧ t.pages = s.pages
      ∧ (∀ q ∈ t.pageWaits, waits q → q.failed = true) ∧ (∀ q ∈ s.pageWaits, waits q → q.who ≠ .host →
        ⟨q.handle, q.page, q.who, true⟩ ∈ t.pageWaits)))
    ∧ ((x.p = false ∨ x.layer ≠ 1#2) → ok = true → s.shareHolds e.tenant.toNat 1 z = false → exec i s = .next s)
    ∧ (x.p = true → x.layer ≠ 1#2 → ok = true → x.transit = false → s.pageBusy w.handle w.page = false →
      s.shareHolds e.tenant.toNat 1 z = true → s.frameFree 1 unit.toNat frame.toNat z = true →
      s.uncleared 1 unit.toNat l.addr z = false →
      Goes i s (fun t => served t ∧ PageMoved s t (pageLoc x 0) l z ∧ NoTranslation t w.handle w.page
        ∧ t.page w.handle w.page = { x with layer := 1#2, unit := unit, frame := frame, fill := 0 }))
    ∧ (∀ bs u, x.p = false → ok = true → s.shareHolds e.tenant.toNat 1 z = true → s.frameFree 1 unit.toNat frame.toNat z = true →
      s.fillBytes e.tenant.toNat x.fill z = (some bs, u) → (x.fill = 0 ∨ s.uncleared 1 unit.toNat l.addr z = false) →
      Goes i s (fun t => served t ∧ Filled u t l z bs ∧ (t.page w.handle w.page).p = true
        ∧ (t.page w.handle w.page).layer = 1#2 ∧ (t.page w.handle w.page).unit = unit
        ∧ (t.page w.handle w.page).frame = frame ∧ (t.page w.handle w.page).replicas = []
        ∧ (t.page w.handle w.page).transit = x.transit))

/-- 07 R134, R137: a move sets TRANSIT and shoots the page's translations down; once every translated access has been
performed, its commit copies the page's bytes to the new frame, clears the old one and TRANSIT, and leaves no translation
(a replicated page's home copy stays in HBM, and a new layer has room in the partition's share); an eviction sets TRANSIT too, and
then clears P and names a list that gives the page's bytes again, with the replicas gone once every write has come to them (the
model's choice, log 61); the end of clearing clears CLEAR. -/
def Sys2Proof.Claims.PagesMove : Prop :=
  ∀ (s : State) (h p : Nat), s.memOk → p < 2 ^ 24 →
    let x := s.page h p
    let z := pageSize (s.handle h).psz
    (x.p = true → x.transit = false → x.clear = false →
      Goes (.pageMove h p) s (fun t => t.page h p = { x with transit := true } ∧ NoTranslation t h p ∧ t.mem = s.mem
        ∧ ∀ h' p', s.pageKey h' p' ≠ s.pageKey h p → t.page h' p' = s.page h' p'))
    ∧ (∀ layer unit frame, x.p = true → x.transit = true → x.layer ≠ 3#2 → s.pageBusy h p = false →
      s.pageOfKey (s.pageKey h p) = some (h, s.handle h) → ((s.handle h).repl = true → layer = 1#2) →
      (layer ≠ x.layer → s.shareHolds (s.handle h).tenant.toNat layer.toNat z = true) →
      s.frameFree layer.toNat unit.toNat frame.toNat z = true →
      s.uncleared layer.toNat unit.toNat (frame.toNat * 4096) z = false →
      Goes (.pageMoveCommit h p layer unit frame) s (fun t =>
        t.page h p = { x with transit := false, layer := layer, unit := unit, frame := frame } ∧ NoTranslation t h p
        ∧ PageMoved s t (pageLoc x 0) (pageLoc { x with layer := layer, unit := unit, frame := frame } 0) z))
    ∧ (s.pageBusy h p = true → ∀ layer unit frame, exec (.pageMoveCommit h p layer unit frame) s = .next s)
    ∧ (∀ fill, x.p = true → x.transit = false → x.clear = false →
      Goes (.pageEvict h p fill) s (fun t => t.page h p = { x with transit := true } ∧ NoTranslation t h p ∧ t.mem = s.mem))
    ∧ (∀ fill, x.transit = true → (s.pageBusy h p = true ∨ s.forwarding h p = true) → exec (.pageEvict h p fill) s = .next s)
    ∧ (∀ fill, x.p = true → x.transit = true → x.clear = false → s.pageBusy h p = false → s.forwarding h p = false →
      s.keptFrame h p fill = true →
      Goes (.pageEvict h p fill) s (fun t => t.page h p = { Page.zero with fill := fill, held := x.held } ∧ NoTranslation t h p
        ∧ ∀ k, let within (l : Loc) : Prop := l.key ≤ k ∧ k < l.key + z
          let cleared := within (pageLoc x 0) ∨ ∃ r ∈ x.replicas, within (replicaLoc r.1 r.2 0)
          (cleared → Memory.get t.mem k = 0#8) ∧ (¬ cleared → Memory.get t.mem k = Memory.get s.mem k)))
    ∧ (x.clear = true → Goes (.pageClearComplete h p) s (fun t => t.page h p = { x with clear := false } ∧ t.mem = s.mem
      ∧ t.uncleared x.layer.toNat x.unit.toNat (x.frame.toNat * 4096) z = false))

/-- 07 R132, R133, 05 R90, 18 R340: a handle entry that breaks no condition of its map is committed, PW clear for the handles of
a registered image; its pages are those of the map at its PMAP. One with V set that breaks a condition is refused, leaves V = 0
and is reported; one with V clear leaves V = 0. No translation of the handle is left. Entry 0 and those past the table are
none, and one that a request frees is not written before that is over. -/
def Sys2Proof.Claims.HandleEntries : Prop :=
  ∀ (s : State) (h : Nat) (d0 d1 d2 d3 : Word),
    let i := Instr.handleEntryCommit h d0 d1 d2 d3
    let kept (t : State) : Prop := (∀ p, NoTranslation t h p) ∧ (∀ k, k ≠ h → t.handle k = s.handle k) ∧ t.pages = s.pages
      ∧ t.mem = s.mem
    let frees := ∃ q ∈ s.parts, q.2.freeing = some h
    (frees → (s.handle h).v = false → exec i s = .next s)
    ∧ (¬ frees → 0 < h → h < 2 ^ 24 → EntryLegal s d0 d1 d2 d3 → Goes i s (fun t =>
      EntryIs (t.handle h) (if s.pwHeld h then d0 &&& ~~~4#64 else d0) d1 d2 d3 ∧ kept t ∧ t.badHandles = s.badHandles
        ∧ ∀ p, t.page h p = s.pages.get Page.zero (d2.toNat + 8 * p)))
    ∧ (¬ frees → 0 < h → h < 2 ^ 24 → d0.toNat % 2 = 1 → ¬ EntryLegal s d0 d1 d2 d3 → Goes i s (fun t =>
      t.handle h = { s.handle h with v := false } ∧ kept t ∧ t.badHandles = s.badHandles ++ [h]))
    ∧ (¬ frees → 0 < h → h < 2 ^ 24 → d0.toNat % 2 = 0 → Goes i s (fun t =>
      (t.handle h).v = false ∧ kept t ∧ t.badHandles = s.badHandles))
    ∧ ((h = 0 ∨ 2 ^ 24 ≤ h) → exec i s = .next s)

/-! ### Binding and swapping (08 R156-R158; 16 R305-R311; 17 R320, R330) -/

/-- 16 R305, R306: the head of the pending list that no dependence holds, as it stands at the bind (the model's
reading, log 67), takes the first free rectangle of its shape. A team
that is bound first gets a record that dispatch accepts, its cells their registers at zero and local memory from the image;
a saved team is bound to be restored. No other rectangle is taken. -/
def Sys2Proof.Claims.TeamBinding : Prop :=
  ∀ (s : State) (pt g : Nat) (die : Bool) (x0 y0 : BitVec 4) (rec : BitVec 8) (hbase : BitVec 24) (n : Nat) (e : PendEntry),
    s.memOk → s.headEntry pt = some (n, e) → 1 ≤ pt → pt ≤ 16 →
    let i := Instr.bindTeam pt g die x0 y0 rec hbase
    (s.rectFor pt e ≠ some (g, x0.toNat, y0.toNat) → exec i s = .next s)
    ∧ (s.rectFor pt e = some (g, x0.toNat, y0.toNat) → die = decide (dieOf (g * 4096) = 1) →
      (s.bindRec g rec.toNat).v = false →
      (∀ id, e = .grid id → id < 2 ^ 16 →
        let q := s.grid (gridKey pt id)
        let x := s.images.get Image.zero q.image
        let size := 16 * (q.wm1.toNat + 1) * (q.hm1.toNat + 1) * (q.sm1.toNat + 1)
        let data := (s.hwRead q.image (x.field 0x18 4) (x.field 0x1C 4 / 64 + 1)).1.take (x.field 0x1C 4)
        (s.handle q.image).v = true → s.imageAbsent (s.newRecord pt id g x0.toNat y0.toNat hbase.toNat) = none →
        s.runFree hbase.toNat (2 * size + 2) = true →
        Goes i s (fun t =>
          let r := t.bindRec g rec.toNat
          RecordLegal r ∧ r.rst = false ∧ r.lock = q.lock ∧ r.move = q.move ∧ r.prio = q.prio ∧ r.dcls = q.dcls
          ∧ r.part.toNat = pt ∧ r.x0 = x0 ∧ r.y0 = y0 ∧ r.wm1 = q.wm1 ∧ r.hm1 = q.hm1 ∧ r.sm1 = q.sm1 ∧ r.die = die
          ∧ r.team = BitVec.ofNat 16 q.bound ∧ r.grid.toNat = id ∧ r.entry = q.entry ∧ r.args = q.args ∧ r.stkh = hbase
          ∧ (t.grid (gridKey pt id)).bound = q.bound + 1
          ∧ (t.partOf pt).pending = (if q.bound + 1 < q.teams then (s.partOf pt).pending else listErase (s.partOf pt).pending n)
          ∧ ∀ c ∈ occupies g r, (t.cell c).bind = some (g, rec.toNat) ∧ (∀ k, (t.strand ⟨c, k⟩).status = .free)
            ∧ (∀ m : Fin 32, (t.cell c).posts[m].present = false) ∧ (∀ m : Fin 4, t.yreg c m = 0#64)
            ∧ (∀ k : Fin 8, (t.cell c).classes[k] = classOf (x.field (0x40 + 8 * k.val) 8))
            ∧ ∀ o, o < 0xC000 → Memory.get t.mem (Loc.key ⟨.local, c, o⟩) = data.getD o 0#8))
      ∧ (∀ id v, e = .saved id v →
        let q : BindRec := { v.record with
          v := true, rst := true, saving := 0, x0 := x0, y0 := y0, die := die, since := s.cycle.toNat }
        s.imageAbsent q = none →
        Goes i s (fun t => t.bindRec g rec.toNat = q ∧ (t.sg g).restores.get v rec.toNat = v
          ∧ (t.partOf pt).pending = listErase (s.partOf pt).pending n
          ∧ ∀ c ∈ occupies g q, (t.cell c).bind = some (g, rec.toNat) ∧ ∀ k, (t.strand ⟨c, k⟩).status = .free)))

/-- 08 R156-R158: when V of a slot entry is set, dispatch creates the strand from an accepted record; a rejected record
binds nothing and is reported, and neither does one that does not hold the cell; a record to restore sets V alone. With each
strand LIMIT stands in the team's save image (17 R322), and with the last one the residence begins (16 R308). -/
def Sys2Proof.Claims.SlotBinding : Prop :=
  ∀ (s : State) (g i : Nat) (rec : BitVec 8),
    let r := s.bindRec g rec.toNat
    let c := g * 4096 + i / 4
    let k : Fin 5 := Fin.ofNat 5 (i % 4)
    let ix := teamCellIndex r c * (r.sm1.toNat + 1) + i % 4
    let e := Instr.slotBind g i rec
    let image := (r.save.extractLsb' 36 24).toNat
    (r.v = true → ¬ RecordLegal r → exec e s =
      .next { s with badBinds := if (g, rec.toNat) ∈ s.badBinds then s.badBinds else s.badBinds ++ [(g, rec.toNat)] })
    ∧ ((r.v = false ∨ RecordLegal r ∧ (c ∉ cellsOf g r ∨ r.sm1.toNat < i % 4)) → exec e s = .next s)
    ∧ (RecordLegal r → c ∈ cellsOf g r → i % 4 ≤ r.sm1.toNat → (s.cell c).bind = some (g, rec.toNat) →
      ((s.sg g).slots.get SlotEntry.zero i).v = false →
      (r.rst = true → Goes e s (fun t => (t.sg g).slots.get SlotEntry.zero i = ⟨rec, true⟩ ∧ t.cells = s.cells ∧ t.mem = s.mem))
      ∧ (r.rst = false → s.slotFree c k = true → s.argsAbsent r.args = none → s.hwAbsent image 0 64 = none →
        s.hwHeld image 0 64 = false → s.memOk → s.flips = [] →
        Goes e s (fun t =>
          let u := t.strand ⟨c, k⟩
          (t.sg g).slots.get SlotEntry.zero i = ⟨rec, true⟩ ∧ u.status = .ready ∧ u.uid = s.uids + 1 ∧ u.sup = false
          ∧ u.pc = r.entry ∧ u.sp = handleAddr (BitVec.ofNat 24 (r.stkh.toNat + ix)) 0 + BitVec.ofNat 64 (s.imageOf r).stackSize
          ∧ u.splh = handleAddr (BitVec.ofNat 24 (r.splh.toNat + ix)) 0
          ∧ (∀ j : Fin 8, u.ra[j] = if j.val < 7 then (t.launchArg r.part.toNat r.args j.val).1 else 0#64)
          ∧ (∀ j : Fin 8, u.rl[j] = 0#64 ∧ u.rn[j] = 0#64) ∧ u.lower = [] ∧ u.pend = 0#24
          ∧ u.sidx = BitVec.ofNat 14 ix ∧ u.team = r.team ∧ u.child = false ∧ u.dcls = r.dcls ∧ u.lock = r.lock
          ∧ u.tvec = r.tvec.extractLsb' 2 62 ∧ u.late = []
          ∧ (t.bindRec g rec.toNat).since = (if t.allBound g rec.toNat r then s.cycle.toNat else r.since)
          ∧ OthersSame s t ⟨c, k⟩ ∧ StoredAt s t (s.hwLoc image 0x10) (lowBytes 8 ((s.handle image).limit.toNat + 1)))))

/-- 16 R309-R312: at a boundary, while the head cannot be bound, the save of the first victim in the binder's order is asked
for, and of no other team, nor of any while an idle team would do; a team that is idle for more than a quantum is saved at any
cycle at which an entry waits, in the same order; a binding stall is reported when it has lasted 64 quanta, which is at the 64th stuck boundary (the model's
reading, log 68). -/
def Sys2Proof.Claims.Swapping : Prop :=
  ∀ (s : State) (pt g : Nat) (rec : BitVec 8),
    let p := s.partOf pt
    let r := s.bindRec g rec.toNat
    let me := (g, rec.toNat)
    let saves (t : State) : Prop := OnlyRecord s t g rec.toNat (fun r => { r with saving := 1 })
    (∀ n e, s.headEntry pt = some (n, e) →
      (p.live = true → p.rotating = true → s.swapping pt = false → s.rectFor pt e = none → Victim s pt e me →
        (∀ id v, e = .saved id v → v.record.since < p.quantaAt) → (∀ q, ¬ IdleVictim s pt e q) →
        ((∀ q, Victim s pt e q → q ≠ me → ¬ Before (s.bindRec q.1 q.2) r) → Goes (.quantumBoundary pt g rec) s saves)
        ∧ ((∃ q, Victim s pt e q ∧ q ≠ me ∧ Before (s.bindRec q.1 q.2) r) → exec (.quantumBoundary pt g rec) s = .next s))
      ∧ ((¬ Victim s pt e me ∨ s.rectFor pt e ≠ none ∨ s.swapping pt = true ∨ p.rotating = false ∨ ∃ q, IdleVictim s pt e q) →
        exec (.quantumBoundary pt g rec) s = .next s)
      ∧ (r.part.toNat = pt → s.swapping pt = false → s.rectFor pt e = none → IdleVictim s pt e me →
        ((∀ q, IdleVictim s pt e q → q ≠ me → ¬ Before (s.bindRec q.1 q.2) r) → Goes (.idleTeamSwap g rec) s saves)
        ∧ ((∃ q, IdleVictim s pt e q ∧ q ≠ me ∧ Before (s.bindRec q.1 q.2) r) → exec (.idleTeamSwap g rec) s = .next s))
      ∧ (r.part.toNat = pt → (¬ IdleVictim s pt e me ∨ s.rectFor pt e ≠ none ∨ s.swapping pt = true) →
        exec (.idleTeamSwap g rec) s = .next s))
    ∧ (s.headEntry pt = none → exec (.quantumBoundary pt g rec) s = .next s
      ∧ (r.part.toNat = pt → exec (.idleTeamSwap g rec) s = .next s))
    ∧ (∀ e, p.stallHead = some e → 64 ≤ p.stall →
      Goes (.bindingStallReport pt) s (fun t => (t.partOf pt).reportIx = p.reportIx + 1 ∧ (t.partOf pt).stall = p.stall - 64
        ∧ t.cells = s.cells))
    ∧ ((p.stall < 64 ∨ p.stallHead = none) → exec (.bindingStallReport pt) s = .next s)

/-- 17 R320, R327, R328: a save that is asked for stops the team; once its traffic has drained, the image is written, or,
where it does not fit in LIMIT, the save is abandoned, the team goes on from where the save has stopped it and is never swapped
again; what a lockstep team holds still goes out first, at a checkpoint; the commit sets VALID and
WHEN, frees the team's record, slots and cells, and puts the team at the tail of the pending list. -/
def Sys2Proof.Claims.TeamSaves : Prop :=
  ∀ (s : State) (g : Nat) (rec : BitVec 8), s.memOk →
    let r := s.bindRec g rec.toNat
    let h := (r.save.extractLsb' 36 24).toNat
    let base := (r.save.extractLsb' 0 36).toNat
    let limit := (s.handle h).limit.toNat + 1
    r.v = true →
    (r.saving = 1 → r.lock = false →
      Goes (.teamSaveRequest g rec) s (fun t => OnlyRecord s t g rec.toNat (fun r => { r with saving := 2 })))
    ∧ (r.saving = 1 → r.lock = true → (∀ c ∈ cellsOf g r, (s.pair (pairOf c)).diverged = false) →
      Goes (.teamSaveRequest g rec) s (fun t => (t.bindRec g rec.toNat).saving = 2))
    ∧ (∀ c, r.saving = 2 → s.savePending g r = some c → exec (.saveDrained g rec) s = .next (s.checkpointAt (pairOf c)))
    ∧ (r.saving = 2 → s.savePending g r = none → s.teamDrained g r = false → exec (.saveDrained g rec) s = .next s)
    ∧ (r.saving = 2 → s.savePending g r = none → s.teamDrained g r = true → ∀ n : Counts, n = (s.settleTeam g r).saveCounts g r →
      s.hwAbsent h base (Nat.max 256 (n.progress limit)) = none →
      s.hwHeld h base (Nat.max 256 (n.progress limit)) = false →
      let img := (s.settleTeam g r).saveImage g r limit
      (n.size ≤ limit → Goes (.saveDrained g rec) s (fun t => (t.bindRec g rec.toNat).saving = 3
        ∧ t.mem = (img.2.writeHandle h base (img.1.length / 32 + 1) img.1).mem))
      ∧ (limit < n.size → Goes (.saveDrained g rec) s (fun t => (t.bindRec g rec.toNat).saving = 0
        ∧ (t.bindRec g rec.toNat).noswap = true ∧ (t.grid r.gridKey).saveovf = true ∧ t.cells = img.2.cells
        ∧ (t.partOf r.part.toNat).reportIx = (s.partOf r.part.toNat).reportIx + 1)))
    ∧ (r.saving = 3 → base % 256 = 0 → s.hwHeld h base 64 = false → s.flips = [] → Goes (.saveCommit g rec) s (fun t =>
      leNat (t.peek (s.hwLoc h base) 8) = 1 ∧ leNat (t.peek (s.hwLoc h (base + 0x38)) 8) = s.cycle.toNat
      ∧ t.bindRec g rec.toNat = BindRec.zero
      ∧ (∀ j, ((t.sg g).slots.get SlotEntry.zero j).v = true → ((t.sg g).slots.get SlotEntry.zero j).record ≠ rec)
      ∧ (∀ c ∈ occupies g r, (t.cell c).bind = none ∧ ∀ k, (t.strand ⟨c, k⟩).status = .free)
      ∧ (∀ k ∈ tilesOf g r, (t.hub k).hires = [] ∧ (t.hub k).owners = [])
      ∧ ∃ v, (t.partOf r.part.toNat).pending = (s.partOf r.part.toNat).pending ++ [.saved r.grid.toNat v]
        ∧ v.record = { r with since := s.cycle.toNat }))

/-- 17 R330: a record to restore whose slots are all bound is restored from its image, and goes on; an image without VALID,
of another shape or with a zero field that is not zero ends the grid with PROT and is reported, and a poisoned one with POISON (the
model's choice, log 22). A restored strand has the pc, vectors and windows of its record. -/
def Sys2Proof.Claims.TeamRestores : Prop :=
  ∀ (s : State) (g : Nat) (rec : BitVec 8) (v : SavedTeam), s.memOk →
    let r := s.bindRec g rec.toNat
    let h := (r.save.extractLsb' 36 24).toNat
    let base := (r.save.extractLsb' 0 36).toNat
    r.v = true → r.rst = true → s.allBound g rec.toNat r = true →
    (s.sg g).restores.find? (fun (e : Nat × SavedTeam) => e.1 == rec.toNat) = some (rec.toNat, v) →
    s.hwAbsent h base 256 = none → ∀ head bad u, s.hwRead h base 4 = (head, bad, u) →
    let f (off n : Nat) : Nat := leNat ((head.drop off).take n)
    let counts : Counts := ⟨f 0x18 4, f 0x1C 4, f 0x20 4, f 0x24 4, f 0x28 4⟩
    let shapeOk := f 0x33 1 = r.wm1.toNat + 16 * r.hm1.toNat
      ∧ f 0x34 1 % 4 = r.sm1.toNat ∧ (f 0x30 1 / 2 % 2 = 1 ↔ r.lock = true)
    let present := u.hwAbsent h base counts.size = none
    let ends (cause : Nat) : Prop := (s.grid r.gridKey).teams ≠ 0 → (s.grid r.gridKey).finished = false →
      Goes (.teamRestore g rec) s (fun t => (t.grid r.gridKey).finished = true ∧ (t.grid r.gridKey).status = BitVec.ofNat 8 cause
        ∧ t.badBinds = s.badBinds ++ [(g, rec.toNat)])
    (bad = true → ends 8)
    ∧ (bad = false → (f 0 1 % 2 = 0 ∨ ¬ shapeOk) → ends 4)
    ∧ (bad = false → f 0 1 % 2 = 1 → shapeOk → present → ∀ img worse w, u.hwRead h base (counts.size / 64 + 1) = (img, worse, w) →
      (worse = true → ends 8)
      ∧ (worse = false → imageZeros counts img = false → ends 4)
      ∧ (∀ held y, worse = false → imageZeros counts img = true → w.hwHeld h base 64 = false →
        w.checkArrivals (.saver g rec.toNat) r (v.held g r (counts.strands v img)) = (held, none, y) →
        Goes (.teamRestore g rec) s (fun t => (t.bindRec g rec.toNat).rst = false ∧ (t.bindRec g rec.toNat).since = s.cycle.toNat
          ∧ (t.sg g).restores.find? (fun (e : Nat × SavedTeam) => e.1 == rec.toNat) = none
          ∧ ∀ x, v.strands = [x] → x.wait = none → counts.ns = 1 →
            let b := (img.drop counts.tOff).take 2048
            let d := leNat (b.take 8)
            let u := t.strand ⟨r.savedCell g (d / 2 ^ 16), Fin.ofNat 5 (d / 2 ^ 9 % 4)⟩
            d % 16 ≠ 3 → u.pc = BitVec.ofNat 64 (leNat ((b.drop 8).take 8)) ∧ u.uid = x.uid
              ∧ (∀ k : Fin 16, u.v[k] = BitVec.ofNat 128 (leNat ((b.drop (0x500 + 16 * k.val)).take 16)))
              ∧ u.lower.length = leNat ((b.drop 0x11).take 1) % 4)))

/-! ### Command streams (16 R299-R303) -/

/-- 16 R300, R301: an idle stream reads TAIL, and stops with ERR 7 on a bad one, and with ERR 1 when a zero field of its
control block is not zero (the model's choice, log 26); a command that has come to its end leaves the stream, a HINT when its pages
are present or have failed (log 26), and, with SIG, once the writes of its partition's ended strands are performed, writes SIGVAL or bit 63 with its
cause at SIGADDR. A HEAD or ERR that no window of the function admits any more is not written (log 26). -/
def Sys2Proof.Claims.StreamPolls : Prop :=
  ∀ (s : State) (n i : Nat) (x : Stream), s.memOk → s.streamAt n = some x →
    (∀ l, x.live = true → x.err = 0#8 → x.head = x.tail → s.streamLoc x.part x.ctl 64 .read = some l →
      let tail := leNat (s.peek l 8)
      let zeros := ZeroBut (s.peek l 64) [(0, 17)]
      (zeros → tail % 64 = 0 → x.head ≤ tail →
        Goes (.tailPoll n) s (fun t => t.streamAt n = some { x with tail := tail } ∧ t.mem = s.mem))
      ∧ (zeros → (tail % 64 ≠ 0 ∨ tail < x.head) → Goes (.tailPoll n) s (fun t => Stopped s t n x 7))
      ∧ (¬ zeros → Goes (.tailPoll n) s (fun t => Stopped s t n x 1)))
    ∧ ((x.live = false ∨ x.err ≠ 0#8 ∨ x.head ≠ x.tail) → exec (.tailPoll n) s = .next s)
    ∧ ∀ c, listGet x.cmds i = some c → (c.op ≠ 2 ∨ c.done = true) →
      let ended := if c.op = 4 then i = 0
        else if c.op = 3 then ∀ w ∈ s.pageWaits, w.who = .stream n → w.failed = true
        else c.done = true
      let free := c.sig = true → s.coreReleased x.part = true
      (¬ (ended ∧ free) → exec (.commandCompletion n i) s = .next s)
      ∧ (ended → free → Goes (.commandCompletion n i) s (fun t => t.streamAt n = some { x with cmds := listErase x.cmds i }
        ∧ (c.sig = false → t.mem = s.mem)
        ∧ (c.sig = true → ∀ l, s.streamLoc x.part c.sigAddr 8 .write = some l →
          StoredAt s t l (lowBytes 8 (if c.status = 0#8 then c.sigVal.toNat else 2 ^ 63 + c.status.toNat)))))

/-- 16 R301, R303: a COPY under way stores its bytes once its pages are present and no write to them waits, in order of units; a
fault of its access, or of a page that cannot be filled, is its status, and stops the stream with ERR 6 after it, unless
an earlier failure has stopped it. -/
def Sys2Proof.Claims.StreamCopies : Prop :=
  ∀ (s : State) (n i : Nat) (x : Stream) (c : Cmd), s.memOk → s.streamAt n = some x → listGet x.cmds i = some c → c.op = 2 →
    c.done = false →
    let ended (t : State) (status err : BitVec 8) : Prop := t.streamAt n =
      some { x with cmds := listSet x.cmds i { c with done := true, status := status }, err := if err = 0#8 ∨ x.err ≠ 0#8 then x.err else err }
    let faults : List Cause := ((s.coreFault x.part c.src c.len .read).or (s.coreFault x.part c.dst c.len .write)).toList
    let absent : List (Nat × Nat) := ((s.coreAbsent c.src c.len).or (s.coreAbsent c.dst c.len)).toList
    let held := c.dst.toNat / 2 ^ 60 = 2
      ∧ s.hwHeld (c.dst.toNat / 2 ^ 36 % 2 ^ 24) (c.dst.toNat % 2 ^ 36) c.len = true
    let u := s.coreCopy x.part c.dst c.src c.len
    (faults = [] → absent = [] → ¬ held →
      Goes (.commandCompletion n i) s (fun t => t.mem = u.mem ∧ ended t 0#8 0#8))
    ∧ (faults = [] → absent = [] → held → exec (.commandCompletion n i) s = .next s)
    ∧ (∀ e ∈ faults, Goes (.commandCompletion n i) s (fun t => ended t (BitVec.ofNat 8 e.code) 6#8))
    ∧ (∀ q ∈ absent, faults = [] → (∀ v, s.pageFailed (.stream n) q.1 q.2 = some v →
        Goes (.commandCompletion n i) s (fun t => ended t 7#8 6#8))
      ∧ (s.pageFailed (.stream n) q.1 q.2 = none → Goes (.commandCompletion n i) s (fun t => t.mem = s.mem ∧ t.streams = s.streams
        ∧ ∃ w ∈ t.pageWaits, w.handle = q.1 ∧ w.page = q.2 ∧ w.who = .stream n)))
    ∧ (0 < c.len → c.dst.toNat % 32 + c.len ≤ 32 → c.dst.toNat / 2 ^ 60 = 3 → c.src.toNat / 2 ^ 60 = 3 → s.flips = [] →
      StoredAt s u (s.coreLoc x.part c.dst .write)
        ((List.range c.len).map (fun j => Memory.get s.mem (s.coreLoc x.part (c.src + BitVec.ofNat 64 j) .read).key)))

/-- 16 R301, R303: NOP, HINT, FENCE and JUMP are taken when they break no check, and else stop the stream with ERR 1 or 5
and leave HEAD; OP 6 to 255 stops it with ERR 1. -/
def Sys2Proof.Claims.StreamCommands : Prop :=
  ∀ (s : State) (n : Nat) (x : Stream) (b : List Byte), s.memOk → NextCmd s n x b →
    let op := field b 0 1
    let ea := BitVec.ofNat 64 (field b 8 8)
    let len := field b 0x18 6
    let next := x.ring + 64#64
    (op = 0 → (¬ PlainCmd b [] → Goes (.nopCommand n) s (fun t => Stopped s t n x 1))
      ∧ (PlainCmd b [] → ¬ SignalOk s x.part b → Goes (.nopCommand n) s (fun t => Stopped s t n x 5))
      ∧ (PlainCmd b [] → SignalOk s x.part b → Goes (.nopCommand n) s (fun t => Took s t n x b next none true)))
    ∧ (op = 4 → (¬ PlainCmd b [] → Goes (.fenceCommand n) s (fun t => Stopped s t n x 1))
      ∧ (PlainCmd b [] → ¬ SignalOk s x.part b → Goes (.fenceCommand n) s (fun t => Stopped s t n x 5))
      ∧ (PlainCmd b [] → SignalOk s x.part b → Goes (.fenceCommand n) s (fun t => Took s t n x b next none false)))
    ∧ (op = 5 →
      let legal := ea.toNat / 2 ^ 60 = 3 ∧ ea.toNat % 64 = 0 ∧ (s.streamLoc x.part ea 64 .read).isSome = true
      (¬ PlainCmd b [(8, 8)] → Goes (.jumpCommand n) s (fun t => Stopped s t n x 1))
      ∧ (PlainCmd b [(8, 8)] → ¬ (legal ∧ SignalOk s x.part b) → Goes (.jumpCommand n) s (fun t => Stopped s t n x 5))
      ∧ (PlainCmd b [(8, 8)] → legal → SignalOk s x.part b →
        Goes (.jumpCommand n) s (fun t => Took s t n x b ea none true)))
    ∧ (op = 3 →
      let h := ea.toNat / 2 ^ 36 % 2 ^ 24
      let off := ea.toNat % 2 ^ 36
      let z := pageSize (s.handle h).psz
      let legal := ea.toNat / 2 ^ 60 = 2 ∧ (s.handle h).v = true ∧ (s.handle h).tenant.toNat = x.part
        ∧ off + len ≤ (s.handle h).limit.toNat + 1
      let named := [(8, 8), (0x18, 6)]
      (¬ PlainCmd b named → Goes (.hintCommand n) s (fun t => Stopped s t n x 1))
      ∧ (PlainCmd b named → ¬ (legal ∧ SignalOk s x.part b) → Goes (.hintCommand n) s (fun t => Stopped s t n x 5))
      ∧ (PlainCmd b named → legal → SignalOk s x.part b → Goes (.hintCommand n) s (fun t => Took s t n x b next none false
        ∧ ∀ p, 0 < len → off / z ≤ p → p ≤ (off + len - 1) / z → ((s.page h p).p = false ∨ (s.page h p).layer = 2#2) →
          ∃ w ∈ t.pageWaits, w.handle = h ∧ w.page = p ∧ w.who = .stream n)))
    ∧ (6 ≤ op → Goes (.unknownCommandOp n) s (fun t => Stopped s t n x 1))
    ∧ (op ≠ 0 → exec (.nopCommand n) s = .next s) ∧ (op ≠ 3 → exec (.hintCommand n) s = .next s)
    ∧ (op ≠ 4 → exec (.fenceCommand n) s = .next s) ∧ (op ≠ 5 → exec (.jumpCommand n) s = .next s)
    ∧ (op < 6 → exec (.unknownCommandOp n) s = .next s)

/-- 16 R301-R303, R305, R307: a LAUNCH command breaks the first of its checks, or enters its grid, with the shape, arguments
and dependences of its bytes, at the tail of the partition's pending list; a COPY within the partition's reach starts, and the
commands after it are taken before it ends. -/
def Sys2Proof.Claims.StreamWork : Prop :=
  ∀ (s : State) (n : Nat) (x : Stream) (b : List Byte), s.memOk → NextCmd s n x b →
    let f := field b
    let next := x.ring + 64#64
    (f 0 1 = 1 →
      let id := f 2 2
      let i := Instr.launchCommand n (BitVec.ofNat 16 id)
      let dep (k : Nat) : Nat := f (0x20 + 2 * k) 2
      let args := BitVec.ofNat 64 (f 0x18 8)
      let img := s.images.get Image.zero (f 8 3)
      let e := s.handle (f 0x18 8 / 2 ^ 36 % 2 ^ 24)
      let sound := ZeroBut b [(0, 11), (12, 6), (0x18, 32)] ∧ f 1 1 < 32 ∧ f 0x30 8 < 2 ^ 63
        ∧ ∀ k < 4, dep k ≠ 0 → dep k ≠ id
      let shaped := f 4 4 ≠ 0 ∧ f 0xC 4 % 4 = 0 ∧ (f 0x10 2 / 2 ^ 10 % 2 = 1 → f 0x10 2 / 2 ^ 15 = 0)
      let imaged := ∃ q ∈ s.images, q.1 = f 8 3 ∧ q.2.part = x.part ∧ q.2.shape = f 0x10 2 % 2 ^ 11
      let fresh := 0 < id ∧ id < 2 ^ 15 ∧ s.gridLive (gridKey x.part id) = false
      let placed := f 0x18 8 / 2 ^ 60 = 2 ∧ f 0x18 8 % 8 = 0 ∧ e.v = true ∧ e.tenant.toNat = x.part
        ∧ f 0x18 8 % 2 ^ 36 + 56 ≤ e.limit.toNat + 1 ∧ SignalOk s x.part b
      (¬ sound → Goes i s (fun t => Stopped s t n x 1))
      ∧ (sound → ¬ shaped → Goes i s (fun t => Stopped s t n x 2))
      ∧ (sound → shaped → ¬ imaged → Goes i s (fun t => Stopped s t n x 3))
      ∧ (sound → shaped → imaged → ¬ fresh → Goes i s (fun t => Stopped s t n x 4))
      ∧ (sound → shaped → imaged → fresh → ¬ placed → Goes i s (fun t => Stopped s t n x 5))
      ∧ (sound → shaped → imaged → fresh → placed → s.mayEnter x.part x.core = true → Goes i s (fun t =>
        let g := t.grid (gridKey x.part id)
        Took s t n x b next (some id) false
        ∧ (t.partOf x.part).pending = (s.partOf x.part).pending ++ [.grid id]
        ∧ g.part = x.part ∧ g.image = f 8 3 ∧ g.entry = handleAddr img.code (f 0xC 4) ∧ g.teams = f 4 4 ∧ g.args = args
        ∧ g.wm1.toNat = f 0x10 2 % 16 ∧ g.hm1.toNat = f 0x10 2 / 16 % 16 ∧ g.sm1.toNat = f 0x10 2 / 256 % 4
        ∧ g.lock = decide (f 0x10 2 / 2 ^ 10 % 2 = 1) ∧ g.prio = decide (f 0x10 2 / 2 ^ 11 % 2 = 1)
        ∧ g.dcls.toNat = f 0x10 2 / 2 ^ 12 % 8 ∧ g.move = decide (f 0x10 2 / 2 ^ 15 = 1)
        ∧ g.bound = 0 ∧ g.ended = 0 ∧ g.finished = false ∧ g.notify = .command n x.next
        ∧ ∀ d, d ∈ g.deps ↔ ∃ k < 4, dep k ≠ 0 ∧ d = dep k + (if f 1 1 / 2 ^ (k + 1) % 2 = 1 then 65536 else 0)))
      ∧ (∀ other, other.toNat ≠ id → exec (.launchCommand n other) s = .next s))
    ∧ (f 0 1 = 2 →
      let dst := BitVec.ofNat 64 (f 8 8)
      let src := BitVec.ofNat 64 (f 0x10 8)
      let len := f 0x18 6
      let named := [(8, 16), (0x18, 6)]
      (¬ PlainCmd b named → Goes (.copyCommand n) s (fun t => Stopped s t n x 1))
      ∧ (PlainCmd b named → (s.inReach x.part dst len = false ∨ s.inReach x.part src len = false ∨ ¬ SignalOk s x.part b) →
        Goes (.copyCommand n) s (fun t => Stopped s t n x 5))
      ∧ (PlainCmd b named → SignalOk s x.part b → s.inReach x.part dst len = true → s.inReach x.part src len = true →
        Goes (.copyCommand n) s (fun t => Took s t n x b next none false)))
    ∧ (f 0 1 ≠ 1 → ∀ g, exec (.launchCommand n g) s = .next s) ∧ (f 0 1 ≠ 2 → exec (.copyCommand n) s = .next s)

/-! ### The requests of the host (16 R299, R308; 18 R334-R348) -/

/-- 18 R334, R335, R337: a request is taken only once the part has started, while REQSEQ differs from RESPSEQ, and by the
instruction of its code; a function that may not issue it, or a byte that it does not name, has it refused with result 1; an
unknown code is answered with result 2. A refusal changes nothing but BAR0. -/
def Sys2Proof.Claims.RequestRefusals : Prop :=
  ∀ (s : State) (fn : Fin 17) (core : Fin 16) (h : BitVec 24) (pmap : Word) (dst : Nat), s.memOk →
    let f := fn.val
    let code := s.bar f 0x40 1
    let waiting := s.started = true ∧ s.bar f 0 8 ≠ s.bar f 8 8
    (∀ i own physical named, Request fn core h pmap dst i own physical named →
      (¬ (waiting ∧ code = own) → exec i s = .next s)
      ∧ (waiting → code = own → ((s.partOf f).resetting = false ∨ own = 8) →
        (¬ (f = 0 ∨ (s.partOf f).live = true) ∨ (physical = true ∧ f ≠ 0)
          ∨ ¬ ZeroBut (s.peek (barLoc f 0x40) 0xC0) ((0, 1) :: named.map (fun g => (g.1 + 8, g.2)))) →
        Goes i s (fun t => Refused s t f 1 (lowBytes 8 0))))
    ∧ (waiting → (code = 0 ∨ code = 15 ∨ 19 ≤ code) →
      Goes (.unknownRequestCode fn) s (fun t => Refused s t f 2 []))
    ∧ (¬ (waiting ∧ (code = 0 ∨ code = 15 ∨ 19 ≤ code)) → exec (.unknownRequestCode fn) s = .next s)

/-- 16 R299, R308, 18 R337, R341: a stream takes the lowest free number of its partition and the column core that follows the
fewest; it is refused with reason 1, 2 or 3; its HEAD and ERR
read 0. A stream is unregistered; a window is written with VER as it was, unless it
breaks a limit; QSHIFT is written when it lies from 20 to 28. The physical function's streams, windows and quantum are those of
partition 0 (the model's reading, log 57). -/
def Sys2Proof.Claims.StreamRequests : Prop :=
  ∀ (s : State) (fn : Fin 17) (core : Fin 16), s.memOk →
    let f := fn.val
    let n := s.bar f 0x48 1
    (Asked s f 1 [(0, 16)] →
      let ctl := BitVec.ofNat 64 (s.bar f 0x48 8)
      let ring := BitVec.ofNat 64 (s.bar f 0x50 8)
      let least := (∀ c < 16, s.followed core.val ≤ s.followed c) ∧ ∀ c < core.val, s.followed core.val < s.followed c
      let placed := ctl.toNat % 64 = 0 ∧ ring.toNat % 64 = 0 ∧ (s.streamLoc f ctl 64 .read).isSome = true
        ∧ (s.streamLoc f ctl 64 .write).isSome = true ∧ (s.streamLoc f ring 64 .read).isSome = true
      (16 ≤ (s.streamNums f).length →
        Goes (.registerStream fn core) s (fun t => Refused s t f 1 (lowBytes 8 1)))
      ∧ ((s.streamNums f).length < 16 → (∀ c < 16, 8 ≤ s.followed c) →
        Goes (.registerStream fn core) s (fun t => Refused s t f 1 (lowBytes 8 2)))
      ∧ ((s.streamNums f).length < 16 → (∃ c < 16, s.followed c < 8) → ¬ placed →
        Goes (.registerStream fn core) s (fun t => Refused s t f 1 (lowBytes 8 3)))
      ∧ ((s.streamNums f).length < 16 → s.followed core.val < 8 → placed → least →
        Goes (.registerStream fn core) s (fun t => ∃ num, num < 16 ∧ num ∉ s.streamNums f
          ∧ (∀ k < num, k ∈ s.streamNums f) ∧ Answered s t f 0 (lowBytes 8 num)
          ∧ (∀ off l, off = 8#64 ∨ off = 16#64 → s.streamLoc f (ctl + off) 8 .write = some l → leNat (t.peek l 8) = 0)
          ∧ (∀ j y, s.streamAt j = some y → y.live = true → t.streamAt j = some y)
          ∧ ∃ j x, t.streamAt j = some x ∧ x.live = true ∧ x.part = f ∧ x.num = num ∧ x.core = core.val ∧ x.ctl = ctl
            ∧ x.ring = ring ∧ x.head = 0 ∧ x.tail = 0 ∧ x.err = 0#8 ∧ x.cmds = [])))
    ∧ (Asked s f 2 [(0, 1)] → ∀ k x, s.streamAt k = some x → x.live = true → x.part = f → x.num = n →
      (∀ j y, j < k → s.streamAt j = some y → ¬ (y.live = true ∧ y.part = f ∧ y.num = n)) →
      Goes (.unregisterStream fn) s (fun t => Answered s t f 0 [] ∧ t.streamAt k = some { x with live := false }
        ∧ ∀ j, j ≠ k → t.streamAt j = s.streamAt j))
    ∧ (Asked s f 3 [(0, 1), (8, 32)] →
      let old := (s.partOf f).windows.get WindowEntry.zero n
      let w : WindowEntry := ⟨(BitVec.ofNat 64 (s.bar f 0x50 8) &&& ~~~0xFF00#64) ||| (old.d0 &&& 0xFF00#64),
        BitVec.ofNat 64 (s.bar f 0x58 8), BitVec.ofNat 64 (s.bar f 0x60 8), BitVec.ofNat 64 (s.bar f 0x68 8)⟩
      let legal := n < 32 ∧ WindowZeros w ∧ (w.d0.getLsbD 0 = true → WindowLegal s f n w)
      (legal → Goes (.setWindow fn) s (fun t => Answered s t f 0 [] ∧ (t.partOf f).windows.get WindowEntry.zero n = w
        ∧ (∀ k, k ≠ n → (t.partOf f).windows.get WindowEntry.zero k = (s.partOf f).windows.get WindowEntry.zero k)
        ∧ ∀ p, p ≠ f → t.partOf p = s.partOf p))
      ∧ (¬ legal → Goes (.setWindow fn) s (fun t => Refused s t f 1 (lowBytes 8 0))))
    ∧ (Asked s f 4 [(0, 1)] →
      (20 ≤ n → n ≤ 28 → Goes (.setQuantum fn) s (fun t => Answered s t f 0 [] ∧ (t.partOf f).qshift.toNat = n ∧ (t.partOf f).quantaAt = (s.partOf f).quantaAt
        ∧ ∀ p, p ≠ f → t.partOf p = s.partOf p))
      ∧ ((n < 20 ∨ 28 < n) → Goes (.setQuantum fn) s (fun t => Refused s t f 1 (lowBytes 8 0))))

/-- 18 R337, R339, R340: a handle entry in order takes the lowest free number, one that is being freed
not among them, its pages absent; a free handle loses V and its
translations at once, and its frames' bytes once no translated access is left; a fill list is copied and named by its page; an
image in order is registered and loses
PW with its code, and gets it back when it is retired. The refusals have the reasons of the table. What the physical function asks for itself acts on partition 0 (the
model's reading, log 57). -/
def Sys2Proof.Claims.HandleRequests : Prop :=
  ∀ (s : State) (fn : Fin 17) (num : BitVec 24) (pmap : Word) (dst : Nat), s.memOk →
    let f := fn.val
    let h := s.bar f 0x48 3
    let e := s.handle h
    let own := e.v = true ∧ e.tenant.toNat = f
    let used (k : Nat) : Prop := (s.handle k).v = true ∨ ∃ q ∈ s.parts, q.2.freeing = some k
    (Asked s f 9 [(0, 24)] →
      let d0 := (BitVec.ofNat 64 (s.bar f 0x48 8) &&& ~~~0x1F0001#64) ||| 1#64 ||| BitVec.ofNat 64 (2 ^ 16 * f)
      let d1 := BitVec.ofNat 64 (s.bar f 0x50 8)
      let d3 := BitVec.ofNat 64 (s.bar f 0x58 8)
      let n := num.toNat
      (¬ EntryLegal s d0 d1 0#64 d3 →
        Goes (.createHandle fn num pmap) s (fun t => Refused s t f 1 (lowBytes 8 1)))
      ∧ (EntryLegal s d0 d1 pmap d3 → 0 < n → pmap = ownMap n → ¬ used n → (∀ k, 0 < k → k < n → used k) →
        (s.handles.filter (fun x => s.handleUsed x.1 && decide (0 < x.1))).length < 2 ^ 24 - 1 →
        Goes (.createHandle fn num pmap) s (fun t => Answered s t f 0 (lowBytes 8 n) ∧ EntryIs (t.handle n) d0 d1 pmap d3
          ∧ (t.handle n).tenant.toNat = f ∧ (∀ p < 2 ^ 24, t.page n p = Page.zero) ∧ ∀ k, k ≠ n → t.handle k = s.handle k)))
    ∧ (Asked s f 10 [(0, 3)] → own → (s.partOf f).freeing ≠ some h →
      (s.inImage h = true → Goes (.freeHandle fn) s (fun t => Refused s t f 1 (lowBytes 8 1)))
      ∧ (s.inImage h = false → Goes (.freeHandle fn) s (fun t => t.mem = s.mem ∧ t.pages = s.pages
        ∧ (t.partOf f).freeing = some h ∧ t.handle h = { e with v := false }
        ∧ (∀ k, k ≠ h → t.handle k = s.handle k) ∧ ∀ p, NoTranslation t h p)))
    ∧ (Asked s f 10 [(0, 3)] → (s.partOf f).freeing = some h →
      (s.handleBusy h = true → exec (.freeHandle fn) s = .next s)
      ∧ (s.handleBusy h = false → Goes (.freeHandle fn) s (fun t => Answered s t f 0 [] ∧ (t.partOf f).freeing = none
        ∧ t.handles = s.handles ∧ ∀ p < (e.limit.toNat + 1) / pageSize e.psz, t.page h p = Page.zero
          ∧ ((s.page h p).p = true → ∀ o < pageSize e.psz, Memory.get t.mem ((pageLoc (s.page h p) 0).key + o) = 0#8))))
    ∧ (Asked s f 11 [(0, 3), (8, 16)] → own →
      let p := s.bar f 0x50 8
      let list := BitVec.ofNat 64 (s.bar f 0x58 8)
      p * pageSize e.psz ≤ e.limit.toNat →
      ((s.page h p).p = true →
        Goes (.setFillList fn dst) s (fun t => Refused s t f 1 (lowBytes 8 1)))
      ∧ ((s.page h p).p = false → ∀ l, s.streamLoc f list 16 .read = some l → list.toNat % 16 = 0 →
        let count := leNat (s.peek l 4)
        ((count = 0 ∨ 262144 < count) →
          Goes (.setFillList fn dst) s (fun t => Refused s t f 1 (lowBytes 8 2)))
        ∧ (1 ≤ count → count ≤ 262144 → (s.streamLoc f list (16 + 16 * count) .read).isSome = true →
          s.fillFree dst (16 + 16 * count) = true →
          Goes (.setFillList fn dst) s (fun t => Answered s t f 0 [] ∧ t.page h p = { Page.zero with fill := dst }
            ∧ t.peek (firmwareLoc (16 * dst)) (16 + 16 * count) = s.peek l (16 + 16 * count)))))
    ∧ (Asked s f 12 [(0, 3)] → own → e.pr = true → e.fmt = 15#4 → s.hwAbsent h 0 256 = none →
      ∀ b bad u, s.hwRead h 0 4 = (b, bad, u) →
      let code := field b 8 3
      ((bad = true ∨ ¬ ImageLegal s f h b) →
        Goes (.registerGridImage fn) s (fun t => Refused u t f 1 (lowBytes 8 1)))
      ∧ (bad = false → ImageLegal s f h b → Goes (.registerGridImage fn) s (fun t => Answered s t f 0 []
        ∧ (t.images.get Image.zero h).part = f ∧ (t.images.get Image.zero h).header = b
        ∧ (t.handle h).pw = false ∧ (t.handle code).pw = false
        ∧ (∀ k, t.handle k = { (s.handle k) with pw := (t.handle k).pw }) ∧ ∀ k, k ≠ h → k ≠ code → t.handle k = s.handle k)))
    ∧ (Asked s f 13 [(0, 3)] → ∀ x, s.imageAt f h = some x →
      (s.imageBusy f h = true →
        Goes (.retireGridImage fn) s (fun t => Refused s t f 1 (lowBytes 8 1)))
      ∧ (s.imageBusy f h = false → Goes (.retireGridImage fn) s (fun t => Answered s t f 0 []
        ∧ t.images.get Image.zero h = Image.zero
        ∧ (x.code.toNat ≠ h → (t.handle h).pw = x.imageW)
        ∧ ((∀ k ∈ s.images, k.1 ≠ h → k.2.part = f → k.2.code ≠ x.code) → (t.handle x.code.toNat).pw = x.codeW)
        ∧ ∀ k, k ≠ h → k ≠ x.code.toNat → t.handle k = s.handle k)))

/-- 08 R162, R165, 18 R337, R338, R348: an attestation has the nonce, the measurement registers, the partition and the serial
in its response; a routine 13 to 63 whose unused bits are zero is loaded for its tenant, and measured; a grid is ended with
0x16, or 0x14 after SAVEOVF; a partition
is reset in two steps by request 8 and by a function-level reset, its STATUS reading 2 between them; a counter is read, and
cleared when that is asked for. Function 0 stands for partition 0 (the model's reading, log 57), and the 128 bytes that MR4 measures are
the model's choice (log 6). -/
def Sys2Proof.Claims.ServiceRequests : Prop :=
  ∀ (s : State) (fn : Fin 17), s.memOk →
    let f := fn.val
    let arg := s.bar f 0x48 1
    (Asked s f 5 [(0, 40)] →
      let l : Loc := ⟨.host, f, s.bar f 0x68 8⟩
      l.addr % 64 = 0 → s.signatures < 2 ^ 32 →
      Goes (.attest fn) s (fun t => Answered s t f 0 (lowBytes 8 8660) ∧ t.signatures = s.signatures + 1
        ∧ t.peek l 32 = s.peek (barLoc f 0x48) 32
        ∧ (∀ k : Fin 8, leNat (t.peek (l.add (0x20 + 32 * k.val)) 32) = s.measures[k].toNat)
        ∧ t.peek (l.add 0x120) 8 = lowBytes 8 f ∧ leNat (t.peek (l.add 0x170) 8) = s.signatures / 2 ^ 16
        ∧ t.cells = s.cells ∧ t.parts = s.parts))
    ∧ (Asked s f 6 [(0, 1), (8, 8)] →
      let b := s.peek ⟨.host, f, s.bar f 0x50 8⟩ 128
      let legal := 13 ≤ arg ∧ arg ≤ 63 ∧ field b 0 1 % 32 ≠ 0 ∧ field b 0 1 % 32 ≤ 16 ∧ ZeroBut b [(0, 2), (8, 64)]
        ∧ field b 1 1 < 32 ∧ ∀ k < 16, field b (8 + 4 * k) 4 % 16 = 15 ∨ field b (8 + 4 * k) 4 < 2 ^ 13
      (legal → Goes (.loadMuslinRoutine fn) s (fun t =>
        let r := t.routine arg
        Answered s t f 0 [] ∧ r.v = true ∧ r.len.toNat = field b 0 1 % 32 ∧ r.ret = decide (field b 0 1 / 64 % 2 = 1)
        ∧ r.w64 = decide (field b 0 1 / 128 = 1) ∧ r.tenant.toNat = (if f = 0 then field b 1 1 % 32 else f)
        ∧ (∀ k < 16, r.uops[k]? = some (BitVec.ofNat 32 (field b (8 + 4 * k) 4))) ∧ r.uops.length = 16
        ∧ (∀ n, n ≠ arg → t.routine n = s.routine n) ∧ t.measures = s.measures.set 4 (extendMeasure s.measures[4] b)))
      ∧ (¬ legal → Goes (.loadMuslinRoutine fn) s (fun t => Refused s t f 1 (lowBytes 8 0))))
    ∧ (Asked s f 7 [(0, 2)] →
      let key := gridKey f (s.bar f 0x48 2)
      (s.gridLive key = true → Goes (.endGrid fn) s (fun t => Answered s t f 0 [] ∧ (t.grid key).finished = true
        ∧ (t.grid key).status = if (s.grid key).saveovf then 0x14#8 else 0x16#8))
      ∧ (s.gridLive key = false → Goes (.endGrid fn) s (fun t => Refused s t f 1 (lowBytes 8 0))))
    ∧ (Asked s f 8 (if f = 0 then [(0, 1)] else []) →
      let pt := if f = 0 then arg else f
      (1 ≤ pt → pt ≤ 16 → (s.partOf pt).live = true →
        ((s.partOf pt).resetting = false → Goes (.resetPartition fn) s (fun t => ResetBegun t pt ∧ t.bar f 8 8 = s.bar f 8 8))
        ∧ ((s.partOf pt).resetting = true →
          Goes (.resetPartition fn) s (fun t => Answered s t f 0 [] ∧ PartitionGone s t pt)))
      ∧ ((pt = 0 ∨ 16 < pt ∨ (s.partOf pt).live = false) →
        Goes (.resetPartition fn) s (fun t => Refused s t f 1 (lowBytes 8 0))))
    ∧ (f ≠ 0 → (s.partOf f).live = true →
      ((s.partOf f).resetting = false → Goes (.functionLevelReset fn) s (fun t => ResetBegun t f))
      ∧ ((s.partOf f).resetting = true → Goes (.functionLevelReset fn) s (fun t => PartitionGone s t f)))
    ∧ ((f = 0 ∨ (s.partOf f).live = false) → exec (.functionLevelReset fn) s = .next s)
    ∧ (Asked s f 14 [(0, 1), (8, 3), (16, 1)] →
      let unit := s.bar f 0x50 3
      let clear := s.bar f 0x58 1
      let inside := if arg = 13 then unit = f else
        (s.partOf f).pairs.getLsbD (5 * (unit / 65536) + unit / 4096 % 8) = true
      (arg ≤ 13 → UnitLegal arg unit → clear ≤ 1 → f ≠ 0 → ¬ inside →
        Goes (.readCounter fn) s (fun t => Refused s t f 1 (lowBytes 8 1)))
      ∧ (∀ v, UnitLegal arg unit → clear ≤ 1 → (f = 0 ∨ inside) → (counterRows s unit)[arg]? = some v →
        Goes (.readCounter fn) s (fun t => Answered s t f 0 (lowBytes 8 v)
          ∧ (counterRows t unit)[arg]? = some (if clear = 1 then 0 else v)
          ∧ ∀ k, k ≠ arg → (counterRows t unit)[k]? = (counterRows s unit)[k]?)))

/-! ### Power, partitions, start, ports and reductions (18 R343-R356) -/

/-- 18 R347, R351, R354, R355: the physical function commands a power state, which replaces one that is not yet due; it makes a partition of free pairs and shares, and
the setting is measured; it restarts a part in minimal mode. That minimal mode refuses SET_PARTITION (log 55) and which 192 bytes
MR5 measures (log 6) are the model's choices. -/
def Sys2Proof.Claims.PartRequests : Prop :=
  ∀ (s : State), s.memOk →
    let fn : Fin 17 := 0
    let arg := s.bar 0 0x48 1
    (Asked s 0 16 [(0, 1)] →
      (arg ≤ 4 → s.powerDue = true → exec (.powerState fn) s = .next s)
      ∧ (arg ≤ 4 → s.powerDue = false → Goes (.powerState fn) s (fun t => Answered s t 0 0 [] ∧ t.powerReq = some (BitVec.ofNat 3 arg, s.cycle.toNat)
        ∧ t = { s with mem := t.mem, powerReq := t.powerReq }))
      ∧ (4 < arg → Goes (.powerState fn) s (fun t => Refused s t 0 1 (lowBytes 8 0))))
    ∧ (Asked s 0 17 [(0, 1), (8, 49)] →
      let pairs : BitVec 128 := BitVec.ofNat 128 (s.bar 0 0x50 16)
      let hbm := s.bar 0 0x60 8
      let cap := s.bar 0 0x68 8
      let lpddr := s.bar 0 0x70 8
      let report := s.bar 0 0x78 8
      let test := s.bar 0 0x80 1
      let legal := s.minimal = false ∧ 1 ≤ arg ∧ arg ≤ 16 ∧ (s.partOf arg).live = false ∧ pairs ≠ 0#128
        ∧ pairs.toNat < 2 ^ 80 ∧ test ≤ 1 ∧ report % 16384 = 0
        ∧ (∀ e ∈ s.parts, e.2.live = true → e.2.pairs &&& pairs = 0#128)
        ∧ ShareFits s (·.hbm) 1 hbm ∧ ShareFits s (·.cap) 0 cap ∧ ShareFits s (·.lpddr) 2 lpddr
      (legal → Goes (.setPartition fn) s (fun t =>
        let q := t.partOf arg
        Answered s t 0 0 [] ∧ q.live = true ∧ q.pairs = pairs ∧ q.hbm = hbm ∧ q.cap = cap ∧ q.lpddr = lpddr
        ∧ q.report.toNat = report ∧ q.test = decide (test = 1) ∧ q.qshift = 22#6 ∧ q.windows = [] ∧ q.pending = []
        ∧ q.reportIx = 0 ∧ t.bar arg 0x18 8 = 0 ∧ q.heatuse = (s.partOf arg).heatuse ∧ q.key = true
        ∧ t.measures = s.measures.set 5 (extendMeasure s.measures[5] (s.peek (barLoc 0 0x40) 0xC0))
        ∧ ∀ p, p ≠ arg → t.partOf p = s.partOf p))
      ∧ (¬ legal → Goes (.setPartition fn) s (fun t => Refused s t 0 1 (lowBytes 8 0))))
    ∧ (Asked s 0 18 [] →
      (s.minimal = true → Goes (.restart fn) s (fun t => WasReset s t ∧ t.full = true))
      ∧ (s.minimal = false → Goes (.restart fn) s (fun t => Refused s t 0 1 (lowBytes 8 0))))

/-- 07 R144, 08 R162, R163, 18 R353, R354: a part reset leaves every memory of the part zero; a start that succeeds zeroes
them again, sets power state 0, fills the buckets and writes the built-in routines; one that fails is counted with its reason and unit; after three in
a row the next start enters minimal mode with the partition of virtual function 0. That HEATUSE stays (log 27) and that function 0 hears of failed starts (logs 41,
55) are the model's choices. -/
def Sys2Proof.Claims.PartLife : Prop :=
  ∀ (s : State) (ok : Bool) (reason unit : BitVec 8), s.memOk →
    Goes .partReset s (fun t => WasReset s t ∧ t.full = false)
    ∧ (s.started = true → exec (.start ok (unit ++ reason)) s = .next s)
    ∧ (s.started = false → (s.failedStarts < 3 ∨ s.full = true) →
      (ok = true → Goes (.start ok (unit ++ reason)) s (fun t => t.started = true ∧ t.minimal = false ∧ t.failedStarts = 0 ∧ t.power = 0#3
        ∧ t.rate = 2048#16 ∧ t.ceil = 4096#16 ∧ t.vsp = 4 ∧ (∀ b, (t.bond b).tokens = 4096#16)
        ∧ (∀ n, n < 13 → (t.routine n).v = true ∧ (t.routine n).ret = true ∧ (t.routine n).len = 0#5 ∧ (t.routine n).w64 = false
          ∧ (t.routine n).tenant = 0#5 ∧ (t.routine n).uops = List.replicate 16 0#32)
        ∧ (∀ n, 13 ≤ n → (t.routine n).v = false) ∧ t.parts = s.parts
        ∧ (∀ l, IsPlace l → Memory.get t.mem l.key = if l.space ∈ [.host, .peer, .bar0] then Memory.get s.mem l.key else 0#8)
        ∧ t.flips = [] ∧ (∀ k, t.cell k = { s.cell k with rankTab := [], rankBad := [] })
        ∧ ∀ k, t.hub k = { s.hub k with acc := [], accBad := [] }))
      ∧ (ok = false → reason ≠ 0#8 → reason.toNat ≤ 6 →
        (if reason ∈ [1#8, 6#8] then unit = 0#8 else unit.toNat < 16) → Goes (.start ok (unit ++ reason)) s (fun t => t.started = false
        ∧ t.failedStarts = s.failedStarts + 1 ∧ t.startReasons.getLast? = some (reason, unit) ∧ t.startReasons.length ≤ 3
        ∧ (s.startReasons.length < 3 → t.startReasons = s.startReasons ++ [(reason, unit)]) ∧ t.mem = s.mem)))
    ∧ (s.started = false → 3 ≤ s.failedStarts → s.full = false →
      Goes (.start ok (unit ++ reason)) s (fun t => t.started = true ∧ t.minimal = true ∧ t.failedStarts = s.failedStarts
        ∧ t.bar 0 0x10 1 = 1 ∧ t.bar 1 0x10 1 = 1 ∧ (t.partOf 0).reportIx = (s.partOf 0).reportIx + s.startReasons.length
        ∧ (t.partOf 1).live = true ∧ (t.partOf 1).pairs = 31#128))

/-- 18 R343, R346: a port trains with a sequence number of 0; a flit advances it by 1; a retired port takes no packet, and
each valid peer window whose route used it has VER higher by 1; a peer packet of an old version is translated again and has
the window's new version and route. -/
def Sys2Proof.Claims.JorlinkPorts : Prop :=
  ∀ (s : State) (port : Fin 16),
    let x := s.port port.val
    let others (t : State) : Prop := ∀ p, p ≠ port.val → t.port p = s.port p
    (s.started = true → s.minimal = false → x.trained = false → x.retired = false →
      Goes (.linkTraining port true) s (fun t => (t.port port.val).trained = true ∧ (t.port port.val).seq = 0 ∧ others t))
    ∧ (s.minimal = true → exec (.linkTraining port true) s = .next s) ∧ exec (.linkTraining port false) s = .next s
    ∧ (x.trained = true → x.retired = false → Goes (.jorlinkFlit port) s (fun t => (t.port port.val).seq = x.seq + 1 ∧ others t))
    ∧ ((x.trained = false ∨ x.retired = true) → exec (.jorlinkFlit port) s = .next s)
    ∧ (x.retired = false → Goes (.portRetire port) s (fun t => (t.port port.val).retired = true ∧ others t
      ∧ (∀ m, t.portFor m ≠ some port.val) ∧ ∀ pt n,
        let w := (s.partOf pt).windows.get WindowEntry.zero n
        let v := (t.partOf pt).windows.get WindowEntry.zero n
        let used := w.d0.getLsbD 0 = true ∧ w.d0.getLsbD 3 = true ∧ s.portFor (w.d3.toNat / 2 ^ 48) = some port.val
        (¬ used → v = w)
        ∧ (used → v.d0.extractLsb' 8 8 = w.d0.extractLsb' 8 8 + 1#8 ∧ v.d0 &&& ~~~0xFF00#64 = w.d0 &&& ~~~0xFF00#64
          ∧ v.d1 = w.d1 ∧ v.d2 = w.d2 ∧ v.d3 = w.d3)))
    ∧ ∀ k f op l n ea m p, listGet s.net k = some f → f.body = .mem op l n ea → l.space = .peer → f.heldBy = none →
      f.pos = f.dst → s.peerTakes f = false →
      s.windowLoc f.part 1 (ea.toNat % 2 ^ 56) n (if op.writes then .write else .read) = some m → s.portFor m.unit = some p →
      Goes (.peerVersionRefusal k) s (fun t => ∃ g, t = { s with net := listSet s.net k g } ∧ g.body = .mem op m n ea
        ∧ g.dst = ⟨p, 7⟩ ∧ t.peerTakes g = true ∧ g = { f with body := g.body, dst := g.dst, ver := g.ver })

/-- 18 R344, R345: a contribution that has been read whole ends with status 0 in its token, or with 8 and the late POISON
that it met, its result at TARGET of the window, as it was when the copy began, in the peer's memory; i32 contributions are summed; a reduction that fails
gives 0x15 and a late REDFAIL whose EVAL is a local fault's address, and the host a report. -/
def Sys2Proof.Claims.Reductions : Prop :=
  (∀ (s : State) (n : Nat) (r : Reduction) (k : Copy), s.memOk → listGet s.reductions n = some r →
    let c := r.cell
    let i := r.copy
    let id : SlotId := ⟨c, k.slot⟩
    (s.cell c).copies[i] = some k → (s.strand id).uid = k.uid → (s.strand id).sup = false →
    let ended (t : State) (status : Word) : Prop := (t.cell c).copies[i] = none ∧ HoldsAt s t id k.token status
      ∧ PendIs (t.strand id) k.token false ∧ ∀ q ∈ t.reductions, ¬ (q.cell = c ∧ q.copy = i)
    let stands (t : State) : Prop :=
      let w := r.entry
      let place (p : Nat) : Nat := Loc.key ⟨.peer, w.d3.toNat / 2 ^ 48,
        (w.d3.toNat + k.dst.toNat % 2 ^ 56 - w.base + k.shape.offsetOf p) % 2 ^ 48⟩
      (∀ a, (∀ e ∈ r.result w, a ≠ place e.1) → Memory.get t.mem a = Memory.get s.mem a)
      ∧ ((∀ e ∈ r.result w, ∀ f ∈ r.result w, place e.1 = place f.1 → e = f) →
        ∀ e ∈ r.result w, Memory.get t.mem (place e.1) = e.2)
    (k.todo = [] → k.fault = none → k.poison = none → Goes (.reductionComplete n) s (fun t => ended t 0#64 ∧ stands t))
    ∧ (∀ l, k.todo = [] → k.fault = none → k.poison = some l → (s.strand id).late = [] → (s.strand id).status ≠ .free →
      Goes (.reductionComplete n) s (fun t => ended t 8#64 ∧ (t.strand id).late = [l] ∧ stands t))
    ∧ ((k.todo ≠ [] ∨ k.fault ≠ none) → exec (.reductionComplete n) s = .next s)
    ∧ ((s.strand id).late = [] → (s.strand id).status ≠ .free →
      Goes (.reductionFail n) s (fun t => ended t 0x15#64
        ∧ (t.partOf (s.partAt c)).reportIx = (s.partOf (s.partAt c)).reportIx + 1
        ∧ ∃ e, (t.strand id).late = [⟨.redfail, k.fault.getD 0#64, e⟩] ∧ e.toNat / 2 ^ 16 = 2)))
  ∧ ∀ (memb idx : Nat) (own : BitVec 32) (other : Nat → BitVec 32), 1 ≤ memb →
    (reduceElem 3 memb idx own other).toNat
      = ((List.range memb).map (fun j => (if j = idx then own else other j).toNat)).sum % 2 ^ 32

/-! ### The module as a whole -/

/-- Slot i moves next and issues its next instruction: it is Ready, it comes first in the cyclic order of its cell (02 R33),
no yield of it holds, no transfer or trap holds it (09 R177, 17 R313), and nothing comes before the instruction (17 R315). -/
def Sys2Proof.Claims.Issues (s : State) (i : SlotId) : Prop :=
  s.turn = .issue i ∧ s.mayIssue i = true ∧ s.yielding i = false ∧ s.outOfTurn i = false
  ∧ s.preempts i = false ∧ (s.strand i).hold ≤ s.cycle.toNat

/-- 04 R64-R80: an instruction is read from its own words, whole, whatever follows them. -/
def Obligations.DecodeOfEncode : Prop :=
  ∀ (i : Instr) (rest : List IWord), i.wf = true → i.isEvent = false → decode (encode i ++ rest) = .ok (i, rest)

/-- 04 R64-R80: the decoder accepts no words but those of a well-formed instruction: each is the encoder's, bit for bit, so no
two accepted encodings stand for one instruction and no unused bit is let through. -/
def Obligations.EncodeOfDecode : Prop :=
  ∀ (ws rest : List IWord) (i : Instr), decode ws = .ok (i, rest) → i.wf = true ∧ i.isEvent = false ∧ ws = encode i ++ rest

/-- Words written out from the encoding tables of 04, 09, 10, 11, 12 and 13 stand for the instructions named. -/
def Obligations.WordsDecode : Prop :=
  decode [0x8CA4A008#32] = .ok (.divu true (.l 0) (.l 1) (.reg (.l 2)) false, [])
  ∧ decode [0x1CC62C68#32] = .ok (.bfx (.l 3) (.l 4) 12#6 7#6 false, [])
  ∧ decode [0x00002062#32, 0#32, 0x1000#32] = .ok (.li (.l 0) (.lit 0x100000000000#64) false, [])
  ∧ decode [0x08000158#32] = .ok (.rel .group false, [])
  ∧ decode [0x00103610#32] = .ok (.waitb (.l 5) 1 false, [])
  ∧ decode [0x04002188#32] = .ok (.licst (.l 0) false, [])

/-- Memory stays in its one canonical form: every step of every agent keeps it. -/
def Obligations.StepKeepsMemoryForm : Prop :=
  ∀ s t : State, s.memOk → step s = .next t → t.memOk

/-- Every fault of the Penjor is a trap and every unmet condition a wait, so no step of any agent stops the module. -/
def Obligations.EveryStepAnswers : Prop := ∀ s : State, ∃ t, step s = .next t

/-- 14 R280: what the supervisor owns of a strand is out of reach of its own instructions in user mode: TVEC, the saved
registers of a trap, SPLH and the supervisor bank stay as they are, but for the entry of a trap. -/
def Obligations.UserModeConfined : Prop :=
  ∀ (s t : State) (i : Instr), i.isEvent = false → s.cur.slot ≠ 4 → s.me.sup = false → s.me.lock = false →
    exec i s = .next t →
    let c := s.me
    let e := t.strand s.cur
    e.tvec = c.tvec ∧ e.splh = c.splh
    ∧ (e.sup = false → e.epc = c.epc ∧ e.ecause = c.ecause ∧ e.eval = c.eval ∧ e.ehseq = c.ehseq ∧ e.psup = c.psup
      ∧ e.sa = c.sa ∧ e.sl = c.sl ∧ e.sn = c.sn)

/-- Reset leaves memory in its canonical form; every memory reads zero and every slot is Free (07 R144, 02 R32), CLROUTE is
0 (01 R28), STEALDOM 1 (06 R120), no post register present (06 R111), QSHIFT 22 (16 R308), every counter 0 (08 R165), and
nothing is bound or under way. -/
def Obligations.ResetState : Prop :=
  let s := State.reset
  s.memOk ∧ (∀ a, Memory.get s.mem a = 0#8) ∧ s.cycle = 0#64 ∧ s.adapt = 0#8 ∧ s.closed = 0#8 ∧ s.net = [] ∧ s.power = 0#3
  ∧ (∀ c (k : Fin 5), (s.strand ⟨c, k⟩).status = .free ∧ (s.strand ⟨c, k⟩).stealdom = 1#4 ∧ (s.strand ⟨c, k⟩).seqCtr = 0#16)
  ∧ (∀ c (m : Fin 32), (s.cell c).posts[m].present = false ∧ (s.cell c).posts[m].value = 0#64)
  ∧ (∀ c, (s.cell c).bind = none) ∧ (∀ p, (s.partOf p).qshift = 22#6 ∧ (s.partOf p).live = false)
  ∧ (∀ h, (s.handle h).v = false) ∧ (∀ h p, (s.page h p).p = false) ∧ (∀ b, (s.bond b).holder = 0#2)
  ∧ ∀ u n, n < 14 → (Sys2Proof.Claims.counterRows s u)[n]? = some 0

/-- When the fetch of a slot finds words that decode to an instruction, a step is exec of that instruction by that slot, with
the results it leaves under way and the cycle of the issue recorded and the next agent named; while it waits on a fixed-latency
result or a busy divider (02 R32, 09 R167, 11 R201), or a transfer or trap holds its slot, the slot stays as it is; an event's step is
exec of the event. -/
def Obligations.StepRunsDecoded : Prop :=
  ∀ (s : State),
    (∀ i ws u ins rest, Issues s i → s.fetchInstr i = .some ws u → decode ws = .ok (ins, rest) →
      let v : State := { u with cur := i }
      (v.interlocked i ins = false → ∀ t, exec ins v = .next t →
        step s = .next ((t.keepResults i ins ws.length (v.strand i)).issued i (s.strand i)).nextTurn)
      ∧ (v.interlocked i ins = true → step s = .next v.nextTurn))
    ∧ (∀ i, s.turn = .issue i → s.mayIssue i = true → s.yielding i = false → s.outOfTurn i = false →
      s.cycle.toNat < (s.strand i).hold → step s = .next s.nextTurn)
    ∧ (∀ e t, s.turn = .event e → e.isEvent = true → s.frozen e = false → exec e s = .next t → step s = .next t.nextTurn)

/-- 04 R64, R80, R372, 17 R315: words in the code cache are fetched as they stand there, as many as LEN asks for; a pc of
class 0, 1 or 3 raises PROT (of class 0 or 1 whatever its must-be-zero field holds: the model's choice, log 64) and one of class 4 to
15 ADDR; words that are no instruction raise ILL with EVAL word 0; a line
that is missing is asked for and the strand stalls; one that could not be read raises POISON; SSTEP that is due is entered
before the next instruction. -/
def Sys2Proof.Claims.InstructionFetch : Prop :=
  ∀ (s : State) (i : SlotId),
    let c := s.strand i
    let pc := c.pc
    let tile := i.cell / 16
    let part := s.partAt i.cell
    let h := pc.toNat / 2 ^ 36 % 2 ^ 24
    let off := pc.toNat % 2 ^ 36
    let next (code : Nat) (ev : Word) : Prop := ∃ t, step s = .next t ∧ Trapped s t i code ev ∧ MemorySame s t
    (Issues s i → (pc.toNat / 2 ^ 60 ∈ [0, 1, 3] → next 0x04 pc) ∧ (4 ≤ pc.toNat / 2 ^ 60 → next 0x03 pc))
    ∧ (∀ ws u e, Issues s i → s.fetchInstr i = .some ws u → decode ws = .error e → next 0x01 ((ws.headD 0#32).setWidth 64))
    ∧ (∀ x n, pc.toNat / 2 ^ 60 = 2 → h ≠ 0 →
      (s.hub tile).code.find? (fun (y : CodeLine) => y.part == part && y.handle == h && y.line == off / 64) = some x →
      let word (k : Nat) : IWord := BitVec.ofNat 32 (leNat ((x.bytes.drop (off % 64 + 4 * k)).take 4))
      let len := (word 0).toNat % 4
      n = (if len = 0 then 1 else if len = 3 then 5 else 3) → off % 64 + 4 * n ≤ 64 →
      (∀ k < n, s.checkHandle (s.whoAt i) h (off + 4 * k) 4 .exec = none) →
      ∃ u, s.fetchInstr i = .some ((List.range n).map word) u ∧ u.mem = s.mem ∧ u.cells = s.cells)
    ∧ (∀ l u, Issues s i → pc.toNat / 2 ^ 60 = 2 → h ≠ 0 →
      (s.hub tile).code.find? (fun (y : CodeLine) => y.part == part && y.handle == h && y.line == off / 64) = none →
      s.checkHandle (s.whoAt i) h off 4 .exec = none →
      (∀ f ∈ (s.hub tile).fetchFails, ¬ (f.who = i ∧ f.uid = c.uid ∧ f.handle = h ∧ f.line = off / 64)) →
        s.resolvePage (s.whoAt i) pc h off .exec noPromote = .ok l u →
      ∃ t, step s = .next t ∧ t.strand i = c ∧ t.mem = s.mem
        ∧ ∃ f ∈ t.fills, f.tile = tile ∧ f.part = part ∧ f.handle = h ∧ f.line = off / 64 ∧ (i, c.uid) ∈ f.who)
    ∧ (Issues s i → pc.toNat / 2 ^ 60 = 2 → h ≠ 0 →
      (s.hub tile).code.find? (fun (y : CodeLine) => y.part == part && y.handle == h && y.line == off / 64) = none →
      s.checkHandle (s.whoAt i) h off 4 .exec = none →
      (∃ f ∈ (s.hub tile).fetchFails, f.who = i ∧ f.uid = c.uid ∧ f.handle = h ∧ f.line = off / 64) → next 0x08 pc)
    ∧ (s.turn = .issue i → s.mayIssue i = true → s.yielding i = false → s.outOfTurn i = false →
      c.hold ≤ s.cycle.toNat → c.stepDue = true → next 0x11 0#64)

/-- 06 R122: the clock's turn raises CYCLE by 1, once what falls due at the cycle has been done, and touches no cell and no
memory. -/
def Sys2Proof.Claims.ClockAdvances : Prop :=
  ∀ (s : State), s.turn = .clock →
    (s.cycle.toNat % 65536 ≠ 0 ∨ ∀ q, s.powerReq = some q → s.cycle.toNat ≤ q.2) →
    (s.started = false ∨ s.cycle.toNat % 4096 ≠ 0 ∨ s.refillAt = some s.cycle.toNat) →
    (∀ e ∈ s.parts, e.2.live = true → s.cycle.toNat % 2 ^ e.2.qshift.toNat = 0 →
      e.2.quantaAt = s.cycle.toNat) →
    ∃ t, step s = .next t ∧ t.cycle = s.cycle + 1#64 ∧ t.cells = s.cells ∧ t.mem = s.mem ∧ t.net = s.net
      ∧ t.bonds = s.bonds ∧ t.tick = s.tick + 1 ∧ t.turn = Config.schedule (s.tick + 1)

/-! ### Rules stated whole -/

/-- 09 R176, whole: JMP goes to its own address plus 4 times its displacement; JMPR goes to the value of A, or raises ALIGN
precisely with that value when it is no multiple of 4; the words that decode to JMP have OP 0x14, and those that decode to
JMPR have OP 0x16, code 0, and zero D, B and LEN. -/
def Obligations.Jumps : Prop :=
  ∀ (a : SReg) (d22 : BitVec 22) (sw : Bool),
    (∀ s : State,
      Goes (.jmp d22 sw) s (fun t => Jumped s t (dispTarget s d22) sw ∧ RegsSame s t [])
      ∧ (s.me.anyPending [a] = false → (s.reg a).toNat % 4 = 0 →
        Goes (.jmpr a sw) s (fun t => Jumped s t (s.reg a) sw ∧ RegsSame s t []))
      ∧ (s.me.anyPending [a] = false → (s.reg a).toNat % 4 ≠ 0 → Traps (.jmpr a sw) s 0x06 (s.reg a)))
    ∧ ∀ (w : IWord) (ws rest : List IWord),
      (decode (w :: ws) = .ok (.jmp d22 sw, rest) → w.extractLsb' 3 7 = 0x14#7)
      ∧ (decode (w :: ws) = .ok (.jmpr a sw, rest) → w.extractLsb' 3 7 = 0x16#7 ∧ w.extractLsb' 25 7 = 0#7
        ∧ w.extractLsb' 10 5 = 0#5 ∧ w.extractLsb' 20 5 = 0#5 ∧ w.extractLsb' 0 2 = 0#2)

/-- 14 R275, whole: STEALD writes its scope code into STEALDOM.DOM; the codes 0, 2 and 6 to 8 raise ILL; records already
pushed keep their DOM, and one pushed afterwards has the domain of that time. -/
def Obligations.StealDomain : Prop :=
  ∀ (s : State) (sc : Scope) (sw : Bool), s.cur.slot ≠ 4 →
    (sc.code ∈ [1, 3, 4, 5] → Goes (.steald sc sw) s (fun t => (t.strand s.cur).stealdom = BitVec.ofNat 4 sc.code
      ∧ Ended s t 1 sw ∧ RegsSame s t [] ∧ (∀ c, (t.cell c).deque = (s.cell c).deque) ∧ t.mem = s.mem))
    ∧ (sc.code ∈ [0, 2, 6, 7, 8] → Traps (.steald sc sw) s 0x01 (firstWord (.steald sc sw)))
    ∧ ∀ (d a : SReg), sc.code ∈ [1, 3, 4, 5] → s.me.stealdom = BitVec.ofNat 4 sc.code →
      s.me.anyPending [d, a, .n 0, .n 1, .n 2, .n 3, .n 4, .n 5] = false → s.spawnFault (s.reg d) (s.reg a) = none →
      (s.cell s.cur.cell).dequeFull = false → s.dequeAbsent s.cur.cell = none →
      s.dequeHeld s.cur.cell = false → s.released s.cur sc s.me.tsm = true →
      (s.me.lock = false ∨ Narrow sc) →
      Goes (.spawn d a sw) s (fun t => Ended s t 1 sw
        ∧ ∃ q, (t.cell s.cur.cell).deque.getLast? = some q ∧ domScope q.dom = sc)

/-- 11 R213, whole: VSCL multiplies each lane by 2^(E-32), with E the low six bits of b, and rounds and flushes it in RMODE
and FMODE with one draw a lane; E = 63 writes the canonical NaN in every lane and draws nothing. -/
def Obligations.VectorScale : Prop :=
  ∀ (s : State) (ty : FTy) (d a : VReg) (x : Src) (sw : Bool), s.me.anyPending x.regs = false →
    let f := ftyFmt ty
    let e := (s.src x).toNat % 64
    let n := 128 / f.width
    (e ≠ 63 → Goes (.vscl d a x ty sw) s (fun t => Ended s t (x.words + 2) sw
      ∧ LanesAre s t d f.width (fun j => BitVec.ofNat f.width (f.wr s.me.rmode.toNat s.me.fmode
        ((draws s.me.rmode.toNat n s.me.seed).1.getD j 0) ((floatLane s ty a j).scale (e - 32))))
      ∧ (t.strand s.cur).seed = (draws s.me.rmode.toNat n s.me.seed).2))
    ∧ (e = 63 → Goes (.vscl d a x ty sw) s (fun t => Ended s t (x.words + 2) sw
      ∧ LanesAre s t d f.width (fun _ => BitVec.ofNat f.width (f.nanBits false)) ∧ (t.strand s.cur).seed = s.me.seed))

/-- 18 R356, whole: an accepted power state waits for the first multiple of 65,536 cycles after its acceptance, which the clock
does not pass; there RATE, CEIL and VSP change in every bucket and cell at once and a level above the new CEIL is cut to it,
before the refill of that cycle; no step under way changes; and a second request replaces the first. -/
def Obligations.PowerTakesEffect : Prop :=
  ∀ (s : State) (p : BitVec 3) (since rate ceil vsp : Nat), s.powerReq = some (p, since) →
    powerRows[p.toNat]? = some (rate, ceil, vsp) →
    ((s.cycle.toNat % 65536 ≠ 0 ∨ s.cycle.toNat ≤ since) → exec .powerStateEffect s = .next s)
    ∧ (s.cycle.toNat % 65536 = 0 → since < s.cycle.toNat →
      Goes .powerStateEffect s (fun t => t.power = p ∧ t.powerReq = none ∧ t.rate.toNat = rate ∧ t.ceil.toNat = ceil
        ∧ t.vsp = vsp ∧ t.mem = s.mem ∧ t.cells = s.cells ∧ t.hubs = s.hubs ∧ t.cycle = s.cycle ∧ t.refillAt = s.refillAt
        ∧ ∀ b, t.bond b = { (s.bond b) with tokens := (t.bond b).tokens }
          ∧ (t.bond b).tokens.toNat = Nat.min (s.bond b).tokens.toNat ceil)
      ∧ exec .heatRefill s = .next s
      ∧ (s.turn = .clock → ∃ t, step s = .next t ∧ t.cycle = s.cycle ∧ t.power = p ∧ t.powerReq = none))
    ∧ (Asked s 0 16 [(0, 1)] → s.bar 0 0x48 1 ≤ 4 → s.memOk →
      Goes (.powerState 0) s (fun t => t.powerReq = some (BitVec.ofNat 3 (s.bar 0 0x48 1), s.cycle.toNat) ∧ Answered s t 0 0 []))
/-! ### Statements of several parts -/

/-- 09 R169 to R172: every scalar member, in every form, puts the table's value in D and ends. -/
def Obligations.ScalarResults : Prop :=
  Sys2Proof.Claims.IntResults ∧ Sys2Proof.Claims.UnaryResults ∧ Sys2Proof.Claims.ImmediateResults ∧ Sys2Proof.Claims.AddressResults

/-- 06 R110, R113: what a scalar member does on a pending register and on a y register of an absent twin; and its frame. -/
def Obligations.ScalarStays : Prop :=
  Sys2Proof.Claims.ScalarInterlocks ∧ Sys2Proof.Claims.ScalarFrame

/-- 09 R178, R179, 06 R108: CALL, CALLR and RET, at once and after their wait. -/
def Obligations.WindowTransfers : Prop :=
  Sys2Proof.Claims.Calls ∧ Sys2Proof.Claims.Returns ∧ Sys2Proof.Claims.WindowMoves

/-- 07 R125, R127, 06 R113, 01 R30: what an access does when its address fails a check or it must wait (in a lockstep pair by the model's choice of log 9), and the checks in order. -/
def Obligations.AccessChecks : Prop :=
  Sys2Proof.Claims.AccessOutcomes ∧ Sys2Proof.Claims.AddressChecks

/-- 10 R183 to R185: LDF and STF; PREF and HINT. -/
def Obligations.ElementsAndHints : Prop :=
  Sys2Proof.Claims.ElementAccess ∧ Sys2Proof.Claims.PrefetchAndHint

/-- 10 R189, R191: atomics and FSHIP as they issue. -/
def Obligations.AtomicsIssue : Prop :=
  Sys2Proof.Claims.AtomicIssue ∧ Sys2Proof.Claims.ShipIssue

/-- 10 R190 to R192: atomics and FSHIP at their memory. -/
def Obligations.AtomicsPerform : Prop :=
  Sys2Proof.Claims.AtomicPerforms ∧ Sys2Proof.Claims.ShipPerforms

/-- 10 R186 to R188, R193: the copy family as it issues and in the copy engine, and the near-bank members. -/
def Obligations.Copies : Prop :=
  Sys2Proof.Claims.CopyIssue ∧ Sys2Proof.Claims.CopyPerforms ∧ Sys2Proof.Claims.NearBank

/-- 10 R198: the barrier members, and the barrier word. -/
def Obligations.Barriers : Prop :=
  Sys2Proof.Claims.BarrierIssue ∧ Sys2Proof.Claims.BarrierPerforms

/-- 10 R199, 08 R153: the waits, and their ends. -/
def Obligations.WaitsAndWakes : Prop :=
  Sys2Proof.Claims.Waits ∧ Sys2Proof.Claims.WaitsEnd

/-- 14 R262 to R265, 06 R111: PUT, TAKE, TAKEF and PEEK, and the arrival of a value. -/
def Obligations.PostRegisters : Prop :=
  Sys2Proof.Claims.Posts ∧ Sys2Proof.Claims.PostArrives

/-- 02 R44, R45, 14 R267 to R269: SEND, MASKC, UNMASKC and DONE, and the life of a handler. -/
def Obligations.MessagesAndHandlers : Prop :=
  Sys2Proof.Claims.Messages ∧ Sys2Proof.Claims.Handlers

/-- 11 R205 to R207: moves between vector, mask and scalar registers, and the reductions. -/
def Obligations.VectorRegisterMoves : Prop :=
  Sys2Proof.Claims.VectorMoves ∧ Sys2Proof.Claims.VectorToScalar

/-- 05 R91, R94, 11 R211, R212, R214: exact values keep their bits; VQBLK and VDQBLK. -/
def Obligations.FormatsAndBlocks : Prop :=
  Sys2Proof.Claims.ExactEncodings ∧ Sys2Proof.Claims.BlockScales

/-- 12 R218 to R225, R234, 05 R104: hires in their array. -/
def Obligations.HiresRun : Prop :=
  Sys2Proof.Claims.HireRuns ∧ Sys2Proof.Claims.IntegerSteps

/-- 12 R235 to R238, 08 R163: the twin licence, the heat budget and the twin's signals. -/
def Obligations.TwinLicences : Prop :=
  Sys2Proof.Claims.Licences ∧ Sys2Proof.Claims.TwinSignals

/-- 13 R242 to R247, 08 R151, R152: the rank members, as they issue and as they run. -/
def Obligations.RankStreams : Prop :=
  Sys2Proof.Claims.RankIssue ∧ Sys2Proof.Claims.RankColumns ∧ Sys2Proof.Claims.RankRuns

/-- 13 R249 to R259: the walker members, as they issue and as they run. -/
def Obligations.Walker : Prop :=
  Sys2Proof.Claims.WalkIssue ∧ Sys2Proof.Claims.WalkerRuns

/-- 06 R115 to R124, 14 R281: reads and writes of special registers, and of queues and tables. -/
def Obligations.SpecialRegisters : Prop :=
  Sys2Proof.Claims.SpecialReads ∧ Sys2Proof.Claims.SpecialWrites

/-- 14 R280, R282, 17 R313 to R316, 23 R367: TRAP and BKPT, ERET, the entry of a late trap, and the runtime's act for TRAPI (the model's choice of a step: log 30). -/
def Obligations.Traps : Prop :=
  Sys2Proof.Claims.SoftwareTraps ∧ Sys2Proof.Claims.TrapReturn ∧ Sys2Proof.Claims.LateTraps ∧ Sys2Proof.Claims.RuntimeTraps

/-- 02 R48, 14 R282 to R285: CHKPT; SPILL, FILL, HTCINV and CTXSV. -/
def Obligations.CheckpointsAndContext : Prop :=
  Sys2Proof.Claims.Checkpoints ∧ Sys2Proof.Claims.SystemMoves

/-- 01 R23 to R30, 04 R372, 07 R128, R129, R135, R138: routers, rewrites, replicas, the caches of translations and code, and the check of stored bits. -/
def Obligations.NetworkAndCaches : Prop :=
  Sys2Proof.Claims.NetworkMoves ∧ Sys2Proof.Claims.CachesFill ∧ Sys2Proof.Claims.StoredBits

/-- 07 R132 to R139: the pager, page moves, and handle entries. -/
def Obligations.Pages : Prop :=
  Sys2Proof.Claims.PagerResolves ∧ Sys2Proof.Claims.PagesMove ∧ Sys2Proof.Claims.HandleEntries

/-- 08 R156 to R158, 16 R305 to R311: binding teams and slots, and choosing a team to save. -/
def Obligations.Binding : Prop :=
  Sys2Proof.Claims.TeamBinding ∧ Sys2Proof.Claims.SlotBinding ∧ Sys2Proof.Claims.Swapping

/-- 02 R38 to R43, 14 R271 to R275: the strand members, as they issue and as they run. -/
def Obligations.Strands : Prop :=
  Sys2Proof.Claims.StrandIssue ∧ Sys2Proof.Claims.StrandEvents

/-- 17 R320 to R330: the saving and restoring of a team. -/
def Obligations.TeamImages : Prop :=
  Sys2Proof.Claims.TeamSaves ∧ Sys2Proof.Claims.TeamRestores

/-- 16 R299 to R305: command streams and each of their commands. -/
def Obligations.CommandStreams : Prop :=
  Sys2Proof.Claims.StreamPolls ∧ Sys2Proof.Claims.StreamCopies ∧ Sys2Proof.Claims.StreamCommands ∧ Sys2Proof.Claims.StreamWork

/-- 16 R299, R308, 18 R334 to R341: what a request is refused for; streams, windows and quanta. -/
def Obligations.HostStreams : Prop :=
  Sys2Proof.Claims.RequestRefusals ∧ Sys2Proof.Claims.StreamRequests

/-- 18 R336 to R348, 08 R162, R165: handles, fill lists, images, and the services of the module manager. -/
def Obligations.HostObjects : Prop :=
  Sys2Proof.Claims.HandleRequests ∧ Sys2Proof.Claims.ServiceRequests

/-- 07 R144, 08 R163, 18 R347, R353 to R355: the requests of the physical function, reset and start. -/
def Obligations.PartAndPower : Prop :=
  Sys2Proof.Claims.PartRequests ∧ Sys2Proof.Claims.PartLife

/-- 18 R343 to R346: Jorlink ports, and the end of a reduction. -/
def Obligations.PortsAndReductions : Prop :=
  Sys2Proof.Claims.JorlinkPorts ∧ Sys2Proof.Claims.Reductions

/-- 04 R64, R80, R372, 17 R315, 06 R122: the fetch of an instruction, and the clock. -/
def Obligations.FetchAndClock : Prop :=
  Sys2Proof.Claims.InstructionFetch ∧ Sys2Proof.Claims.ClockAdvances
end

