-- ==== Sys2Proof/Laws/State.lean ====
section
/-! SUPPORT. What the updates of State and of a strand leave alone, field by field, and what a table, a cell or a strand
reads as after one. -/

namespace Sys2Proof.Machine

open Sys2Proof

/-! ### Tables -/

/-- A written entry reads back, and every other entry reads as before. -/
theorem Table.get_set {α : Type} (d : α) (t : Table α) (k j : Nat) (v : α) :
    (t.set k v).get d j = if k = j then v else t.get d j := by
  induction t with
  | nil => simp [Table.set, Table.get]
  | cons e t ih =>
    obtain ⟨i, w⟩ := e
    unfold Table.set
    split
    · subst_vars; simp only [Table.get]; split <;> simp_all
    · split
      · simp only [Table.get]
      · simp only [Table.get, ih]; split
        · have : ¬ k = j := by omega
          simp [this]
        · rfl

@[simp] theorem Table.get_set_same {α : Type} (d : α) (t : Table α) (k : Nat) (v : α) : (t.set k v).get d k = v := by
  simp [Table.get_set]

/-! ### Cells, strands and the other structures -/

theorem State.cell_setCell (s : State) (c j : Nat) (x : Cell) :
    (s.setCell c x).cell j = if c = j then x else s.cell j := Table.get_set _ _ _ _ _
@[simp] theorem State.cell_setCell_same (s : State) (c : Nat) (x : Cell) : (s.setCell c x).cell c = x := by
  simp [State.cell_setCell]
theorem State.cell_updCell (s : State) (c j : Nat) (f : Cell → Cell) :
    (s.updCell c f).cell j = if c = j then f (s.cell j) else s.cell j := by
  unfold State.updCell; rw [State.cell_setCell]; split <;> simp_all
@[simp] theorem State.cell_updCell_same (s : State) (c : Nat) (f : Cell → Cell) :
    (s.updCell c f).cell c = f (s.cell c) := by simp [State.cell_updCell]
/-- Writing one slot's strand leaves every other slot's strand. -/
theorem State.strand_setStrand (s : State) (i j : SlotId) (t : Strand) :
    (s.setStrand i t).strand j = if i = j then t else s.strand j := by
  obtain ⟨c, k⟩ := i
  obtain ⟨e, m⟩ := j
  unfold State.setStrand State.strand
  rw [State.cell_updCell]
  by_cases h : c = e
  · subst h
    by_cases hk : k = m
    · subst hk; simp [Cell.setStrand]
    · have : (k : Nat) ≠ m := fun h => hk (Fin.ext h)
      simp [Cell.setStrand, hk, this]
  · simp [h]
@[simp] theorem State.strand_setStrand_same (s : State) (i : SlotId) (t : Strand) : (s.setStrand i t).strand i = t := by
  simp [State.strand_setStrand]
theorem State.strand_upd (s : State) (i j : SlotId) (f : Strand → Strand) :
    (s.upd i f).strand j = if i = j then f (s.strand j) else s.strand j := by
  unfold State.upd; rw [State.strand_setStrand]; split <;> simp_all
@[simp] theorem State.strand_upd_same (s : State) (i : SlotId) (f : Strand → Strand) :
    (s.upd i f).strand i = f (s.strand i) := by simp [State.strand_upd]
theorem State.strand_upd_ne (s : State) (i j : SlotId) (f : Strand → Strand) (h : i ≠ j) :
    (s.upd i f).strand j = s.strand j := by simp [State.strand_upd, h]
/-- A strand update changes nothing of a cell but its strands. -/
theorem State.cell_upd (s : State) (i : SlotId) (c : Nat) (f : Strand → Strand) :
    (s.upd i f).cell c = if i.cell = c then (s.cell c).setStrand i.slot (f (s.strand i)) else s.cell c := by
  unfold State.upd State.setStrand; rw [State.cell_updCell]
theorem State.hub_updHub (s : State) (t j : Nat) (f : Hub → Hub) :
    (s.updHub t f).hub j = if t = j then f (s.hub j) else s.hub j := by
  unfold State.updHub State.setHub State.hub; rw [Table.get_set]; split <;> simp_all
theorem State.hub_setHub (s : State) (t j : Nat) (h : Hub) :
    (s.setHub t h).hub j = if t = j then h else s.hub j := Table.get_set _ _ _ _ _
theorem State.group_updGroup (s : State) (g j : Nat) (f : Group → Group) :
    (s.updGroup g f).group j = if g = j then f (s.group j) else s.group j := by
  unfold State.updGroup State.group; rw [Table.get_set]; split <;> simp_all
theorem State.bond_updBond (s : State) (b j : Nat) (f : Bond → Bond) :
    (s.updBond b f).bond j = if b = j then f (s.bond j) else s.bond j := by
  unfold State.updBond State.bond; rw [Table.get_set]; split <;> simp_all
theorem State.pair_updPair (s : State) (p j : Nat) (f : Pair → Pair) :
    (s.updPair p f).pair j = if p = j then f (s.pair j) else s.pair j := by
  unfold State.updPair State.pair; rw [Table.get_set]; split <;> simp_all
theorem State.sg_updSg (s : State) (g j : Nat) (f : SgHub → SgHub) :
    (s.updSg g f).sg j = if g = j then f (s.sg j) else s.sg j := by
  unfold State.updSg State.sg; rw [Table.get_set]; split <;> simp_all
theorem State.partOf_updPart (s : State) (p j : Nat) (f : Part → Part) :
    (s.updPart p f).partOf j = if p = j then f (s.partOf j) else s.partOf j := by
  unfold State.updPart State.partOf; rw [Table.get_set]; split <;> simp_all
theorem State.grid_updGrid (s : State) (g j : Nat) (f : Grid → Grid) :
    (s.updGrid g f).grid j = if g = j then f (s.grid j) else s.grid j := by
  unfold State.updGrid State.grid; rw [Table.get_set]; split <;> simp_all
theorem State.page_setPage (s : State) (h p j q : Nat) (x : Page) :
    (s.setPage h p x).page j q = if s.pageKey h p = s.pageKey j q then x else s.page j q := Table.get_set _ _ _ _ _


/-! ### setCell -/

@[simp] theorem State.setCell_tick (s : State) (c : Nat) (x : Cell) : (s.setCell c x).tick = s.tick := rfl
@[simp] theorem State.setCell_turn (s : State) (c : Nat) (x : Cell) : (s.setCell c x).turn = s.turn := rfl
@[simp] theorem State.setCell_cur (s : State) (c : Nat) (x : Cell) : (s.setCell c x).cur = s.cur := rfl
@[simp] theorem State.setCell_uids (s : State) (c : Nat) (x : Cell) : (s.setCell c x).uids = s.uids := rfl
@[simp] theorem State.setCell_cycle (s : State) (c : Nat) (x : Cell) : (s.setCell c x).cycle = s.cycle := rfl
@[simp] theorem State.setCell_mem (s : State) (c : Nat) (x : Cell) : (s.setCell c x).mem = s.mem := rfl
@[simp] theorem State.setCell_flips (s : State) (c : Nat) (x : Cell) : (s.setCell c x).flips = s.flips := rfl
@[simp] theorem State.setCell_rewrites (s : State) (c : Nat) (x : Cell) : (s.setCell c x).rewrites = s.rewrites := rfl
@[simp] theorem State.setCell_hubs (s : State) (c : Nat) (x : Cell) : (s.setCell c x).hubs = s.hubs := rfl
@[simp] theorem State.setCell_groups (s : State) (c : Nat) (x : Cell) : (s.setCell c x).groups = s.groups := rfl
@[simp] theorem State.setCell_bonds (s : State) (c : Nat) (x : Cell) : (s.setCell c x).bonds = s.bonds := rfl
@[simp] theorem State.setCell_level (s : State) (c : Nat) (x : Cell) : (s.setCell c x).level = s.level := rfl
@[simp] theorem State.setCell_pairs (s : State) (c : Nat) (x : Cell) : (s.setCell c x).pairs = s.pairs := rfl
@[simp] theorem State.setCell_sgs (s : State) (c : Nat) (x : Cell) : (s.setCell c x).sgs = s.sgs := rfl
@[simp] theorem State.setCell_net (s : State) (c : Nat) (x : Cell) : (s.setCell c x).net = s.net := rfl
@[simp] theorem State.setCell_walks (s : State) (c : Nat) (x : Cell) : (s.setCell c x).walks = s.walks := rfl
@[simp] theorem State.setCell_pageWaits (s : State) (c : Nat) (x : Cell) : (s.setCell c x).pageWaits = s.pageWaits := rfl
@[simp] theorem State.setCell_fills (s : State) (c : Nat) (x : Cell) : (s.setCell c x).fills = s.fills := rfl
@[simp] theorem State.setCell_forwards (s : State) (c : Nat) (x : Cell) : (s.setCell c x).forwards = s.forwards := rfl
@[simp] theorem State.setCell_adapt (s : State) (c : Nat) (x : Cell) : (s.setCell c x).adapt = s.adapt := rfl
@[simp] theorem State.setCell_closed (s : State) (c : Nat) (x : Cell) : (s.setCell c x).closed = s.closed := rfl
@[simp] theorem State.setCell_muslin (s : State) (c : Nat) (x : Cell) : (s.setCell c x).muslin = s.muslin := rfl
@[simp] theorem State.setCell_handles (s : State) (c : Nat) (x : Cell) : (s.setCell c x).handles = s.handles := rfl
@[simp] theorem State.setCell_pages (s : State) (c : Nat) (x : Cell) : (s.setCell c x).pages = s.pages := rfl
@[simp] theorem State.setCell_clearing (s : State) (c : Nat) (x : Cell) : (s.setCell c x).clearing = s.clearing := rfl
@[simp] theorem State.setCell_parts (s : State) (c : Nat) (x : Cell) : (s.setCell c x).parts = s.parts := rfl
@[simp] theorem State.setCell_grids (s : State) (c : Nat) (x : Cell) : (s.setCell c x).grids = s.grids := rfl
@[simp] theorem State.setCell_images (s : State) (c : Nat) (x : Cell) : (s.setCell c x).images = s.images := rfl
@[simp] theorem State.setCell_streams (s : State) (c : Nat) (x : Cell) : (s.setCell c x).streams = s.streams := rfl
@[simp] theorem State.setCell_launches (s : State) (c : Nat) (x : Cell) : (s.setCell c x).launches = s.launches := rfl
@[simp] theorem State.setCell_ports (s : State) (c : Nat) (x : Cell) : (s.setCell c x).ports = s.ports := rfl
@[simp] theorem State.setCell_senders (s : State) (c : Nat) (x : Cell) : (s.setCell c x).senders = s.senders := rfl
@[simp] theorem State.setCell_reductions (s : State) (c : Nat) (x : Cell) : (s.setCell c x).reductions = s.reductions := rfl
@[simp] theorem State.setCell_redCounts (s : State) (c : Nat) (x : Cell) : (s.setCell c x).redCounts = s.redCounts := rfl
@[simp] theorem State.setCell_coreTurns (s : State) (c : Nat) (x : Cell) : (s.setCell c x).coreTurns = s.coreTurns := rfl
@[simp] theorem State.setCell_badBinds (s : State) (c : Nat) (x : Cell) : (s.setCell c x).badBinds = s.badBinds := rfl
@[simp] theorem State.setCell_badHandles (s : State) (c : Nat) (x : Cell) : (s.setCell c x).badHandles = s.badHandles := rfl
@[simp] theorem State.setCell_power (s : State) (c : Nat) (x : Cell) : (s.setCell c x).power = s.power := rfl
@[simp] theorem State.setCell_powerReq (s : State) (c : Nat) (x : Cell) : (s.setCell c x).powerReq = s.powerReq := rfl
@[simp] theorem State.setCell_ceil (s : State) (c : Nat) (x : Cell) : (s.setCell c x).ceil = s.ceil := rfl
@[simp] theorem State.setCell_rate (s : State) (c : Nat) (x : Cell) : (s.setCell c x).rate = s.rate := rfl
@[simp] theorem State.setCell_vsp (s : State) (c : Nat) (x : Cell) : (s.setCell c x).vsp = s.vsp := rfl
@[simp] theorem State.setCell_refillAt (s : State) (c : Nat) (x : Cell) : (s.setCell c x).refillAt = s.refillAt := rfl
@[simp] theorem State.setCell_started (s : State) (c : Nat) (x : Cell) : (s.setCell c x).started = s.started := rfl
@[simp] theorem State.setCell_minimal (s : State) (c : Nat) (x : Cell) : (s.setCell c x).minimal = s.minimal := rfl
@[simp] theorem State.setCell_failedStarts (s : State) (c : Nat) (x : Cell) : (s.setCell c x).failedStarts = s.failedStarts := rfl
@[simp] theorem State.setCell_startReasons (s : State) (c : Nat) (x : Cell) : (s.setCell c x).startReasons = s.startReasons := rfl
@[simp] theorem State.setCell_full (s : State) (c : Nat) (x : Cell) : (s.setCell c x).full = s.full := rfl
@[simp] theorem State.setCell_signatures (s : State) (c : Nat) (x : Cell) : (s.setCell c x).signatures = s.signatures := rfl
@[simp] theorem State.setCell_measures (s : State) (c : Nat) (x : Cell) : (s.setCell c x).measures = s.measures := rfl

/-! ### updCell -/

@[simp] theorem State.updCell_tick (s : State) (c : Nat) (f : Cell → Cell) : (s.updCell c f).tick = s.tick := rfl
@[simp] theorem State.updCell_turn (s : State) (c : Nat) (f : Cell → Cell) : (s.updCell c f).turn = s.turn := rfl
@[simp] theorem State.updCell_cur (s : State) (c : Nat) (f : Cell → Cell) : (s.updCell c f).cur = s.cur := rfl
@[simp] theorem State.updCell_uids (s : State) (c : Nat) (f : Cell → Cell) : (s.updCell c f).uids = s.uids := rfl
@[simp] theorem State.updCell_cycle (s : State) (c : Nat) (f : Cell → Cell) : (s.updCell c f).cycle = s.cycle := rfl
@[simp] theorem State.updCell_mem (s : State) (c : Nat) (f : Cell → Cell) : (s.updCell c f).mem = s.mem := rfl
@[simp] theorem State.updCell_flips (s : State) (c : Nat) (f : Cell → Cell) : (s.updCell c f).flips = s.flips := rfl
@[simp] theorem State.updCell_rewrites (s : State) (c : Nat) (f : Cell → Cell) : (s.updCell c f).rewrites = s.rewrites := rfl
@[simp] theorem State.updCell_hubs (s : State) (c : Nat) (f : Cell → Cell) : (s.updCell c f).hubs = s.hubs := rfl
@[simp] theorem State.updCell_groups (s : State) (c : Nat) (f : Cell → Cell) : (s.updCell c f).groups = s.groups := rfl
@[simp] theorem State.updCell_bonds (s : State) (c : Nat) (f : Cell → Cell) : (s.updCell c f).bonds = s.bonds := rfl
@[simp] theorem State.updCell_level (s : State) (c : Nat) (f : Cell → Cell) : (s.updCell c f).level = s.level := rfl
@[simp] theorem State.updCell_pairs (s : State) (c : Nat) (f : Cell → Cell) : (s.updCell c f).pairs = s.pairs := rfl
@[simp] theorem State.updCell_sgs (s : State) (c : Nat) (f : Cell → Cell) : (s.updCell c f).sgs = s.sgs := rfl
@[simp] theorem State.updCell_net (s : State) (c : Nat) (f : Cell → Cell) : (s.updCell c f).net = s.net := rfl
@[simp] theorem State.updCell_walks (s : State) (c : Nat) (f : Cell → Cell) : (s.updCell c f).walks = s.walks := rfl
@[simp] theorem State.updCell_pageWaits (s : State) (c : Nat) (f : Cell → Cell) : (s.updCell c f).pageWaits = s.pageWaits := rfl
@[simp] theorem State.updCell_fills (s : State) (c : Nat) (f : Cell → Cell) : (s.updCell c f).fills = s.fills := rfl
@[simp] theorem State.updCell_forwards (s : State) (c : Nat) (f : Cell → Cell) : (s.updCell c f).forwards = s.forwards := rfl
@[simp] theorem State.updCell_adapt (s : State) (c : Nat) (f : Cell → Cell) : (s.updCell c f).adapt = s.adapt := rfl
@[simp] theorem State.updCell_closed (s : State) (c : Nat) (f : Cell → Cell) : (s.updCell c f).closed = s.closed := rfl
@[simp] theorem State.updCell_muslin (s : State) (c : Nat) (f : Cell → Cell) : (s.updCell c f).muslin = s.muslin := rfl
@[simp] theorem State.updCell_handles (s : State) (c : Nat) (f : Cell → Cell) : (s.updCell c f).handles = s.handles := rfl
@[simp] theorem State.updCell_pages (s : State) (c : Nat) (f : Cell → Cell) : (s.updCell c f).pages = s.pages := rfl
@[simp] theorem State.updCell_clearing (s : State) (c : Nat) (f : Cell → Cell) : (s.updCell c f).clearing = s.clearing := rfl
@[simp] theorem State.updCell_parts (s : State) (c : Nat) (f : Cell → Cell) : (s.updCell c f).parts = s.parts := rfl
@[simp] theorem State.updCell_grids (s : State) (c : Nat) (f : Cell → Cell) : (s.updCell c f).grids = s.grids := rfl
@[simp] theorem State.updCell_images (s : State) (c : Nat) (f : Cell → Cell) : (s.updCell c f).images = s.images := rfl
@[simp] theorem State.updCell_streams (s : State) (c : Nat) (f : Cell → Cell) : (s.updCell c f).streams = s.streams := rfl
@[simp] theorem State.updCell_launches (s : State) (c : Nat) (f : Cell → Cell) : (s.updCell c f).launches = s.launches := rfl
@[simp] theorem State.updCell_ports (s : State) (c : Nat) (f : Cell → Cell) : (s.updCell c f).ports = s.ports := rfl
@[simp] theorem State.updCell_senders (s : State) (c : Nat) (f : Cell → Cell) : (s.updCell c f).senders = s.senders := rfl
@[simp] theorem State.updCell_reductions (s : State) (c : Nat) (f : Cell → Cell) : (s.updCell c f).reductions = s.reductions := rfl
@[simp] theorem State.updCell_redCounts (s : State) (c : Nat) (f : Cell → Cell) : (s.updCell c f).redCounts = s.redCounts := rfl
@[simp] theorem State.updCell_coreTurns (s : State) (c : Nat) (f : Cell → Cell) : (s.updCell c f).coreTurns = s.coreTurns := rfl
@[simp] theorem State.updCell_badBinds (s : State) (c : Nat) (f : Cell → Cell) : (s.updCell c f).badBinds = s.badBinds := rfl
@[simp] theorem State.updCell_badHandles (s : State) (c : Nat) (f : Cell → Cell) : (s.updCell c f).badHandles = s.badHandles := rfl
@[simp] theorem State.updCell_power (s : State) (c : Nat) (f : Cell → Cell) : (s.updCell c f).power = s.power := rfl
@[simp] theorem State.updCell_powerReq (s : State) (c : Nat) (f : Cell → Cell) : (s.updCell c f).powerReq = s.powerReq := rfl
@[simp] theorem State.updCell_ceil (s : State) (c : Nat) (f : Cell → Cell) : (s.updCell c f).ceil = s.ceil := rfl
@[simp] theorem State.updCell_rate (s : State) (c : Nat) (f : Cell → Cell) : (s.updCell c f).rate = s.rate := rfl
@[simp] theorem State.updCell_vsp (s : State) (c : Nat) (f : Cell → Cell) : (s.updCell c f).vsp = s.vsp := rfl
@[simp] theorem State.updCell_refillAt (s : State) (c : Nat) (f : Cell → Cell) : (s.updCell c f).refillAt = s.refillAt := rfl
@[simp] theorem State.updCell_started (s : State) (c : Nat) (f : Cell → Cell) : (s.updCell c f).started = s.started := rfl
@[simp] theorem State.updCell_minimal (s : State) (c : Nat) (f : Cell → Cell) : (s.updCell c f).minimal = s.minimal := rfl
@[simp] theorem State.updCell_failedStarts (s : State) (c : Nat) (f : Cell → Cell) : (s.updCell c f).failedStarts = s.failedStarts := rfl
@[simp] theorem State.updCell_startReasons (s : State) (c : Nat) (f : Cell → Cell) : (s.updCell c f).startReasons = s.startReasons := rfl
@[simp] theorem State.updCell_full (s : State) (c : Nat) (f : Cell → Cell) : (s.updCell c f).full = s.full := rfl
@[simp] theorem State.updCell_signatures (s : State) (c : Nat) (f : Cell → Cell) : (s.updCell c f).signatures = s.signatures := rfl
@[simp] theorem State.updCell_measures (s : State) (c : Nat) (f : Cell → Cell) : (s.updCell c f).measures = s.measures := rfl

/-! ### setStrand -/

@[simp] theorem State.setStrand_tick (s : State) (i : SlotId) (t : Strand) : (s.setStrand i t).tick = s.tick := rfl
@[simp] theorem State.setStrand_turn (s : State) (i : SlotId) (t : Strand) : (s.setStrand i t).turn = s.turn := rfl
@[simp] theorem State.setStrand_cur (s : State) (i : SlotId) (t : Strand) : (s.setStrand i t).cur = s.cur := rfl
@[simp] theorem State.setStrand_uids (s : State) (i : SlotId) (t : Strand) : (s.setStrand i t).uids = s.uids := rfl
@[simp] theorem State.setStrand_cycle (s : State) (i : SlotId) (t : Strand) : (s.setStrand i t).cycle = s.cycle := rfl
@[simp] theorem State.setStrand_mem (s : State) (i : SlotId) (t : Strand) : (s.setStrand i t).mem = s.mem := rfl
@[simp] theorem State.setStrand_flips (s : State) (i : SlotId) (t : Strand) : (s.setStrand i t).flips = s.flips := rfl
@[simp] theorem State.setStrand_rewrites (s : State) (i : SlotId) (t : Strand) : (s.setStrand i t).rewrites = s.rewrites := rfl
@[simp] theorem State.setStrand_hubs (s : State) (i : SlotId) (t : Strand) : (s.setStrand i t).hubs = s.hubs := rfl
@[simp] theorem State.setStrand_groups (s : State) (i : SlotId) (t : Strand) : (s.setStrand i t).groups = s.groups := rfl
@[simp] theorem State.setStrand_bonds (s : State) (i : SlotId) (t : Strand) : (s.setStrand i t).bonds = s.bonds := rfl
@[simp] theorem State.setStrand_level (s : State) (i : SlotId) (t : Strand) : (s.setStrand i t).level = s.level := rfl
@[simp] theorem State.setStrand_pairs (s : State) (i : SlotId) (t : Strand) : (s.setStrand i t).pairs = s.pairs := rfl
@[simp] theorem State.setStrand_sgs (s : State) (i : SlotId) (t : Strand) : (s.setStrand i t).sgs = s.sgs := rfl
@[simp] theorem State.setStrand_net (s : State) (i : SlotId) (t : Strand) : (s.setStrand i t).net = s.net := rfl
@[simp] theorem State.setStrand_walks (s : State) (i : SlotId) (t : Strand) : (s.setStrand i t).walks = s.walks := rfl
@[simp] theorem State.setStrand_pageWaits (s : State) (i : SlotId) (t : Strand) : (s.setStrand i t).pageWaits = s.pageWaits := rfl
@[simp] theorem State.setStrand_fills (s : State) (i : SlotId) (t : Strand) : (s.setStrand i t).fills = s.fills := rfl
@[simp] theorem State.setStrand_forwards (s : State) (i : SlotId) (t : Strand) : (s.setStrand i t).forwards = s.forwards := rfl
@[simp] theorem State.setStrand_adapt (s : State) (i : SlotId) (t : Strand) : (s.setStrand i t).adapt = s.adapt := rfl
@[simp] theorem State.setStrand_closed (s : State) (i : SlotId) (t : Strand) : (s.setStrand i t).closed = s.closed := rfl
@[simp] theorem State.setStrand_muslin (s : State) (i : SlotId) (t : Strand) : (s.setStrand i t).muslin = s.muslin := rfl
@[simp] theorem State.setStrand_handles (s : State) (i : SlotId) (t : Strand) : (s.setStrand i t).handles = s.handles := rfl
@[simp] theorem State.setStrand_pages (s : State) (i : SlotId) (t : Strand) : (s.setStrand i t).pages = s.pages := rfl
@[simp] theorem State.setStrand_clearing (s : State) (i : SlotId) (t : Strand) : (s.setStrand i t).clearing = s.clearing := rfl
@[simp] theorem State.setStrand_parts (s : State) (i : SlotId) (t : Strand) : (s.setStrand i t).parts = s.parts := rfl
@[simp] theorem State.setStrand_grids (s : State) (i : SlotId) (t : Strand) : (s.setStrand i t).grids = s.grids := rfl
@[simp] theorem State.setStrand_images (s : State) (i : SlotId) (t : Strand) : (s.setStrand i t).images = s.images := rfl
@[simp] theorem State.setStrand_streams (s : State) (i : SlotId) (t : Strand) : (s.setStrand i t).streams = s.streams := rfl
@[simp] theorem State.setStrand_launches (s : State) (i : SlotId) (t : Strand) : (s.setStrand i t).launches = s.launches := rfl
@[simp] theorem State.setStrand_ports (s : State) (i : SlotId) (t : Strand) : (s.setStrand i t).ports = s.ports := rfl
@[simp] theorem State.setStrand_senders (s : State) (i : SlotId) (t : Strand) : (s.setStrand i t).senders = s.senders := rfl
@[simp] theorem State.setStrand_reductions (s : State) (i : SlotId) (t : Strand) : (s.setStrand i t).reductions = s.reductions := rfl
@[simp] theorem State.setStrand_redCounts (s : State) (i : SlotId) (t : Strand) : (s.setStrand i t).redCounts = s.redCounts := rfl
@[simp] theorem State.setStrand_coreTurns (s : State) (i : SlotId) (t : Strand) : (s.setStrand i t).coreTurns = s.coreTurns := rfl
@[simp] theorem State.setStrand_badBinds (s : State) (i : SlotId) (t : Strand) : (s.setStrand i t).badBinds = s.badBinds := rfl
@[simp] theorem State.setStrand_badHandles (s : State) (i : SlotId) (t : Strand) : (s.setStrand i t).badHandles = s.badHandles := rfl
@[simp] theorem State.setStrand_power (s : State) (i : SlotId) (t : Strand) : (s.setStrand i t).power = s.power := rfl
@[simp] theorem State.setStrand_powerReq (s : State) (i : SlotId) (t : Strand) : (s.setStrand i t).powerReq = s.powerReq := rfl
@[simp] theorem State.setStrand_ceil (s : State) (i : SlotId) (t : Strand) : (s.setStrand i t).ceil = s.ceil := rfl
@[simp] theorem State.setStrand_rate (s : State) (i : SlotId) (t : Strand) : (s.setStrand i t).rate = s.rate := rfl
@[simp] theorem State.setStrand_vsp (s : State) (i : SlotId) (t : Strand) : (s.setStrand i t).vsp = s.vsp := rfl
@[simp] theorem State.setStrand_refillAt (s : State) (i : SlotId) (t : Strand) : (s.setStrand i t).refillAt = s.refillAt := rfl
@[simp] theorem State.setStrand_started (s : State) (i : SlotId) (t : Strand) : (s.setStrand i t).started = s.started := rfl
@[simp] theorem State.setStrand_minimal (s : State) (i : SlotId) (t : Strand) : (s.setStrand i t).minimal = s.minimal := rfl
@[simp] theorem State.setStrand_failedStarts (s : State) (i : SlotId) (t : Strand) : (s.setStrand i t).failedStarts = s.failedStarts := rfl
@[simp] theorem State.setStrand_startReasons (s : State) (i : SlotId) (t : Strand) : (s.setStrand i t).startReasons = s.startReasons := rfl
@[simp] theorem State.setStrand_full (s : State) (i : SlotId) (t : Strand) : (s.setStrand i t).full = s.full := rfl
@[simp] theorem State.setStrand_signatures (s : State) (i : SlotId) (t : Strand) : (s.setStrand i t).signatures = s.signatures := rfl
@[simp] theorem State.setStrand_measures (s : State) (i : SlotId) (t : Strand) : (s.setStrand i t).measures = s.measures := rfl

/-! ### upd -/

@[simp] theorem State.upd_tick (s : State) (i : SlotId) (f : Strand → Strand) : (s.upd i f).tick = s.tick := rfl
@[simp] theorem State.upd_turn (s : State) (i : SlotId) (f : Strand → Strand) : (s.upd i f).turn = s.turn := rfl
@[simp] theorem State.upd_cur (s : State) (i : SlotId) (f : Strand → Strand) : (s.upd i f).cur = s.cur := rfl
@[simp] theorem State.upd_uids (s : State) (i : SlotId) (f : Strand → Strand) : (s.upd i f).uids = s.uids := rfl
@[simp] theorem State.upd_cycle (s : State) (i : SlotId) (f : Strand → Strand) : (s.upd i f).cycle = s.cycle := rfl
@[simp] theorem State.upd_mem (s : State) (i : SlotId) (f : Strand → Strand) : (s.upd i f).mem = s.mem := rfl
@[simp] theorem State.upd_flips (s : State) (i : SlotId) (f : Strand → Strand) : (s.upd i f).flips = s.flips := rfl
@[simp] theorem State.upd_rewrites (s : State) (i : SlotId) (f : Strand → Strand) : (s.upd i f).rewrites = s.rewrites := rfl
@[simp] theorem State.upd_hubs (s : State) (i : SlotId) (f : Strand → Strand) : (s.upd i f).hubs = s.hubs := rfl
@[simp] theorem State.upd_groups (s : State) (i : SlotId) (f : Strand → Strand) : (s.upd i f).groups = s.groups := rfl
@[simp] theorem State.upd_bonds (s : State) (i : SlotId) (f : Strand → Strand) : (s.upd i f).bonds = s.bonds := rfl
@[simp] theorem State.upd_level (s : State) (i : SlotId) (f : Strand → Strand) : (s.upd i f).level = s.level := rfl
@[simp] theorem State.upd_pairs (s : State) (i : SlotId) (f : Strand → Strand) : (s.upd i f).pairs = s.pairs := rfl
@[simp] theorem State.upd_sgs (s : State) (i : SlotId) (f : Strand → Strand) : (s.upd i f).sgs = s.sgs := rfl
@[simp] theorem State.upd_net (s : State) (i : SlotId) (f : Strand → Strand) : (s.upd i f).net = s.net := rfl
@[simp] theorem State.upd_walks (s : State) (i : SlotId) (f : Strand → Strand) : (s.upd i f).walks = s.walks := rfl
@[simp] theorem State.upd_pageWaits (s : State) (i : SlotId) (f : Strand → Strand) : (s.upd i f).pageWaits = s.pageWaits := rfl
@[simp] theorem State.upd_fills (s : State) (i : SlotId) (f : Strand → Strand) : (s.upd i f).fills = s.fills := rfl
@[simp] theorem State.upd_forwards (s : State) (i : SlotId) (f : Strand → Strand) : (s.upd i f).forwards = s.forwards := rfl
@[simp] theorem State.upd_adapt (s : State) (i : SlotId) (f : Strand → Strand) : (s.upd i f).adapt = s.adapt := rfl
@[simp] theorem State.upd_closed (s : State) (i : SlotId) (f : Strand → Strand) : (s.upd i f).closed = s.closed := rfl
@[simp] theorem State.upd_muslin (s : State) (i : SlotId) (f : Strand → Strand) : (s.upd i f).muslin = s.muslin := rfl
@[simp] theorem State.upd_handles (s : State) (i : SlotId) (f : Strand → Strand) : (s.upd i f).handles = s.handles := rfl
@[simp] theorem State.upd_pages (s : State) (i : SlotId) (f : Strand → Strand) : (s.upd i f).pages = s.pages := rfl
@[simp] theorem State.upd_clearing (s : State) (i : SlotId) (f : Strand → Strand) : (s.upd i f).clearing = s.clearing := rfl
@[simp] theorem State.upd_parts (s : State) (i : SlotId) (f : Strand → Strand) : (s.upd i f).parts = s.parts := rfl
@[simp] theorem State.upd_grids (s : State) (i : SlotId) (f : Strand → Strand) : (s.upd i f).grids = s.grids := rfl
@[simp] theorem State.upd_images (s : State) (i : SlotId) (f : Strand → Strand) : (s.upd i f).images = s.images := rfl
@[simp] theorem State.upd_streams (s : State) (i : SlotId) (f : Strand → Strand) : (s.upd i f).streams = s.streams := rfl
@[simp] theorem State.upd_launches (s : State) (i : SlotId) (f : Strand → Strand) : (s.upd i f).launches = s.launches := rfl
@[simp] theorem State.upd_ports (s : State) (i : SlotId) (f : Strand → Strand) : (s.upd i f).ports = s.ports := rfl
@[simp] theorem State.upd_senders (s : State) (i : SlotId) (f : Strand → Strand) : (s.upd i f).senders = s.senders := rfl
@[simp] theorem State.upd_reductions (s : State) (i : SlotId) (f : Strand → Strand) : (s.upd i f).reductions = s.reductions := rfl
@[simp] theorem State.upd_redCounts (s : State) (i : SlotId) (f : Strand → Strand) : (s.upd i f).redCounts = s.redCounts := rfl
@[simp] theorem State.upd_coreTurns (s : State) (i : SlotId) (f : Strand → Strand) : (s.upd i f).coreTurns = s.coreTurns := rfl
@[simp] theorem State.upd_badBinds (s : State) (i : SlotId) (f : Strand → Strand) : (s.upd i f).badBinds = s.badBinds := rfl
@[simp] theorem State.upd_badHandles (s : State) (i : SlotId) (f : Strand → Strand) : (s.upd i f).badHandles = s.badHandles := rfl
@[simp] theorem State.upd_power (s : State) (i : SlotId) (f : Strand → Strand) : (s.upd i f).power = s.power := rfl
@[simp] theorem State.upd_powerReq (s : State) (i : SlotId) (f : Strand → Strand) : (s.upd i f).powerReq = s.powerReq := rfl
@[simp] theorem State.upd_ceil (s : State) (i : SlotId) (f : Strand → Strand) : (s.upd i f).ceil = s.ceil := rfl
@[simp] theorem State.upd_rate (s : State) (i : SlotId) (f : Strand → Strand) : (s.upd i f).rate = s.rate := rfl
@[simp] theorem State.upd_vsp (s : State) (i : SlotId) (f : Strand → Strand) : (s.upd i f).vsp = s.vsp := rfl
@[simp] theorem State.upd_refillAt (s : State) (i : SlotId) (f : Strand → Strand) : (s.upd i f).refillAt = s.refillAt := rfl
@[simp] theorem State.upd_started (s : State) (i : SlotId) (f : Strand → Strand) : (s.upd i f).started = s.started := rfl
@[simp] theorem State.upd_minimal (s : State) (i : SlotId) (f : Strand → Strand) : (s.upd i f).minimal = s.minimal := rfl
@[simp] theorem State.upd_failedStarts (s : State) (i : SlotId) (f : Strand → Strand) : (s.upd i f).failedStarts = s.failedStarts := rfl
@[simp] theorem State.upd_startReasons (s : State) (i : SlotId) (f : Strand → Strand) : (s.upd i f).startReasons = s.startReasons := rfl
@[simp] theorem State.upd_full (s : State) (i : SlotId) (f : Strand → Strand) : (s.upd i f).full = s.full := rfl
@[simp] theorem State.upd_signatures (s : State) (i : SlotId) (f : Strand → Strand) : (s.upd i f).signatures = s.signatures := rfl
@[simp] theorem State.upd_measures (s : State) (i : SlotId) (f : Strand → Strand) : (s.upd i f).measures = s.measures := rfl

/-! ### setHub -/

@[simp] theorem State.setHub_tick (s : State) (t : Nat) (h : Hub) : (s.setHub t h).tick = s.tick := rfl
@[simp] theorem State.setHub_turn (s : State) (t : Nat) (h : Hub) : (s.setHub t h).turn = s.turn := rfl
@[simp] theorem State.setHub_cur (s : State) (t : Nat) (h : Hub) : (s.setHub t h).cur = s.cur := rfl
@[simp] theorem State.setHub_uids (s : State) (t : Nat) (h : Hub) : (s.setHub t h).uids = s.uids := rfl
@[simp] theorem State.setHub_cycle (s : State) (t : Nat) (h : Hub) : (s.setHub t h).cycle = s.cycle := rfl
@[simp] theorem State.setHub_mem (s : State) (t : Nat) (h : Hub) : (s.setHub t h).mem = s.mem := rfl
@[simp] theorem State.setHub_flips (s : State) (t : Nat) (h : Hub) : (s.setHub t h).flips = s.flips := rfl
@[simp] theorem State.setHub_rewrites (s : State) (t : Nat) (h : Hub) : (s.setHub t h).rewrites = s.rewrites := rfl
@[simp] theorem State.setHub_cells (s : State) (t : Nat) (h : Hub) : (s.setHub t h).cells = s.cells := rfl
@[simp] theorem State.setHub_groups (s : State) (t : Nat) (h : Hub) : (s.setHub t h).groups = s.groups := rfl
@[simp] theorem State.setHub_bonds (s : State) (t : Nat) (h : Hub) : (s.setHub t h).bonds = s.bonds := rfl
@[simp] theorem State.setHub_level (s : State) (t : Nat) (h : Hub) : (s.setHub t h).level = s.level := rfl
@[simp] theorem State.setHub_pairs (s : State) (t : Nat) (h : Hub) : (s.setHub t h).pairs = s.pairs := rfl
@[simp] theorem State.setHub_sgs (s : State) (t : Nat) (h : Hub) : (s.setHub t h).sgs = s.sgs := rfl
@[simp] theorem State.setHub_net (s : State) (t : Nat) (h : Hub) : (s.setHub t h).net = s.net := rfl
@[simp] theorem State.setHub_walks (s : State) (t : Nat) (h : Hub) : (s.setHub t h).walks = s.walks := rfl
@[simp] theorem State.setHub_pageWaits (s : State) (t : Nat) (h : Hub) : (s.setHub t h).pageWaits = s.pageWaits := rfl
@[simp] theorem State.setHub_fills (s : State) (t : Nat) (h : Hub) : (s.setHub t h).fills = s.fills := rfl
@[simp] theorem State.setHub_forwards (s : State) (t : Nat) (h : Hub) : (s.setHub t h).forwards = s.forwards := rfl
@[simp] theorem State.setHub_adapt (s : State) (t : Nat) (h : Hub) : (s.setHub t h).adapt = s.adapt := rfl
@[simp] theorem State.setHub_closed (s : State) (t : Nat) (h : Hub) : (s.setHub t h).closed = s.closed := rfl
@[simp] theorem State.setHub_muslin (s : State) (t : Nat) (h : Hub) : (s.setHub t h).muslin = s.muslin := rfl
@[simp] theorem State.setHub_handles (s : State) (t : Nat) (h : Hub) : (s.setHub t h).handles = s.handles := rfl
@[simp] theorem State.setHub_pages (s : State) (t : Nat) (h : Hub) : (s.setHub t h).pages = s.pages := rfl
@[simp] theorem State.setHub_clearing (s : State) (t : Nat) (h : Hub) : (s.setHub t h).clearing = s.clearing := rfl
@[simp] theorem State.setHub_parts (s : State) (t : Nat) (h : Hub) : (s.setHub t h).parts = s.parts := rfl
@[simp] theorem State.setHub_grids (s : State) (t : Nat) (h : Hub) : (s.setHub t h).grids = s.grids := rfl
@[simp] theorem State.setHub_images (s : State) (t : Nat) (h : Hub) : (s.setHub t h).images = s.images := rfl
@[simp] theorem State.setHub_streams (s : State) (t : Nat) (h : Hub) : (s.setHub t h).streams = s.streams := rfl
@[simp] theorem State.setHub_launches (s : State) (t : Nat) (h : Hub) : (s.setHub t h).launches = s.launches := rfl
@[simp] theorem State.setHub_ports (s : State) (t : Nat) (h : Hub) : (s.setHub t h).ports = s.ports := rfl
@[simp] theorem State.setHub_senders (s : State) (t : Nat) (h : Hub) : (s.setHub t h).senders = s.senders := rfl
@[simp] theorem State.setHub_reductions (s : State) (t : Nat) (h : Hub) : (s.setHub t h).reductions = s.reductions := rfl
@[simp] theorem State.setHub_redCounts (s : State) (t : Nat) (h : Hub) : (s.setHub t h).redCounts = s.redCounts := rfl
@[simp] theorem State.setHub_coreTurns (s : State) (t : Nat) (h : Hub) : (s.setHub t h).coreTurns = s.coreTurns := rfl
@[simp] theorem State.setHub_badBinds (s : State) (t : Nat) (h : Hub) : (s.setHub t h).badBinds = s.badBinds := rfl
@[simp] theorem State.setHub_badHandles (s : State) (t : Nat) (h : Hub) : (s.setHub t h).badHandles = s.badHandles := rfl
@[simp] theorem State.setHub_power (s : State) (t : Nat) (h : Hub) : (s.setHub t h).power = s.power := rfl
@[simp] theorem State.setHub_powerReq (s : State) (t : Nat) (h : Hub) : (s.setHub t h).powerReq = s.powerReq := rfl
@[simp] theorem State.setHub_ceil (s : State) (t : Nat) (h : Hub) : (s.setHub t h).ceil = s.ceil := rfl
@[simp] theorem State.setHub_rate (s : State) (t : Nat) (h : Hub) : (s.setHub t h).rate = s.rate := rfl
@[simp] theorem State.setHub_vsp (s : State) (t : Nat) (h : Hub) : (s.setHub t h).vsp = s.vsp := rfl
@[simp] theorem State.setHub_refillAt (s : State) (t : Nat) (h : Hub) : (s.setHub t h).refillAt = s.refillAt := rfl
@[simp] theorem State.setHub_started (s : State) (t : Nat) (h : Hub) : (s.setHub t h).started = s.started := rfl
@[simp] theorem State.setHub_minimal (s : State) (t : Nat) (h : Hub) : (s.setHub t h).minimal = s.minimal := rfl
@[simp] theorem State.setHub_failedStarts (s : State) (t : Nat) (h : Hub) : (s.setHub t h).failedStarts = s.failedStarts := rfl
@[simp] theorem State.setHub_startReasons (s : State) (t : Nat) (h : Hub) : (s.setHub t h).startReasons = s.startReasons := rfl
@[simp] theorem State.setHub_full (s : State) (t : Nat) (h : Hub) : (s.setHub t h).full = s.full := rfl
@[simp] theorem State.setHub_signatures (s : State) (t : Nat) (h : Hub) : (s.setHub t h).signatures = s.signatures := rfl
@[simp] theorem State.setHub_measures (s : State) (t : Nat) (h : Hub) : (s.setHub t h).measures = s.measures := rfl

/-! ### updHub -/

@[simp] theorem State.updHub_tick (s : State) (t : Nat) (f : Hub → Hub) : (s.updHub t f).tick = s.tick := rfl
@[simp] theorem State.updHub_turn (s : State) (t : Nat) (f : Hub → Hub) : (s.updHub t f).turn = s.turn := rfl
@[simp] theorem State.updHub_cur (s : State) (t : Nat) (f : Hub → Hub) : (s.updHub t f).cur = s.cur := rfl
@[simp] theorem State.updHub_uids (s : State) (t : Nat) (f : Hub → Hub) : (s.updHub t f).uids = s.uids := rfl
@[simp] theorem State.updHub_cycle (s : State) (t : Nat) (f : Hub → Hub) : (s.updHub t f).cycle = s.cycle := rfl
@[simp] theorem State.updHub_mem (s : State) (t : Nat) (f : Hub → Hub) : (s.updHub t f).mem = s.mem := rfl
@[simp] theorem State.updHub_flips (s : State) (t : Nat) (f : Hub → Hub) : (s.updHub t f).flips = s.flips := rfl
@[simp] theorem State.updHub_rewrites (s : State) (t : Nat) (f : Hub → Hub) : (s.updHub t f).rewrites = s.rewrites := rfl
@[simp] theorem State.updHub_cells (s : State) (t : Nat) (f : Hub → Hub) : (s.updHub t f).cells = s.cells := rfl
@[simp] theorem State.updHub_groups (s : State) (t : Nat) (f : Hub → Hub) : (s.updHub t f).groups = s.groups := rfl
@[simp] theorem State.updHub_bonds (s : State) (t : Nat) (f : Hub → Hub) : (s.updHub t f).bonds = s.bonds := rfl
@[simp] theorem State.updHub_level (s : State) (t : Nat) (f : Hub → Hub) : (s.updHub t f).level = s.level := rfl
@[simp] theorem State.updHub_pairs (s : State) (t : Nat) (f : Hub → Hub) : (s.updHub t f).pairs = s.pairs := rfl
@[simp] theorem State.updHub_sgs (s : State) (t : Nat) (f : Hub → Hub) : (s.updHub t f).sgs = s.sgs := rfl
@[simp] theorem State.updHub_net (s : State) (t : Nat) (f : Hub → Hub) : (s.updHub t f).net = s.net := rfl
@[simp] theorem State.updHub_walks (s : State) (t : Nat) (f : Hub → Hub) : (s.updHub t f).walks = s.walks := rfl
@[simp] theorem State.updHub_pageWaits (s : State) (t : Nat) (f : Hub → Hub) : (s.updHub t f).pageWaits = s.pageWaits := rfl
@[simp] theorem State.updHub_fills (s : State) (t : Nat) (f : Hub → Hub) : (s.updHub t f).fills = s.fills := rfl
@[simp] theorem State.updHub_forwards (s : State) (t : Nat) (f : Hub → Hub) : (s.updHub t f).forwards = s.forwards := rfl
@[simp] theorem State.updHub_adapt (s : State) (t : Nat) (f : Hub → Hub) : (s.updHub t f).adapt = s.adapt := rfl
@[simp] theorem State.updHub_closed (s : State) (t : Nat) (f : Hub → Hub) : (s.updHub t f).closed = s.closed := rfl
@[simp] theorem State.updHub_muslin (s : State) (t : Nat) (f : Hub → Hub) : (s.updHub t f).muslin = s.muslin := rfl
@[simp] theorem State.updHub_handles (s : State) (t : Nat) (f : Hub → Hub) : (s.updHub t f).handles = s.handles := rfl
@[simp] theorem State.updHub_pages (s : State) (t : Nat) (f : Hub → Hub) : (s.updHub t f).pages = s.pages := rfl
@[simp] theorem State.updHub_clearing (s : State) (t : Nat) (f : Hub → Hub) : (s.updHub t f).clearing = s.clearing := rfl
@[simp] theorem State.updHub_parts (s : State) (t : Nat) (f : Hub → Hub) : (s.updHub t f).parts = s.parts := rfl
@[simp] theorem State.updHub_grids (s : State) (t : Nat) (f : Hub → Hub) : (s.updHub t f).grids = s.grids := rfl
@[simp] theorem State.updHub_images (s : State) (t : Nat) (f : Hub → Hub) : (s.updHub t f).images = s.images := rfl
@[simp] theorem State.updHub_streams (s : State) (t : Nat) (f : Hub → Hub) : (s.updHub t f).streams = s.streams := rfl
@[simp] theorem State.updHub_launches (s : State) (t : Nat) (f : Hub → Hub) : (s.updHub t f).launches = s.launches := rfl
@[simp] theorem State.updHub_ports (s : State) (t : Nat) (f : Hub → Hub) : (s.updHub t f).ports = s.ports := rfl
@[simp] theorem State.updHub_senders (s : State) (t : Nat) (f : Hub → Hub) : (s.updHub t f).senders = s.senders := rfl
@[simp] theorem State.updHub_reductions (s : State) (t : Nat) (f : Hub → Hub) : (s.updHub t f).reductions = s.reductions := rfl
@[simp] theorem State.updHub_redCounts (s : State) (t : Nat) (f : Hub → Hub) : (s.updHub t f).redCounts = s.redCounts := rfl
@[simp] theorem State.updHub_coreTurns (s : State) (t : Nat) (f : Hub → Hub) : (s.updHub t f).coreTurns = s.coreTurns := rfl
@[simp] theorem State.updHub_badBinds (s : State) (t : Nat) (f : Hub → Hub) : (s.updHub t f).badBinds = s.badBinds := rfl
@[simp] theorem State.updHub_badHandles (s : State) (t : Nat) (f : Hub → Hub) : (s.updHub t f).badHandles = s.badHandles := rfl
@[simp] theorem State.updHub_power (s : State) (t : Nat) (f : Hub → Hub) : (s.updHub t f).power = s.power := rfl
@[simp] theorem State.updHub_powerReq (s : State) (t : Nat) (f : Hub → Hub) : (s.updHub t f).powerReq = s.powerReq := rfl
@[simp] theorem State.updHub_ceil (s : State) (t : Nat) (f : Hub → Hub) : (s.updHub t f).ceil = s.ceil := rfl
@[simp] theorem State.updHub_rate (s : State) (t : Nat) (f : Hub → Hub) : (s.updHub t f).rate = s.rate := rfl
@[simp] theorem State.updHub_vsp (s : State) (t : Nat) (f : Hub → Hub) : (s.updHub t f).vsp = s.vsp := rfl
@[simp] theorem State.updHub_refillAt (s : State) (t : Nat) (f : Hub → Hub) : (s.updHub t f).refillAt = s.refillAt := rfl
@[simp] theorem State.updHub_started (s : State) (t : Nat) (f : Hub → Hub) : (s.updHub t f).started = s.started := rfl
@[simp] theorem State.updHub_minimal (s : State) (t : Nat) (f : Hub → Hub) : (s.updHub t f).minimal = s.minimal := rfl
@[simp] theorem State.updHub_failedStarts (s : State) (t : Nat) (f : Hub → Hub) : (s.updHub t f).failedStarts = s.failedStarts := rfl
@[simp] theorem State.updHub_startReasons (s : State) (t : Nat) (f : Hub → Hub) : (s.updHub t f).startReasons = s.startReasons := rfl
@[simp] theorem State.updHub_full (s : State) (t : Nat) (f : Hub → Hub) : (s.updHub t f).full = s.full := rfl
@[simp] theorem State.updHub_signatures (s : State) (t : Nat) (f : Hub → Hub) : (s.updHub t f).signatures = s.signatures := rfl
@[simp] theorem State.updHub_measures (s : State) (t : Nat) (f : Hub → Hub) : (s.updHub t f).measures = s.measures := rfl

/-! ### updGroup -/

@[simp] theorem State.updGroup_tick (s : State) (g : Nat) (f : Group → Group) : (s.updGroup g f).tick = s.tick := rfl
@[simp] theorem State.updGroup_turn (s : State) (g : Nat) (f : Group → Group) : (s.updGroup g f).turn = s.turn := rfl
@[simp] theorem State.updGroup_cur (s : State) (g : Nat) (f : Group → Group) : (s.updGroup g f).cur = s.cur := rfl
@[simp] theorem State.updGroup_uids (s : State) (g : Nat) (f : Group → Group) : (s.updGroup g f).uids = s.uids := rfl
@[simp] theorem State.updGroup_cycle (s : State) (g : Nat) (f : Group → Group) : (s.updGroup g f).cycle = s.cycle := rfl
@[simp] theorem State.updGroup_mem (s : State) (g : Nat) (f : Group → Group) : (s.updGroup g f).mem = s.mem := rfl
@[simp] theorem State.updGroup_flips (s : State) (g : Nat) (f : Group → Group) : (s.updGroup g f).flips = s.flips := rfl
@[simp] theorem State.updGroup_rewrites (s : State) (g : Nat) (f : Group → Group) : (s.updGroup g f).rewrites = s.rewrites := rfl
@[simp] theorem State.updGroup_cells (s : State) (g : Nat) (f : Group → Group) : (s.updGroup g f).cells = s.cells := rfl
@[simp] theorem State.updGroup_hubs (s : State) (g : Nat) (f : Group → Group) : (s.updGroup g f).hubs = s.hubs := rfl
@[simp] theorem State.updGroup_bonds (s : State) (g : Nat) (f : Group → Group) : (s.updGroup g f).bonds = s.bonds := rfl
@[simp] theorem State.updGroup_level (s : State) (g : Nat) (f : Group → Group) : (s.updGroup g f).level = s.level := rfl
@[simp] theorem State.updGroup_pairs (s : State) (g : Nat) (f : Group → Group) : (s.updGroup g f).pairs = s.pairs := rfl
@[simp] theorem State.updGroup_sgs (s : State) (g : Nat) (f : Group → Group) : (s.updGroup g f).sgs = s.sgs := rfl
@[simp] theorem State.updGroup_net (s : State) (g : Nat) (f : Group → Group) : (s.updGroup g f).net = s.net := rfl
@[simp] theorem State.updGroup_walks (s : State) (g : Nat) (f : Group → Group) : (s.updGroup g f).walks = s.walks := rfl
@[simp] theorem State.updGroup_pageWaits (s : State) (g : Nat) (f : Group → Group) : (s.updGroup g f).pageWaits = s.pageWaits := rfl
@[simp] theorem State.updGroup_fills (s : State) (g : Nat) (f : Group → Group) : (s.updGroup g f).fills = s.fills := rfl
@[simp] theorem State.updGroup_forwards (s : State) (g : Nat) (f : Group → Group) : (s.updGroup g f).forwards = s.forwards := rfl
@[simp] theorem State.updGroup_adapt (s : State) (g : Nat) (f : Group → Group) : (s.updGroup g f).adapt = s.adapt := rfl
@[simp] theorem State.updGroup_closed (s : State) (g : Nat) (f : Group → Group) : (s.updGroup g f).closed = s.closed := rfl
@[simp] theorem State.updGroup_muslin (s : State) (g : Nat) (f : Group → Group) : (s.updGroup g f).muslin = s.muslin := rfl
@[simp] theorem State.updGroup_handles (s : State) (g : Nat) (f : Group → Group) : (s.updGroup g f).handles = s.handles := rfl
@[simp] theorem State.updGroup_pages (s : State) (g : Nat) (f : Group → Group) : (s.updGroup g f).pages = s.pages := rfl
@[simp] theorem State.updGroup_clearing (s : State) (g : Nat) (f : Group → Group) : (s.updGroup g f).clearing = s.clearing := rfl
@[simp] theorem State.updGroup_parts (s : State) (g : Nat) (f : Group → Group) : (s.updGroup g f).parts = s.parts := rfl
@[simp] theorem State.updGroup_grids (s : State) (g : Nat) (f : Group → Group) : (s.updGroup g f).grids = s.grids := rfl
@[simp] theorem State.updGroup_images (s : State) (g : Nat) (f : Group → Group) : (s.updGroup g f).images = s.images := rfl
@[simp] theorem State.updGroup_streams (s : State) (g : Nat) (f : Group → Group) : (s.updGroup g f).streams = s.streams := rfl
@[simp] theorem State.updGroup_launches (s : State) (g : Nat) (f : Group → Group) : (s.updGroup g f).launches = s.launches := rfl
@[simp] theorem State.updGroup_ports (s : State) (g : Nat) (f : Group → Group) : (s.updGroup g f).ports = s.ports := rfl
@[simp] theorem State.updGroup_senders (s : State) (g : Nat) (f : Group → Group) : (s.updGroup g f).senders = s.senders := rfl
@[simp] theorem State.updGroup_reductions (s : State) (g : Nat) (f : Group → Group) : (s.updGroup g f).reductions = s.reductions := rfl
@[simp] theorem State.updGroup_redCounts (s : State) (g : Nat) (f : Group → Group) : (s.updGroup g f).redCounts = s.redCounts := rfl
@[simp] theorem State.updGroup_coreTurns (s : State) (g : Nat) (f : Group → Group) : (s.updGroup g f).coreTurns = s.coreTurns := rfl
@[simp] theorem State.updGroup_badBinds (s : State) (g : Nat) (f : Group → Group) : (s.updGroup g f).badBinds = s.badBinds := rfl
@[simp] theorem State.updGroup_badHandles (s : State) (g : Nat) (f : Group → Group) : (s.updGroup g f).badHandles = s.badHandles := rfl
@[simp] theorem State.updGroup_power (s : State) (g : Nat) (f : Group → Group) : (s.updGroup g f).power = s.power := rfl
@[simp] theorem State.updGroup_powerReq (s : State) (g : Nat) (f : Group → Group) : (s.updGroup g f).powerReq = s.powerReq := rfl
@[simp] theorem State.updGroup_ceil (s : State) (g : Nat) (f : Group → Group) : (s.updGroup g f).ceil = s.ceil := rfl
@[simp] theorem State.updGroup_rate (s : State) (g : Nat) (f : Group → Group) : (s.updGroup g f).rate = s.rate := rfl
@[simp] theorem State.updGroup_vsp (s : State) (g : Nat) (f : Group → Group) : (s.updGroup g f).vsp = s.vsp := rfl
@[simp] theorem State.updGroup_refillAt (s : State) (g : Nat) (f : Group → Group) : (s.updGroup g f).refillAt = s.refillAt := rfl
@[simp] theorem State.updGroup_started (s : State) (g : Nat) (f : Group → Group) : (s.updGroup g f).started = s.started := rfl
@[simp] theorem State.updGroup_minimal (s : State) (g : Nat) (f : Group → Group) : (s.updGroup g f).minimal = s.minimal := rfl
@[simp] theorem State.updGroup_failedStarts (s : State) (g : Nat) (f : Group → Group) : (s.updGroup g f).failedStarts = s.failedStarts := rfl
@[simp] theorem State.updGroup_startReasons (s : State) (g : Nat) (f : Group → Group) : (s.updGroup g f).startReasons = s.startReasons := rfl
@[simp] theorem State.updGroup_full (s : State) (g : Nat) (f : Group → Group) : (s.updGroup g f).full = s.full := rfl
@[simp] theorem State.updGroup_signatures (s : State) (g : Nat) (f : Group → Group) : (s.updGroup g f).signatures = s.signatures := rfl
@[simp] theorem State.updGroup_measures (s : State) (g : Nat) (f : Group → Group) : (s.updGroup g f).measures = s.measures := rfl

/-! ### updBond -/

@[simp] theorem State.updBond_tick (s : State) (b : Nat) (f : Bond → Bond) : (s.updBond b f).tick = s.tick := rfl
@[simp] theorem State.updBond_turn (s : State) (b : Nat) (f : Bond → Bond) : (s.updBond b f).turn = s.turn := rfl
@[simp] theorem State.updBond_cur (s : State) (b : Nat) (f : Bond → Bond) : (s.updBond b f).cur = s.cur := rfl
@[simp] theorem State.updBond_uids (s : State) (b : Nat) (f : Bond → Bond) : (s.updBond b f).uids = s.uids := rfl
@[simp] theorem State.updBond_cycle (s : State) (b : Nat) (f : Bond → Bond) : (s.updBond b f).cycle = s.cycle := rfl
@[simp] theorem State.updBond_mem (s : State) (b : Nat) (f : Bond → Bond) : (s.updBond b f).mem = s.mem := rfl
@[simp] theorem State.updBond_flips (s : State) (b : Nat) (f : Bond → Bond) : (s.updBond b f).flips = s.flips := rfl
@[simp] theorem State.updBond_rewrites (s : State) (b : Nat) (f : Bond → Bond) : (s.updBond b f).rewrites = s.rewrites := rfl
@[simp] theorem State.updBond_cells (s : State) (b : Nat) (f : Bond → Bond) : (s.updBond b f).cells = s.cells := rfl
@[simp] theorem State.updBond_hubs (s : State) (b : Nat) (f : Bond → Bond) : (s.updBond b f).hubs = s.hubs := rfl
@[simp] theorem State.updBond_groups (s : State) (b : Nat) (f : Bond → Bond) : (s.updBond b f).groups = s.groups := rfl
@[simp] theorem State.updBond_level (s : State) (b : Nat) (f : Bond → Bond) : (s.updBond b f).level = s.level := rfl
@[simp] theorem State.updBond_pairs (s : State) (b : Nat) (f : Bond → Bond) : (s.updBond b f).pairs = s.pairs := rfl
@[simp] theorem State.updBond_sgs (s : State) (b : Nat) (f : Bond → Bond) : (s.updBond b f).sgs = s.sgs := rfl
@[simp] theorem State.updBond_net (s : State) (b : Nat) (f : Bond → Bond) : (s.updBond b f).net = s.net := rfl
@[simp] theorem State.updBond_walks (s : State) (b : Nat) (f : Bond → Bond) : (s.updBond b f).walks = s.walks := rfl
@[simp] theorem State.updBond_pageWaits (s : State) (b : Nat) (f : Bond → Bond) : (s.updBond b f).pageWaits = s.pageWaits := rfl
@[simp] theorem State.updBond_fills (s : State) (b : Nat) (f : Bond → Bond) : (s.updBond b f).fills = s.fills := rfl
@[simp] theorem State.updBond_forwards (s : State) (b : Nat) (f : Bond → Bond) : (s.updBond b f).forwards = s.forwards := rfl
@[simp] theorem State.updBond_adapt (s : State) (b : Nat) (f : Bond → Bond) : (s.updBond b f).adapt = s.adapt := rfl
@[simp] theorem State.updBond_closed (s : State) (b : Nat) (f : Bond → Bond) : (s.updBond b f).closed = s.closed := rfl
@[simp] theorem State.updBond_muslin (s : State) (b : Nat) (f : Bond → Bond) : (s.updBond b f).muslin = s.muslin := rfl
@[simp] theorem State.updBond_handles (s : State) (b : Nat) (f : Bond → Bond) : (s.updBond b f).handles = s.handles := rfl
@[simp] theorem State.updBond_pages (s : State) (b : Nat) (f : Bond → Bond) : (s.updBond b f).pages = s.pages := rfl
@[simp] theorem State.updBond_clearing (s : State) (b : Nat) (f : Bond → Bond) : (s.updBond b f).clearing = s.clearing := rfl
@[simp] theorem State.updBond_parts (s : State) (b : Nat) (f : Bond → Bond) : (s.updBond b f).parts = s.parts := rfl
@[simp] theorem State.updBond_grids (s : State) (b : Nat) (f : Bond → Bond) : (s.updBond b f).grids = s.grids := rfl
@[simp] theorem State.updBond_images (s : State) (b : Nat) (f : Bond → Bond) : (s.updBond b f).images = s.images := rfl
@[simp] theorem State.updBond_streams (s : State) (b : Nat) (f : Bond → Bond) : (s.updBond b f).streams = s.streams := rfl
@[simp] theorem State.updBond_launches (s : State) (b : Nat) (f : Bond → Bond) : (s.updBond b f).launches = s.launches := rfl
@[simp] theorem State.updBond_ports (s : State) (b : Nat) (f : Bond → Bond) : (s.updBond b f).ports = s.ports := rfl
@[simp] theorem State.updBond_senders (s : State) (b : Nat) (f : Bond → Bond) : (s.updBond b f).senders = s.senders := rfl
@[simp] theorem State.updBond_reductions (s : State) (b : Nat) (f : Bond → Bond) : (s.updBond b f).reductions = s.reductions := rfl
@[simp] theorem State.updBond_redCounts (s : State) (b : Nat) (f : Bond → Bond) : (s.updBond b f).redCounts = s.redCounts := rfl
@[simp] theorem State.updBond_coreTurns (s : State) (b : Nat) (f : Bond → Bond) : (s.updBond b f).coreTurns = s.coreTurns := rfl
@[simp] theorem State.updBond_badBinds (s : State) (b : Nat) (f : Bond → Bond) : (s.updBond b f).badBinds = s.badBinds := rfl
@[simp] theorem State.updBond_badHandles (s : State) (b : Nat) (f : Bond → Bond) : (s.updBond b f).badHandles = s.badHandles := rfl
@[simp] theorem State.updBond_power (s : State) (b : Nat) (f : Bond → Bond) : (s.updBond b f).power = s.power := rfl
@[simp] theorem State.updBond_powerReq (s : State) (b : Nat) (f : Bond → Bond) : (s.updBond b f).powerReq = s.powerReq := rfl
@[simp] theorem State.updBond_ceil (s : State) (b : Nat) (f : Bond → Bond) : (s.updBond b f).ceil = s.ceil := rfl
@[simp] theorem State.updBond_rate (s : State) (b : Nat) (f : Bond → Bond) : (s.updBond b f).rate = s.rate := rfl
@[simp] theorem State.updBond_vsp (s : State) (b : Nat) (f : Bond → Bond) : (s.updBond b f).vsp = s.vsp := rfl
@[simp] theorem State.updBond_refillAt (s : State) (b : Nat) (f : Bond → Bond) : (s.updBond b f).refillAt = s.refillAt := rfl
@[simp] theorem State.updBond_started (s : State) (b : Nat) (f : Bond → Bond) : (s.updBond b f).started = s.started := rfl
@[simp] theorem State.updBond_minimal (s : State) (b : Nat) (f : Bond → Bond) : (s.updBond b f).minimal = s.minimal := rfl
@[simp] theorem State.updBond_failedStarts (s : State) (b : Nat) (f : Bond → Bond) : (s.updBond b f).failedStarts = s.failedStarts := rfl
@[simp] theorem State.updBond_startReasons (s : State) (b : Nat) (f : Bond → Bond) : (s.updBond b f).startReasons = s.startReasons := rfl
@[simp] theorem State.updBond_full (s : State) (b : Nat) (f : Bond → Bond) : (s.updBond b f).full = s.full := rfl
@[simp] theorem State.updBond_signatures (s : State) (b : Nat) (f : Bond → Bond) : (s.updBond b f).signatures = s.signatures := rfl
@[simp] theorem State.updBond_measures (s : State) (b : Nat) (f : Bond → Bond) : (s.updBond b f).measures = s.measures := rfl

/-! ### updPair -/

@[simp] theorem State.updPair_tick (s : State) (p : Nat) (f : Pair → Pair) : (s.updPair p f).tick = s.tick := rfl
@[simp] theorem State.updPair_turn (s : State) (p : Nat) (f : Pair → Pair) : (s.updPair p f).turn = s.turn := rfl
@[simp] theorem State.updPair_cur (s : State) (p : Nat) (f : Pair → Pair) : (s.updPair p f).cur = s.cur := rfl
@[simp] theorem State.updPair_uids (s : State) (p : Nat) (f : Pair → Pair) : (s.updPair p f).uids = s.uids := rfl
@[simp] theorem State.updPair_cycle (s : State) (p : Nat) (f : Pair → Pair) : (s.updPair p f).cycle = s.cycle := rfl
@[simp] theorem State.updPair_mem (s : State) (p : Nat) (f : Pair → Pair) : (s.updPair p f).mem = s.mem := rfl
@[simp] theorem State.updPair_flips (s : State) (p : Nat) (f : Pair → Pair) : (s.updPair p f).flips = s.flips := rfl
@[simp] theorem State.updPair_rewrites (s : State) (p : Nat) (f : Pair → Pair) : (s.updPair p f).rewrites = s.rewrites := rfl
@[simp] theorem State.updPair_cells (s : State) (p : Nat) (f : Pair → Pair) : (s.updPair p f).cells = s.cells := rfl
@[simp] theorem State.updPair_hubs (s : State) (p : Nat) (f : Pair → Pair) : (s.updPair p f).hubs = s.hubs := rfl
@[simp] theorem State.updPair_groups (s : State) (p : Nat) (f : Pair → Pair) : (s.updPair p f).groups = s.groups := rfl
@[simp] theorem State.updPair_bonds (s : State) (p : Nat) (f : Pair → Pair) : (s.updPair p f).bonds = s.bonds := rfl
@[simp] theorem State.updPair_level (s : State) (p : Nat) (f : Pair → Pair) : (s.updPair p f).level = s.level := rfl
@[simp] theorem State.updPair_sgs (s : State) (p : Nat) (f : Pair → Pair) : (s.updPair p f).sgs = s.sgs := rfl
@[simp] theorem State.updPair_net (s : State) (p : Nat) (f : Pair → Pair) : (s.updPair p f).net = s.net := rfl
@[simp] theorem State.updPair_walks (s : State) (p : Nat) (f : Pair → Pair) : (s.updPair p f).walks = s.walks := rfl
@[simp] theorem State.updPair_pageWaits (s : State) (p : Nat) (f : Pair → Pair) : (s.updPair p f).pageWaits = s.pageWaits := rfl
@[simp] theorem State.updPair_fills (s : State) (p : Nat) (f : Pair → Pair) : (s.updPair p f).fills = s.fills := rfl
@[simp] theorem State.updPair_forwards (s : State) (p : Nat) (f : Pair → Pair) : (s.updPair p f).forwards = s.forwards := rfl
@[simp] theorem State.updPair_adapt (s : State) (p : Nat) (f : Pair → Pair) : (s.updPair p f).adapt = s.adapt := rfl
@[simp] theorem State.updPair_closed (s : State) (p : Nat) (f : Pair → Pair) : (s.updPair p f).closed = s.closed := rfl
@[simp] theorem State.updPair_muslin (s : State) (p : Nat) (f : Pair → Pair) : (s.updPair p f).muslin = s.muslin := rfl
@[simp] theorem State.updPair_handles (s : State) (p : Nat) (f : Pair → Pair) : (s.updPair p f).handles = s.handles := rfl
@[simp] theorem State.updPair_pages (s : State) (p : Nat) (f : Pair → Pair) : (s.updPair p f).pages = s.pages := rfl
@[simp] theorem State.updPair_clearing (s : State) (p : Nat) (f : Pair → Pair) : (s.updPair p f).clearing = s.clearing := rfl
@[simp] theorem State.updPair_parts (s : State) (p : Nat) (f : Pair → Pair) : (s.updPair p f).parts = s.parts := rfl
@[simp] theorem State.updPair_grids (s : State) (p : Nat) (f : Pair → Pair) : (s.updPair p f).grids = s.grids := rfl
@[simp] theorem State.updPair_images (s : State) (p : Nat) (f : Pair → Pair) : (s.updPair p f).images = s.images := rfl
@[simp] theorem State.updPair_streams (s : State) (p : Nat) (f : Pair → Pair) : (s.updPair p f).streams = s.streams := rfl
@[simp] theorem State.updPair_launches (s : State) (p : Nat) (f : Pair → Pair) : (s.updPair p f).launches = s.launches := rfl
@[simp] theorem State.updPair_ports (s : State) (p : Nat) (f : Pair → Pair) : (s.updPair p f).ports = s.ports := rfl
@[simp] theorem State.updPair_senders (s : State) (p : Nat) (f : Pair → Pair) : (s.updPair p f).senders = s.senders := rfl
@[simp] theorem State.updPair_reductions (s : State) (p : Nat) (f : Pair → Pair) : (s.updPair p f).reductions = s.reductions := rfl
@[simp] theorem State.updPair_redCounts (s : State) (p : Nat) (f : Pair → Pair) : (s.updPair p f).redCounts = s.redCounts := rfl
@[simp] theorem State.updPair_coreTurns (s : State) (p : Nat) (f : Pair → Pair) : (s.updPair p f).coreTurns = s.coreTurns := rfl
@[simp] theorem State.updPair_badBinds (s : State) (p : Nat) (f : Pair → Pair) : (s.updPair p f).badBinds = s.badBinds := rfl
@[simp] theorem State.updPair_badHandles (s : State) (p : Nat) (f : Pair → Pair) : (s.updPair p f).badHandles = s.badHandles := rfl
@[simp] theorem State.updPair_power (s : State) (p : Nat) (f : Pair → Pair) : (s.updPair p f).power = s.power := rfl
@[simp] theorem State.updPair_powerReq (s : State) (p : Nat) (f : Pair → Pair) : (s.updPair p f).powerReq = s.powerReq := rfl
@[simp] theorem State.updPair_ceil (s : State) (p : Nat) (f : Pair → Pair) : (s.updPair p f).ceil = s.ceil := rfl
@[simp] theorem State.updPair_rate (s : State) (p : Nat) (f : Pair → Pair) : (s.updPair p f).rate = s.rate := rfl
@[simp] theorem State.updPair_vsp (s : State) (p : Nat) (f : Pair → Pair) : (s.updPair p f).vsp = s.vsp := rfl
@[simp] theorem State.updPair_refillAt (s : State) (p : Nat) (f : Pair → Pair) : (s.updPair p f).refillAt = s.refillAt := rfl
@[simp] theorem State.updPair_started (s : State) (p : Nat) (f : Pair → Pair) : (s.updPair p f).started = s.started := rfl
@[simp] theorem State.updPair_minimal (s : State) (p : Nat) (f : Pair → Pair) : (s.updPair p f).minimal = s.minimal := rfl
@[simp] theorem State.updPair_failedStarts (s : State) (p : Nat) (f : Pair → Pair) : (s.updPair p f).failedStarts = s.failedStarts := rfl
@[simp] theorem State.updPair_startReasons (s : State) (p : Nat) (f : Pair → Pair) : (s.updPair p f).startReasons = s.startReasons := rfl
@[simp] theorem State.updPair_full (s : State) (p : Nat) (f : Pair → Pair) : (s.updPair p f).full = s.full := rfl
@[simp] theorem State.updPair_signatures (s : State) (p : Nat) (f : Pair → Pair) : (s.updPair p f).signatures = s.signatures := rfl
@[simp] theorem State.updPair_measures (s : State) (p : Nat) (f : Pair → Pair) : (s.updPair p f).measures = s.measures := rfl

/-! ### updSg -/

@[simp] theorem State.updSg_tick (s : State) (g : Nat) (f : SgHub → SgHub) : (s.updSg g f).tick = s.tick := rfl
@[simp] theorem State.updSg_turn (s : State) (g : Nat) (f : SgHub → SgHub) : (s.updSg g f).turn = s.turn := rfl
@[simp] theorem State.updSg_cur (s : State) (g : Nat) (f : SgHub → SgHub) : (s.updSg g f).cur = s.cur := rfl
@[simp] theorem State.updSg_uids (s : State) (g : Nat) (f : SgHub → SgHub) : (s.updSg g f).uids = s.uids := rfl
@[simp] theorem State.updSg_cycle (s : State) (g : Nat) (f : SgHub → SgHub) : (s.updSg g f).cycle = s.cycle := rfl
@[simp] theorem State.updSg_mem (s : State) (g : Nat) (f : SgHub → SgHub) : (s.updSg g f).mem = s.mem := rfl
@[simp] theorem State.updSg_flips (s : State) (g : Nat) (f : SgHub → SgHub) : (s.updSg g f).flips = s.flips := rfl
@[simp] theorem State.updSg_rewrites (s : State) (g : Nat) (f : SgHub → SgHub) : (s.updSg g f).rewrites = s.rewrites := rfl
@[simp] theorem State.updSg_cells (s : State) (g : Nat) (f : SgHub → SgHub) : (s.updSg g f).cells = s.cells := rfl
@[simp] theorem State.updSg_hubs (s : State) (g : Nat) (f : SgHub → SgHub) : (s.updSg g f).hubs = s.hubs := rfl
@[simp] theorem State.updSg_groups (s : State) (g : Nat) (f : SgHub → SgHub) : (s.updSg g f).groups = s.groups := rfl
@[simp] theorem State.updSg_bonds (s : State) (g : Nat) (f : SgHub → SgHub) : (s.updSg g f).bonds = s.bonds := rfl
@[simp] theorem State.updSg_level (s : State) (g : Nat) (f : SgHub → SgHub) : (s.updSg g f).level = s.level := rfl
@[simp] theorem State.updSg_pairs (s : State) (g : Nat) (f : SgHub → SgHub) : (s.updSg g f).pairs = s.pairs := rfl
@[simp] theorem State.updSg_net (s : State) (g : Nat) (f : SgHub → SgHub) : (s.updSg g f).net = s.net := rfl
@[simp] theorem State.updSg_walks (s : State) (g : Nat) (f : SgHub → SgHub) : (s.updSg g f).walks = s.walks := rfl
@[simp] theorem State.updSg_pageWaits (s : State) (g : Nat) (f : SgHub → SgHub) : (s.updSg g f).pageWaits = s.pageWaits := rfl
@[simp] theorem State.updSg_fills (s : State) (g : Nat) (f : SgHub → SgHub) : (s.updSg g f).fills = s.fills := rfl
@[simp] theorem State.updSg_forwards (s : State) (g : Nat) (f : SgHub → SgHub) : (s.updSg g f).forwards = s.forwards := rfl
@[simp] theorem State.updSg_adapt (s : State) (g : Nat) (f : SgHub → SgHub) : (s.updSg g f).adapt = s.adapt := rfl
@[simp] theorem State.updSg_closed (s : State) (g : Nat) (f : SgHub → SgHub) : (s.updSg g f).closed = s.closed := rfl
@[simp] theorem State.updSg_muslin (s : State) (g : Nat) (f : SgHub → SgHub) : (s.updSg g f).muslin = s.muslin := rfl
@[simp] theorem State.updSg_handles (s : State) (g : Nat) (f : SgHub → SgHub) : (s.updSg g f).handles = s.handles := rfl
@[simp] theorem State.updSg_pages (s : State) (g : Nat) (f : SgHub → SgHub) : (s.updSg g f).pages = s.pages := rfl
@[simp] theorem State.updSg_clearing (s : State) (g : Nat) (f : SgHub → SgHub) : (s.updSg g f).clearing = s.clearing := rfl
@[simp] theorem State.updSg_parts (s : State) (g : Nat) (f : SgHub → SgHub) : (s.updSg g f).parts = s.parts := rfl
@[simp] theorem State.updSg_grids (s : State) (g : Nat) (f : SgHub → SgHub) : (s.updSg g f).grids = s.grids := rfl
@[simp] theorem State.updSg_images (s : State) (g : Nat) (f : SgHub → SgHub) : (s.updSg g f).images = s.images := rfl
@[simp] theorem State.updSg_streams (s : State) (g : Nat) (f : SgHub → SgHub) : (s.updSg g f).streams = s.streams := rfl
@[simp] theorem State.updSg_launches (s : State) (g : Nat) (f : SgHub → SgHub) : (s.updSg g f).launches = s.launches := rfl
@[simp] theorem State.updSg_ports (s : State) (g : Nat) (f : SgHub → SgHub) : (s.updSg g f).ports = s.ports := rfl
@[simp] theorem State.updSg_senders (s : State) (g : Nat) (f : SgHub → SgHub) : (s.updSg g f).senders = s.senders := rfl
@[simp] theorem State.updSg_reductions (s : State) (g : Nat) (f : SgHub → SgHub) : (s.updSg g f).reductions = s.reductions := rfl
@[simp] theorem State.updSg_redCounts (s : State) (g : Nat) (f : SgHub → SgHub) : (s.updSg g f).redCounts = s.redCounts := rfl
@[simp] theorem State.updSg_coreTurns (s : State) (g : Nat) (f : SgHub → SgHub) : (s.updSg g f).coreTurns = s.coreTurns := rfl
@[simp] theorem State.updSg_badBinds (s : State) (g : Nat) (f : SgHub → SgHub) : (s.updSg g f).badBinds = s.badBinds := rfl
@[simp] theorem State.updSg_badHandles (s : State) (g : Nat) (f : SgHub → SgHub) : (s.updSg g f).badHandles = s.badHandles := rfl
@[simp] theorem State.updSg_power (s : State) (g : Nat) (f : SgHub → SgHub) : (s.updSg g f).power = s.power := rfl
@[simp] theorem State.updSg_powerReq (s : State) (g : Nat) (f : SgHub → SgHub) : (s.updSg g f).powerReq = s.powerReq := rfl
@[simp] theorem State.updSg_ceil (s : State) (g : Nat) (f : SgHub → SgHub) : (s.updSg g f).ceil = s.ceil := rfl
@[simp] theorem State.updSg_rate (s : State) (g : Nat) (f : SgHub → SgHub) : (s.updSg g f).rate = s.rate := rfl
@[simp] theorem State.updSg_vsp (s : State) (g : Nat) (f : SgHub → SgHub) : (s.updSg g f).vsp = s.vsp := rfl
@[simp] theorem State.updSg_refillAt (s : State) (g : Nat) (f : SgHub → SgHub) : (s.updSg g f).refillAt = s.refillAt := rfl
@[simp] theorem State.updSg_started (s : State) (g : Nat) (f : SgHub → SgHub) : (s.updSg g f).started = s.started := rfl
@[simp] theorem State.updSg_minimal (s : State) (g : Nat) (f : SgHub → SgHub) : (s.updSg g f).minimal = s.minimal := rfl
@[simp] theorem State.updSg_failedStarts (s : State) (g : Nat) (f : SgHub → SgHub) : (s.updSg g f).failedStarts = s.failedStarts := rfl
@[simp] theorem State.updSg_startReasons (s : State) (g : Nat) (f : SgHub → SgHub) : (s.updSg g f).startReasons = s.startReasons := rfl
@[simp] theorem State.updSg_full (s : State) (g : Nat) (f : SgHub → SgHub) : (s.updSg g f).full = s.full := rfl
@[simp] theorem State.updSg_signatures (s : State) (g : Nat) (f : SgHub → SgHub) : (s.updSg g f).signatures = s.signatures := rfl
@[simp] theorem State.updSg_measures (s : State) (g : Nat) (f : SgHub → SgHub) : (s.updSg g f).measures = s.measures := rfl

/-! ### updRec -/

@[simp] theorem State.updRec_tick (s : State) (g r : Nat) (f : BindRec → BindRec) : (s.updRec g r f).tick = s.tick := rfl
@[simp] theorem State.updRec_turn (s : State) (g r : Nat) (f : BindRec → BindRec) : (s.updRec g r f).turn = s.turn := rfl
@[simp] theorem State.updRec_cur (s : State) (g r : Nat) (f : BindRec → BindRec) : (s.updRec g r f).cur = s.cur := rfl
@[simp] theorem State.updRec_uids (s : State) (g r : Nat) (f : BindRec → BindRec) : (s.updRec g r f).uids = s.uids := rfl
@[simp] theorem State.updRec_cycle (s : State) (g r : Nat) (f : BindRec → BindRec) : (s.updRec g r f).cycle = s.cycle := rfl
@[simp] theorem State.updRec_mem (s : State) (g r : Nat) (f : BindRec → BindRec) : (s.updRec g r f).mem = s.mem := rfl
@[simp] theorem State.updRec_flips (s : State) (g r : Nat) (f : BindRec → BindRec) : (s.updRec g r f).flips = s.flips := rfl
@[simp] theorem State.updRec_rewrites (s : State) (g r : Nat) (f : BindRec → BindRec) : (s.updRec g r f).rewrites = s.rewrites := rfl
@[simp] theorem State.updRec_cells (s : State) (g r : Nat) (f : BindRec → BindRec) : (s.updRec g r f).cells = s.cells := rfl
@[simp] theorem State.updRec_hubs (s : State) (g r : Nat) (f : BindRec → BindRec) : (s.updRec g r f).hubs = s.hubs := rfl
@[simp] theorem State.updRec_groups (s : State) (g r : Nat) (f : BindRec → BindRec) : (s.updRec g r f).groups = s.groups := rfl
@[simp] theorem State.updRec_bonds (s : State) (g r : Nat) (f : BindRec → BindRec) : (s.updRec g r f).bonds = s.bonds := rfl
@[simp] theorem State.updRec_level (s : State) (g r : Nat) (f : BindRec → BindRec) : (s.updRec g r f).level = s.level := rfl
@[simp] theorem State.updRec_pairs (s : State) (g r : Nat) (f : BindRec → BindRec) : (s.updRec g r f).pairs = s.pairs := rfl
@[simp] theorem State.updRec_net (s : State) (g r : Nat) (f : BindRec → BindRec) : (s.updRec g r f).net = s.net := rfl
@[simp] theorem State.updRec_walks (s : State) (g r : Nat) (f : BindRec → BindRec) : (s.updRec g r f).walks = s.walks := rfl
@[simp] theorem State.updRec_pageWaits (s : State) (g r : Nat) (f : BindRec → BindRec) : (s.updRec g r f).pageWaits = s.pageWaits := rfl
@[simp] theorem State.updRec_fills (s : State) (g r : Nat) (f : BindRec → BindRec) : (s.updRec g r f).fills = s.fills := rfl
@[simp] theorem State.updRec_forwards (s : State) (g r : Nat) (f : BindRec → BindRec) : (s.updRec g r f).forwards = s.forwards := rfl
@[simp] theorem State.updRec_adapt (s : State) (g r : Nat) (f : BindRec → BindRec) : (s.updRec g r f).adapt = s.adapt := rfl
@[simp] theorem State.updRec_closed (s : State) (g r : Nat) (f : BindRec → BindRec) : (s.updRec g r f).closed = s.closed := rfl
@[simp] theorem State.updRec_muslin (s : State) (g r : Nat) (f : BindRec → BindRec) : (s.updRec g r f).muslin = s.muslin := rfl
@[simp] theorem State.updRec_handles (s : State) (g r : Nat) (f : BindRec → BindRec) : (s.updRec g r f).handles = s.handles := rfl
@[simp] theorem State.updRec_pages (s : State) (g r : Nat) (f : BindRec → BindRec) : (s.updRec g r f).pages = s.pages := rfl
@[simp] theorem State.updRec_clearing (s : State) (g r : Nat) (f : BindRec → BindRec) : (s.updRec g r f).clearing = s.clearing := rfl
@[simp] theorem State.updRec_parts (s : State) (g r : Nat) (f : BindRec → BindRec) : (s.updRec g r f).parts = s.parts := rfl
@[simp] theorem State.updRec_grids (s : State) (g r : Nat) (f : BindRec → BindRec) : (s.updRec g r f).grids = s.grids := rfl
@[simp] theorem State.updRec_images (s : State) (g r : Nat) (f : BindRec → BindRec) : (s.updRec g r f).images = s.images := rfl
@[simp] theorem State.updRec_streams (s : State) (g r : Nat) (f : BindRec → BindRec) : (s.updRec g r f).streams = s.streams := rfl
@[simp] theorem State.updRec_launches (s : State) (g r : Nat) (f : BindRec → BindRec) : (s.updRec g r f).launches = s.launches := rfl
@[simp] theorem State.updRec_ports (s : State) (g r : Nat) (f : BindRec → BindRec) : (s.updRec g r f).ports = s.ports := rfl
@[simp] theorem State.updRec_senders (s : State) (g r : Nat) (f : BindRec → BindRec) : (s.updRec g r f).senders = s.senders := rfl
@[simp] theorem State.updRec_reductions (s : State) (g r : Nat) (f : BindRec → BindRec) : (s.updRec g r f).reductions = s.reductions := rfl
@[simp] theorem State.updRec_redCounts (s : State) (g r : Nat) (f : BindRec → BindRec) : (s.updRec g r f).redCounts = s.redCounts := rfl
@[simp] theorem State.updRec_coreTurns (s : State) (g r : Nat) (f : BindRec → BindRec) : (s.updRec g r f).coreTurns = s.coreTurns := rfl
@[simp] theorem State.updRec_badBinds (s : State) (g r : Nat) (f : BindRec → BindRec) : (s.updRec g r f).badBinds = s.badBinds := rfl
@[simp] theorem State.updRec_badHandles (s : State) (g r : Nat) (f : BindRec → BindRec) : (s.updRec g r f).badHandles = s.badHandles := rfl
@[simp] theorem State.updRec_power (s : State) (g r : Nat) (f : BindRec → BindRec) : (s.updRec g r f).power = s.power := rfl
@[simp] theorem State.updRec_powerReq (s : State) (g r : Nat) (f : BindRec → BindRec) : (s.updRec g r f).powerReq = s.powerReq := rfl
@[simp] theorem State.updRec_ceil (s : State) (g r : Nat) (f : BindRec → BindRec) : (s.updRec g r f).ceil = s.ceil := rfl
@[simp] theorem State.updRec_rate (s : State) (g r : Nat) (f : BindRec → BindRec) : (s.updRec g r f).rate = s.rate := rfl
@[simp] theorem State.updRec_vsp (s : State) (g r : Nat) (f : BindRec → BindRec) : (s.updRec g r f).vsp = s.vsp := rfl
@[simp] theorem State.updRec_refillAt (s : State) (g r : Nat) (f : BindRec → BindRec) : (s.updRec g r f).refillAt = s.refillAt := rfl
@[simp] theorem State.updRec_started (s : State) (g r : Nat) (f : BindRec → BindRec) : (s.updRec g r f).started = s.started := rfl
@[simp] theorem State.updRec_minimal (s : State) (g r : Nat) (f : BindRec → BindRec) : (s.updRec g r f).minimal = s.minimal := rfl
@[simp] theorem State.updRec_failedStarts (s : State) (g r : Nat) (f : BindRec → BindRec) : (s.updRec g r f).failedStarts = s.failedStarts := rfl
@[simp] theorem State.updRec_startReasons (s : State) (g r : Nat) (f : BindRec → BindRec) : (s.updRec g r f).startReasons = s.startReasons := rfl
@[simp] theorem State.updRec_full (s : State) (g r : Nat) (f : BindRec → BindRec) : (s.updRec g r f).full = s.full := rfl
@[simp] theorem State.updRec_signatures (s : State) (g r : Nat) (f : BindRec → BindRec) : (s.updRec g r f).signatures = s.signatures := rfl
@[simp] theorem State.updRec_measures (s : State) (g r : Nat) (f : BindRec → BindRec) : (s.updRec g r f).measures = s.measures := rfl

/-! ### setPage -/

@[simp] theorem State.setPage_tick (s : State) (h p : Nat) (x : Page) : (s.setPage h p x).tick = s.tick := rfl
@[simp] theorem State.setPage_turn (s : State) (h p : Nat) (x : Page) : (s.setPage h p x).turn = s.turn := rfl
@[simp] theorem State.setPage_cur (s : State) (h p : Nat) (x : Page) : (s.setPage h p x).cur = s.cur := rfl
@[simp] theorem State.setPage_uids (s : State) (h p : Nat) (x : Page) : (s.setPage h p x).uids = s.uids := rfl
@[simp] theorem State.setPage_cycle (s : State) (h p : Nat) (x : Page) : (s.setPage h p x).cycle = s.cycle := rfl
@[simp] theorem State.setPage_mem (s : State) (h p : Nat) (x : Page) : (s.setPage h p x).mem = s.mem := rfl
@[simp] theorem State.setPage_flips (s : State) (h p : Nat) (x : Page) : (s.setPage h p x).flips = s.flips := rfl
@[simp] theorem State.setPage_rewrites (s : State) (h p : Nat) (x : Page) : (s.setPage h p x).rewrites = s.rewrites := rfl
@[simp] theorem State.setPage_cells (s : State) (h p : Nat) (x : Page) : (s.setPage h p x).cells = s.cells := rfl
@[simp] theorem State.setPage_hubs (s : State) (h p : Nat) (x : Page) : (s.setPage h p x).hubs = s.hubs := rfl
@[simp] theorem State.setPage_groups (s : State) (h p : Nat) (x : Page) : (s.setPage h p x).groups = s.groups := rfl
@[simp] theorem State.setPage_bonds (s : State) (h p : Nat) (x : Page) : (s.setPage h p x).bonds = s.bonds := rfl
@[simp] theorem State.setPage_level (s : State) (h p : Nat) (x : Page) : (s.setPage h p x).level = s.level := rfl
@[simp] theorem State.setPage_pairs (s : State) (h p : Nat) (x : Page) : (s.setPage h p x).pairs = s.pairs := rfl
@[simp] theorem State.setPage_sgs (s : State) (h p : Nat) (x : Page) : (s.setPage h p x).sgs = s.sgs := rfl
@[simp] theorem State.setPage_net (s : State) (h p : Nat) (x : Page) : (s.setPage h p x).net = s.net := rfl
@[simp] theorem State.setPage_walks (s : State) (h p : Nat) (x : Page) : (s.setPage h p x).walks = s.walks := rfl
@[simp] theorem State.setPage_pageWaits (s : State) (h p : Nat) (x : Page) : (s.setPage h p x).pageWaits = s.pageWaits := rfl
@[simp] theorem State.setPage_fills (s : State) (h p : Nat) (x : Page) : (s.setPage h p x).fills = s.fills := rfl
@[simp] theorem State.setPage_forwards (s : State) (h p : Nat) (x : Page) : (s.setPage h p x).forwards = s.forwards := rfl
@[simp] theorem State.setPage_adapt (s : State) (h p : Nat) (x : Page) : (s.setPage h p x).adapt = s.adapt := rfl
@[simp] theorem State.setPage_closed (s : State) (h p : Nat) (x : Page) : (s.setPage h p x).closed = s.closed := rfl
@[simp] theorem State.setPage_muslin (s : State) (h p : Nat) (x : Page) : (s.setPage h p x).muslin = s.muslin := rfl
@[simp] theorem State.setPage_handles (s : State) (h p : Nat) (x : Page) : (s.setPage h p x).handles = s.handles := rfl
@[simp] theorem State.setPage_clearing (s : State) (h p : Nat) (x : Page) : (s.setPage h p x).clearing = s.clearing := rfl
@[simp] theorem State.setPage_parts (s : State) (h p : Nat) (x : Page) : (s.setPage h p x).parts = s.parts := rfl
@[simp] theorem State.setPage_grids (s : State) (h p : Nat) (x : Page) : (s.setPage h p x).grids = s.grids := rfl
@[simp] theorem State.setPage_images (s : State) (h p : Nat) (x : Page) : (s.setPage h p x).images = s.images := rfl
@[simp] theorem State.setPage_streams (s : State) (h p : Nat) (x : Page) : (s.setPage h p x).streams = s.streams := rfl
@[simp] theorem State.setPage_launches (s : State) (h p : Nat) (x : Page) : (s.setPage h p x).launches = s.launches := rfl
@[simp] theorem State.setPage_ports (s : State) (h p : Nat) (x : Page) : (s.setPage h p x).ports = s.ports := rfl
@[simp] theorem State.setPage_senders (s : State) (h p : Nat) (x : Page) : (s.setPage h p x).senders = s.senders := rfl
@[simp] theorem State.setPage_reductions (s : State) (h p : Nat) (x : Page) : (s.setPage h p x).reductions = s.reductions := rfl
@[simp] theorem State.setPage_redCounts (s : State) (h p : Nat) (x : Page) : (s.setPage h p x).redCounts = s.redCounts := rfl
@[simp] theorem State.setPage_coreTurns (s : State) (h p : Nat) (x : Page) : (s.setPage h p x).coreTurns = s.coreTurns := rfl
@[simp] theorem State.setPage_badBinds (s : State) (h p : Nat) (x : Page) : (s.setPage h p x).badBinds = s.badBinds := rfl
@[simp] theorem State.setPage_badHandles (s : State) (h p : Nat) (x : Page) : (s.setPage h p x).badHandles = s.badHandles := rfl
@[simp] theorem State.setPage_power (s : State) (h p : Nat) (x : Page) : (s.setPage h p x).power = s.power := rfl
@[simp] theorem State.setPage_powerReq (s : State) (h p : Nat) (x : Page) : (s.setPage h p x).powerReq = s.powerReq := rfl
@[simp] theorem State.setPage_ceil (s : State) (h p : Nat) (x : Page) : (s.setPage h p x).ceil = s.ceil := rfl
@[simp] theorem State.setPage_rate (s : State) (h p : Nat) (x : Page) : (s.setPage h p x).rate = s.rate := rfl
@[simp] theorem State.setPage_vsp (s : State) (h p : Nat) (x : Page) : (s.setPage h p x).vsp = s.vsp := rfl
@[simp] theorem State.setPage_refillAt (s : State) (h p : Nat) (x : Page) : (s.setPage h p x).refillAt = s.refillAt := rfl
@[simp] theorem State.setPage_started (s : State) (h p : Nat) (x : Page) : (s.setPage h p x).started = s.started := rfl
@[simp] theorem State.setPage_minimal (s : State) (h p : Nat) (x : Page) : (s.setPage h p x).minimal = s.minimal := rfl
@[simp] theorem State.setPage_failedStarts (s : State) (h p : Nat) (x : Page) : (s.setPage h p x).failedStarts = s.failedStarts := rfl
@[simp] theorem State.setPage_startReasons (s : State) (h p : Nat) (x : Page) : (s.setPage h p x).startReasons = s.startReasons := rfl
@[simp] theorem State.setPage_full (s : State) (h p : Nat) (x : Page) : (s.setPage h p x).full = s.full := rfl
@[simp] theorem State.setPage_signatures (s : State) (h p : Nat) (x : Page) : (s.setPage h p x).signatures = s.signatures := rfl
@[simp] theorem State.setPage_measures (s : State) (h p : Nat) (x : Page) : (s.setPage h p x).measures = s.measures := rfl

/-! ### updPart -/

@[simp] theorem State.updPart_tick (s : State) (p : Nat) (f : Part → Part) : (s.updPart p f).tick = s.tick := rfl
@[simp] theorem State.updPart_turn (s : State) (p : Nat) (f : Part → Part) : (s.updPart p f).turn = s.turn := rfl
@[simp] theorem State.updPart_cur (s : State) (p : Nat) (f : Part → Part) : (s.updPart p f).cur = s.cur := rfl
@[simp] theorem State.updPart_uids (s : State) (p : Nat) (f : Part → Part) : (s.updPart p f).uids = s.uids := rfl
@[simp] theorem State.updPart_cycle (s : State) (p : Nat) (f : Part → Part) : (s.updPart p f).cycle = s.cycle := rfl
@[simp] theorem State.updPart_mem (s : State) (p : Nat) (f : Part → Part) : (s.updPart p f).mem = s.mem := rfl
@[simp] theorem State.updPart_flips (s : State) (p : Nat) (f : Part → Part) : (s.updPart p f).flips = s.flips := rfl
@[simp] theorem State.updPart_rewrites (s : State) (p : Nat) (f : Part → Part) : (s.updPart p f).rewrites = s.rewrites := rfl
@[simp] theorem State.updPart_cells (s : State) (p : Nat) (f : Part → Part) : (s.updPart p f).cells = s.cells := rfl
@[simp] theorem State.updPart_hubs (s : State) (p : Nat) (f : Part → Part) : (s.updPart p f).hubs = s.hubs := rfl
@[simp] theorem State.updPart_groups (s : State) (p : Nat) (f : Part → Part) : (s.updPart p f).groups = s.groups := rfl
@[simp] theorem State.updPart_bonds (s : State) (p : Nat) (f : Part → Part) : (s.updPart p f).bonds = s.bonds := rfl
@[simp] theorem State.updPart_level (s : State) (p : Nat) (f : Part → Part) : (s.updPart p f).level = s.level := rfl
@[simp] theorem State.updPart_pairs (s : State) (p : Nat) (f : Part → Part) : (s.updPart p f).pairs = s.pairs := rfl
@[simp] theorem State.updPart_sgs (s : State) (p : Nat) (f : Part → Part) : (s.updPart p f).sgs = s.sgs := rfl
@[simp] theorem State.updPart_net (s : State) (p : Nat) (f : Part → Part) : (s.updPart p f).net = s.net := rfl
@[simp] theorem State.updPart_walks (s : State) (p : Nat) (f : Part → Part) : (s.updPart p f).walks = s.walks := rfl
@[simp] theorem State.updPart_pageWaits (s : State) (p : Nat) (f : Part → Part) : (s.updPart p f).pageWaits = s.pageWaits := rfl
@[simp] theorem State.updPart_fills (s : State) (p : Nat) (f : Part → Part) : (s.updPart p f).fills = s.fills := rfl
@[simp] theorem State.updPart_forwards (s : State) (p : Nat) (f : Part → Part) : (s.updPart p f).forwards = s.forwards := rfl
@[simp] theorem State.updPart_adapt (s : State) (p : Nat) (f : Part → Part) : (s.updPart p f).adapt = s.adapt := rfl
@[simp] theorem State.updPart_closed (s : State) (p : Nat) (f : Part → Part) : (s.updPart p f).closed = s.closed := rfl
@[simp] theorem State.updPart_muslin (s : State) (p : Nat) (f : Part → Part) : (s.updPart p f).muslin = s.muslin := rfl
@[simp] theorem State.updPart_handles (s : State) (p : Nat) (f : Part → Part) : (s.updPart p f).handles = s.handles := rfl
@[simp] theorem State.updPart_pages (s : State) (p : Nat) (f : Part → Part) : (s.updPart p f).pages = s.pages := rfl
@[simp] theorem State.updPart_clearing (s : State) (p : Nat) (f : Part → Part) : (s.updPart p f).clearing = s.clearing := rfl
@[simp] theorem State.updPart_grids (s : State) (p : Nat) (f : Part → Part) : (s.updPart p f).grids = s.grids := rfl
@[simp] theorem State.updPart_images (s : State) (p : Nat) (f : Part → Part) : (s.updPart p f).images = s.images := rfl
@[simp] theorem State.updPart_streams (s : State) (p : Nat) (f : Part → Part) : (s.updPart p f).streams = s.streams := rfl
@[simp] theorem State.updPart_launches (s : State) (p : Nat) (f : Part → Part) : (s.updPart p f).launches = s.launches := rfl
@[simp] theorem State.updPart_ports (s : State) (p : Nat) (f : Part → Part) : (s.updPart p f).ports = s.ports := rfl
@[simp] theorem State.updPart_senders (s : State) (p : Nat) (f : Part → Part) : (s.updPart p f).senders = s.senders := rfl
@[simp] theorem State.updPart_reductions (s : State) (p : Nat) (f : Part → Part) : (s.updPart p f).reductions = s.reductions := rfl
@[simp] theorem State.updPart_redCounts (s : State) (p : Nat) (f : Part → Part) : (s.updPart p f).redCounts = s.redCounts := rfl
@[simp] theorem State.updPart_coreTurns (s : State) (p : Nat) (f : Part → Part) : (s.updPart p f).coreTurns = s.coreTurns := rfl
@[simp] theorem State.updPart_badBinds (s : State) (p : Nat) (f : Part → Part) : (s.updPart p f).badBinds = s.badBinds := rfl
@[simp] theorem State.updPart_badHandles (s : State) (p : Nat) (f : Part → Part) : (s.updPart p f).badHandles = s.badHandles := rfl
@[simp] theorem State.updPart_power (s : State) (p : Nat) (f : Part → Part) : (s.updPart p f).power = s.power := rfl
@[simp] theorem State.updPart_powerReq (s : State) (p : Nat) (f : Part → Part) : (s.updPart p f).powerReq = s.powerReq := rfl
@[simp] theorem State.updPart_ceil (s : State) (p : Nat) (f : Part → Part) : (s.updPart p f).ceil = s.ceil := rfl
@[simp] theorem State.updPart_rate (s : State) (p : Nat) (f : Part → Part) : (s.updPart p f).rate = s.rate := rfl
@[simp] theorem State.updPart_vsp (s : State) (p : Nat) (f : Part → Part) : (s.updPart p f).vsp = s.vsp := rfl
@[simp] theorem State.updPart_refillAt (s : State) (p : Nat) (f : Part → Part) : (s.updPart p f).refillAt = s.refillAt := rfl
@[simp] theorem State.updPart_started (s : State) (p : Nat) (f : Part → Part) : (s.updPart p f).started = s.started := rfl
@[simp] theorem State.updPart_minimal (s : State) (p : Nat) (f : Part → Part) : (s.updPart p f).minimal = s.minimal := rfl
@[simp] theorem State.updPart_failedStarts (s : State) (p : Nat) (f : Part → Part) : (s.updPart p f).failedStarts = s.failedStarts := rfl
@[simp] theorem State.updPart_startReasons (s : State) (p : Nat) (f : Part → Part) : (s.updPart p f).startReasons = s.startReasons := rfl
@[simp] theorem State.updPart_full (s : State) (p : Nat) (f : Part → Part) : (s.updPart p f).full = s.full := rfl
@[simp] theorem State.updPart_signatures (s : State) (p : Nat) (f : Part → Part) : (s.updPart p f).signatures = s.signatures := rfl
@[simp] theorem State.updPart_measures (s : State) (p : Nat) (f : Part → Part) : (s.updPart p f).measures = s.measures := rfl

/-! ### updGrid -/

@[simp] theorem State.updGrid_tick (s : State) (g : Nat) (f : Grid → Grid) : (s.updGrid g f).tick = s.tick := rfl
@[simp] theorem State.updGrid_turn (s : State) (g : Nat) (f : Grid → Grid) : (s.updGrid g f).turn = s.turn := rfl
@[simp] theorem State.updGrid_cur (s : State) (g : Nat) (f : Grid → Grid) : (s.updGrid g f).cur = s.cur := rfl
@[simp] theorem State.updGrid_uids (s : State) (g : Nat) (f : Grid → Grid) : (s.updGrid g f).uids = s.uids := rfl
@[simp] theorem State.updGrid_cycle (s : State) (g : Nat) (f : Grid → Grid) : (s.updGrid g f).cycle = s.cycle := rfl
@[simp] theorem State.updGrid_mem (s : State) (g : Nat) (f : Grid → Grid) : (s.updGrid g f).mem = s.mem := rfl
@[simp] theorem State.updGrid_flips (s : State) (g : Nat) (f : Grid → Grid) : (s.updGrid g f).flips = s.flips := rfl
@[simp] theorem State.updGrid_rewrites (s : State) (g : Nat) (f : Grid → Grid) : (s.updGrid g f).rewrites = s.rewrites := rfl
@[simp] theorem State.updGrid_cells (s : State) (g : Nat) (f : Grid → Grid) : (s.updGrid g f).cells = s.cells := rfl
@[simp] theorem State.updGrid_hubs (s : State) (g : Nat) (f : Grid → Grid) : (s.updGrid g f).hubs = s.hubs := rfl
@[simp] theorem State.updGrid_groups (s : State) (g : Nat) (f : Grid → Grid) : (s.updGrid g f).groups = s.groups := rfl
@[simp] theorem State.updGrid_bonds (s : State) (g : Nat) (f : Grid → Grid) : (s.updGrid g f).bonds = s.bonds := rfl
@[simp] theorem State.updGrid_level (s : State) (g : Nat) (f : Grid → Grid) : (s.updGrid g f).level = s.level := rfl
@[simp] theorem State.updGrid_pairs (s : State) (g : Nat) (f : Grid → Grid) : (s.updGrid g f).pairs = s.pairs := rfl
@[simp] theorem State.updGrid_sgs (s : State) (g : Nat) (f : Grid → Grid) : (s.updGrid g f).sgs = s.sgs := rfl
@[simp] theorem State.updGrid_net (s : State) (g : Nat) (f : Grid → Grid) : (s.updGrid g f).net = s.net := rfl
@[simp] theorem State.updGrid_walks (s : State) (g : Nat) (f : Grid → Grid) : (s.updGrid g f).walks = s.walks := rfl
@[simp] theorem State.updGrid_pageWaits (s : State) (g : Nat) (f : Grid → Grid) : (s.updGrid g f).pageWaits = s.pageWaits := rfl
@[simp] theorem State.updGrid_fills (s : State) (g : Nat) (f : Grid → Grid) : (s.updGrid g f).fills = s.fills := rfl
@[simp] theorem State.updGrid_forwards (s : State) (g : Nat) (f : Grid → Grid) : (s.updGrid g f).forwards = s.forwards := rfl
@[simp] theorem State.updGrid_adapt (s : State) (g : Nat) (f : Grid → Grid) : (s.updGrid g f).adapt = s.adapt := rfl
@[simp] theorem State.updGrid_closed (s : State) (g : Nat) (f : Grid → Grid) : (s.updGrid g f).closed = s.closed := rfl
@[simp] theorem State.updGrid_muslin (s : State) (g : Nat) (f : Grid → Grid) : (s.updGrid g f).muslin = s.muslin := rfl
@[simp] theorem State.updGrid_handles (s : State) (g : Nat) (f : Grid → Grid) : (s.updGrid g f).handles = s.handles := rfl
@[simp] theorem State.updGrid_pages (s : State) (g : Nat) (f : Grid → Grid) : (s.updGrid g f).pages = s.pages := rfl
@[simp] theorem State.updGrid_clearing (s : State) (g : Nat) (f : Grid → Grid) : (s.updGrid g f).clearing = s.clearing := rfl
@[simp] theorem State.updGrid_parts (s : State) (g : Nat) (f : Grid → Grid) : (s.updGrid g f).parts = s.parts := rfl
@[simp] theorem State.updGrid_images (s : State) (g : Nat) (f : Grid → Grid) : (s.updGrid g f).images = s.images := rfl
@[simp] theorem State.updGrid_streams (s : State) (g : Nat) (f : Grid → Grid) : (s.updGrid g f).streams = s.streams := rfl
@[simp] theorem State.updGrid_launches (s : State) (g : Nat) (f : Grid → Grid) : (s.updGrid g f).launches = s.launches := rfl
@[simp] theorem State.updGrid_ports (s : State) (g : Nat) (f : Grid → Grid) : (s.updGrid g f).ports = s.ports := rfl
@[simp] theorem State.updGrid_senders (s : State) (g : Nat) (f : Grid → Grid) : (s.updGrid g f).senders = s.senders := rfl
@[simp] theorem State.updGrid_reductions (s : State) (g : Nat) (f : Grid → Grid) : (s.updGrid g f).reductions = s.reductions := rfl
@[simp] theorem State.updGrid_redCounts (s : State) (g : Nat) (f : Grid → Grid) : (s.updGrid g f).redCounts = s.redCounts := rfl
@[simp] theorem State.updGrid_coreTurns (s : State) (g : Nat) (f : Grid → Grid) : (s.updGrid g f).coreTurns = s.coreTurns := rfl
@[simp] theorem State.updGrid_badBinds (s : State) (g : Nat) (f : Grid → Grid) : (s.updGrid g f).badBinds = s.badBinds := rfl
@[simp] theorem State.updGrid_badHandles (s : State) (g : Nat) (f : Grid → Grid) : (s.updGrid g f).badHandles = s.badHandles := rfl
@[simp] theorem State.updGrid_power (s : State) (g : Nat) (f : Grid → Grid) : (s.updGrid g f).power = s.power := rfl
@[simp] theorem State.updGrid_powerReq (s : State) (g : Nat) (f : Grid → Grid) : (s.updGrid g f).powerReq = s.powerReq := rfl
@[simp] theorem State.updGrid_ceil (s : State) (g : Nat) (f : Grid → Grid) : (s.updGrid g f).ceil = s.ceil := rfl
@[simp] theorem State.updGrid_rate (s : State) (g : Nat) (f : Grid → Grid) : (s.updGrid g f).rate = s.rate := rfl
@[simp] theorem State.updGrid_vsp (s : State) (g : Nat) (f : Grid → Grid) : (s.updGrid g f).vsp = s.vsp := rfl
@[simp] theorem State.updGrid_refillAt (s : State) (g : Nat) (f : Grid → Grid) : (s.updGrid g f).refillAt = s.refillAt := rfl
@[simp] theorem State.updGrid_started (s : State) (g : Nat) (f : Grid → Grid) : (s.updGrid g f).started = s.started := rfl
@[simp] theorem State.updGrid_minimal (s : State) (g : Nat) (f : Grid → Grid) : (s.updGrid g f).minimal = s.minimal := rfl
@[simp] theorem State.updGrid_failedStarts (s : State) (g : Nat) (f : Grid → Grid) : (s.updGrid g f).failedStarts = s.failedStarts := rfl
@[simp] theorem State.updGrid_startReasons (s : State) (g : Nat) (f : Grid → Grid) : (s.updGrid g f).startReasons = s.startReasons := rfl
@[simp] theorem State.updGrid_full (s : State) (g : Nat) (f : Grid → Grid) : (s.updGrid g f).full = s.full := rfl
@[simp] theorem State.updGrid_signatures (s : State) (g : Nat) (f : Grid → Grid) : (s.updGrid g f).signatures = s.signatures := rfl
@[simp] theorem State.updGrid_measures (s : State) (g : Nat) (f : Grid → Grid) : (s.updGrid g f).measures = s.measures := rfl

/-! ### poke -/

@[simp] theorem State.poke_tick (s : State) (l : Loc) (bs : List Byte) : (s.poke l bs).tick = s.tick := rfl
@[simp] theorem State.poke_turn (s : State) (l : Loc) (bs : List Byte) : (s.poke l bs).turn = s.turn := rfl
@[simp] theorem State.poke_cur (s : State) (l : Loc) (bs : List Byte) : (s.poke l bs).cur = s.cur := rfl
@[simp] theorem State.poke_uids (s : State) (l : Loc) (bs : List Byte) : (s.poke l bs).uids = s.uids := rfl
@[simp] theorem State.poke_cycle (s : State) (l : Loc) (bs : List Byte) : (s.poke l bs).cycle = s.cycle := rfl
@[simp] theorem State.poke_flips (s : State) (l : Loc) (bs : List Byte) : (s.poke l bs).flips = s.flips := rfl
@[simp] theorem State.poke_rewrites (s : State) (l : Loc) (bs : List Byte) : (s.poke l bs).rewrites = s.rewrites := rfl
@[simp] theorem State.poke_cells (s : State) (l : Loc) (bs : List Byte) : (s.poke l bs).cells = s.cells := rfl
@[simp] theorem State.poke_hubs (s : State) (l : Loc) (bs : List Byte) : (s.poke l bs).hubs = s.hubs := rfl
@[simp] theorem State.poke_groups (s : State) (l : Loc) (bs : List Byte) : (s.poke l bs).groups = s.groups := rfl
@[simp] theorem State.poke_bonds (s : State) (l : Loc) (bs : List Byte) : (s.poke l bs).bonds = s.bonds := rfl
@[simp] theorem State.poke_level (s : State) (l : Loc) (bs : List Byte) : (s.poke l bs).level = s.level := rfl
@[simp] theorem State.poke_pairs (s : State) (l : Loc) (bs : List Byte) : (s.poke l bs).pairs = s.pairs := rfl
@[simp] theorem State.poke_sgs (s : State) (l : Loc) (bs : List Byte) : (s.poke l bs).sgs = s.sgs := rfl
@[simp] theorem State.poke_net (s : State) (l : Loc) (bs : List Byte) : (s.poke l bs).net = s.net := rfl
@[simp] theorem State.poke_walks (s : State) (l : Loc) (bs : List Byte) : (s.poke l bs).walks = s.walks := rfl
@[simp] theorem State.poke_pageWaits (s : State) (l : Loc) (bs : List Byte) : (s.poke l bs).pageWaits = s.pageWaits := rfl
@[simp] theorem State.poke_fills (s : State) (l : Loc) (bs : List Byte) : (s.poke l bs).fills = s.fills := rfl
@[simp] theorem State.poke_forwards (s : State) (l : Loc) (bs : List Byte) : (s.poke l bs).forwards = s.forwards := rfl
@[simp] theorem State.poke_adapt (s : State) (l : Loc) (bs : List Byte) : (s.poke l bs).adapt = s.adapt := rfl
@[simp] theorem State.poke_closed (s : State) (l : Loc) (bs : List Byte) : (s.poke l bs).closed = s.closed := rfl
@[simp] theorem State.poke_muslin (s : State) (l : Loc) (bs : List Byte) : (s.poke l bs).muslin = s.muslin := rfl
@[simp] theorem State.poke_handles (s : State) (l : Loc) (bs : List Byte) : (s.poke l bs).handles = s.handles := rfl
@[simp] theorem State.poke_pages (s : State) (l : Loc) (bs : List Byte) : (s.poke l bs).pages = s.pages := rfl
@[simp] theorem State.poke_clearing (s : State) (l : Loc) (bs : List Byte) : (s.poke l bs).clearing = s.clearing := rfl
@[simp] theorem State.poke_parts (s : State) (l : Loc) (bs : List Byte) : (s.poke l bs).parts = s.parts := rfl
@[simp] theorem State.poke_grids (s : State) (l : Loc) (bs : List Byte) : (s.poke l bs).grids = s.grids := rfl
@[simp] theorem State.poke_images (s : State) (l : Loc) (bs : List Byte) : (s.poke l bs).images = s.images := rfl
@[simp] theorem State.poke_streams (s : State) (l : Loc) (bs : List Byte) : (s.poke l bs).streams = s.streams := rfl
@[simp] theorem State.poke_launches (s : State) (l : Loc) (bs : List Byte) : (s.poke l bs).launches = s.launches := rfl
@[simp] theorem State.poke_ports (s : State) (l : Loc) (bs : List Byte) : (s.poke l bs).ports = s.ports := rfl
@[simp] theorem State.poke_senders (s : State) (l : Loc) (bs : List Byte) : (s.poke l bs).senders = s.senders := rfl
@[simp] theorem State.poke_reductions (s : State) (l : Loc) (bs : List Byte) : (s.poke l bs).reductions = s.reductions := rfl
@[simp] theorem State.poke_redCounts (s : State) (l : Loc) (bs : List Byte) : (s.poke l bs).redCounts = s.redCounts := rfl
@[simp] theorem State.poke_coreTurns (s : State) (l : Loc) (bs : List Byte) : (s.poke l bs).coreTurns = s.coreTurns := rfl
@[simp] theorem State.poke_badBinds (s : State) (l : Loc) (bs : List Byte) : (s.poke l bs).badBinds = s.badBinds := rfl
@[simp] theorem State.poke_badHandles (s : State) (l : Loc) (bs : List Byte) : (s.poke l bs).badHandles = s.badHandles := rfl
@[simp] theorem State.poke_power (s : State) (l : Loc) (bs : List Byte) : (s.poke l bs).power = s.power := rfl
@[simp] theorem State.poke_powerReq (s : State) (l : Loc) (bs : List Byte) : (s.poke l bs).powerReq = s.powerReq := rfl
@[simp] theorem State.poke_ceil (s : State) (l : Loc) (bs : List Byte) : (s.poke l bs).ceil = s.ceil := rfl
@[simp] theorem State.poke_rate (s : State) (l : Loc) (bs : List Byte) : (s.poke l bs).rate = s.rate := rfl
@[simp] theorem State.poke_vsp (s : State) (l : Loc) (bs : List Byte) : (s.poke l bs).vsp = s.vsp := rfl
@[simp] theorem State.poke_refillAt (s : State) (l : Loc) (bs : List Byte) : (s.poke l bs).refillAt = s.refillAt := rfl
@[simp] theorem State.poke_started (s : State) (l : Loc) (bs : List Byte) : (s.poke l bs).started = s.started := rfl
@[simp] theorem State.poke_minimal (s : State) (l : Loc) (bs : List Byte) : (s.poke l bs).minimal = s.minimal := rfl
@[simp] theorem State.poke_failedStarts (s : State) (l : Loc) (bs : List Byte) : (s.poke l bs).failedStarts = s.failedStarts := rfl
@[simp] theorem State.poke_startReasons (s : State) (l : Loc) (bs : List Byte) : (s.poke l bs).startReasons = s.startReasons := rfl
@[simp] theorem State.poke_full (s : State) (l : Loc) (bs : List Byte) : (s.poke l bs).full = s.full := rfl
@[simp] theorem State.poke_signatures (s : State) (l : Loc) (bs : List Byte) : (s.poke l bs).signatures = s.signatures := rfl
@[simp] theorem State.poke_measures (s : State) (l : Loc) (bs : List Byte) : (s.poke l bs).measures = s.measures := rfl

/-! ### retire -/

@[simp] theorem Strand.retire_uid (t : Strand) (n : Nat) : (t.retire n).uid = t.uid := rfl
@[simp] theorem Strand.retire_words (t : Strand) (n : Nat) : (t.retire n).words = t.words := rfl
@[simp] theorem Strand.retire_marker (t : Strand) (n : Nat) : (t.retire n).marker = t.marker := rfl
@[simp] theorem Strand.retire_ra (t : Strand) (n : Nat) : (t.retire n).ra = t.ra := rfl
@[simp] theorem Strand.retire_rl (t : Strand) (n : Nat) : (t.retire n).rl = t.rl := rfl
@[simp] theorem Strand.retire_rn (t : Strand) (n : Nat) : (t.retire n).rn = t.rn := rfl
@[simp] theorem Strand.retire_lower (t : Strand) (n : Nat) : (t.retire n).lower = t.lower := rfl
@[simp] theorem Strand.retire_sa (t : Strand) (n : Nat) : (t.retire n).sa = t.sa := rfl
@[simp] theorem Strand.retire_sl (t : Strand) (n : Nat) : (t.retire n).sl = t.sl := rfl
@[simp] theorem Strand.retire_sn (t : Strand) (n : Nat) : (t.retire n).sn = t.sn := rfl
@[simp] theorem Strand.retire_sp (t : Strand) (n : Nat) : (t.retire n).sp = t.sp := rfl
@[simp] theorem Strand.retire_v (t : Strand) (n : Nat) : (t.retire n).v = t.v := rfl
@[simp] theorem Strand.retire_k (t : Strand) (n : Nat) : (t.retire n).k = t.k := rfl
@[simp] theorem Strand.retire_pend (t : Strand) (n : Nat) : (t.retire n).pend = t.pend := rfl
@[simp] theorem Strand.retire_sup (t : Strand) (n : Nat) : (t.retire n).sup = t.sup := rfl
@[simp] theorem Strand.retire_psup (t : Strand) (n : Nat) : (t.retire n).psup = t.psup := rfl
@[simp] theorem Strand.retire_sstep (t : Strand) (n : Nat) : (t.retire n).sstep = t.sstep := rfl
@[simp] theorem Strand.retire_psstep (t : Strand) (n : Nat) : (t.retire n).psstep = t.psstep := rfl
@[simp] theorem Strand.retire_dcls (t : Strand) (n : Nat) : (t.retire n).dcls = t.dcls := rfl
@[simp] theorem Strand.retire_lock (t : Strand) (n : Nat) : (t.retire n).lock = t.lock := rfl
@[simp] theorem Strand.retire_wspill (t : Strand) (n : Nat) : (t.retire n).wspill = t.wspill := rfl
@[simp] theorem Strand.retire_epc (t : Strand) (n : Nat) : (t.retire n).epc = t.epc := rfl
@[simp] theorem Strand.retire_ecause (t : Strand) (n : Nat) : (t.retire n).ecause = t.ecause := rfl
@[simp] theorem Strand.retire_eval (t : Strand) (n : Nat) : (t.retire n).eval = t.eval := rfl
@[simp] theorem Strand.retire_ehseq (t : Strand) (n : Nat) : (t.retire n).ehseq = t.ehseq := rfl
@[simp] theorem Strand.retire_tvec (t : Strand) (n : Nat) : (t.retire n).tvec = t.tvec := rfl
@[simp] theorem Strand.retire_fmode (t : Strand) (n : Nat) : (t.retire n).fmode = t.fmode := rfl
@[simp] theorem Strand.retire_rmode (t : Strand) (n : Nat) : (t.retire n).rmode = t.rmode := rfl
@[simp] theorem Strand.retire_seed (t : Strand) (n : Nat) : (t.retire n).seed = t.seed := rfl
@[simp] theorem Strand.retire_tsm (t : Strand) (n : Nat) : (t.retire n).tsm = t.tsm := rfl
@[simp] theorem Strand.retire_progIndex (t : Strand) (n : Nat) : (t.retire n).progIndex = t.progIndex := rfl
@[simp] theorem Strand.retire_progValid (t : Strand) (n : Nat) : (t.retire n).progValid = t.progValid := rfl
@[simp] theorem Strand.retire_clsmask (t : Strand) (n : Nat) : (t.retire n).clsmask = t.clsmask := rfl
@[simp] theorem Strand.retire_chainCell (t : Strand) (n : Nat) : (t.retire n).chainCell = t.chainCell := rfl
@[simp] theorem Strand.retire_chainEn (t : Strand) (n : Nat) : (t.retire n).chainEn = t.chainEn := rfl
@[simp] theorem Strand.retire_stealdom (t : Strand) (n : Nat) : (t.retire n).stealdom = t.stealdom := rfl
@[simp] theorem Strand.retire_mstra (t : Strand) (n : Nat) : (t.retire n).mstra = t.mstra := rfl
@[simp] theorem Strand.retire_mstrb (t : Strand) (n : Nat) : (t.retire n).mstrb = t.mstrb := rfl
@[simp] theorem Strand.retire_tau (t : Strand) (n : Nat) : (t.retire n).tau = t.tau := rfl
@[simp] theorem Strand.retire_theta (t : Strand) (n : Nat) : (t.retire n).theta = t.theta := rfl
@[simp] theorem Strand.retire_cmin (t : Strand) (n : Nat) : (t.retire n).cmin = t.cmin := rfl
@[simp] theorem Strand.retire_tmode (t : Strand) (n : Nat) : (t.retire n).tmode = t.tmode := rfl
@[simp] theorem Strand.retire_splh (t : Strand) (n : Nat) : (t.retire n).splh = t.splh := rfl
@[simp] theorem Strand.retire_seqCtr (t : Strand) (n : Nat) : (t.retire n).seqCtr = t.seqCtr := rfl
@[simp] theorem Strand.retire_marks (t : Strand) (n : Nat) : (t.retire n).marks = t.marks := rfl
@[simp] theorem Strand.retire_sidx (t : Strand) (n : Nat) : (t.retire n).sidx = t.sidx := rfl
@[simp] theorem Strand.retire_child (t : Strand) (n : Nat) : (t.retire n).child = t.child := rfl
@[simp] theorem Strand.retire_team (t : Strand) (n : Nat) : (t.retire n).team = t.team := rfl
@[simp] theorem Strand.retire_join (t : Strand) (n : Nat) : (t.retire n).join = t.join := rfl
@[simp] theorem Strand.retire_spawnCell (t : Strand) (n : Nat) : (t.retire n).spawnCell = t.spawnCell := rfl
@[simp] theorem Strand.retire_late (t : Strand) (n : Nat) : (t.retire n).late = t.late := rfl
@[simp] theorem Strand.retire_woken (t : Strand) (n : Nat) : (t.retire n).woken = t.woken := rfl
@[simp] theorem Strand.retire_lastIssue (t : Strand) (n : Nat) : (t.retire n).lastIssue = t.lastIssue := rfl
@[simp] theorem Strand.retire_mcls (t : Strand) (n : Nat) : (t.retire n).mcls = t.mcls := rfl
@[simp] theorem Strand.retire_acqs (t : Strand) (n : Nat) : (t.retire n).acqs = t.acqs := rfl
@[simp] theorem Strand.retire_ready (t : Strand) (n : Nat) : (t.retire n).ready = t.ready := rfl
@[simp] theorem Strand.retire_hold (t : Strand) (n : Nat) : (t.retire n).hold = t.hold := rfl

/-! ### enterTrap -/

@[simp] theorem Strand.enterTrap_uid (t : Strand) (c : Cause) (b : Bool) (p v : Word) (e : BitVec 18) : (t.enterTrap c b p v e).uid = t.uid := rfl
@[simp] theorem Strand.enterTrap_words (t : Strand) (c : Cause) (b : Bool) (p v : Word) (e : BitVec 18) : (t.enterTrap c b p v e).words = t.words := rfl
@[simp] theorem Strand.enterTrap_marker (t : Strand) (c : Cause) (b : Bool) (p v : Word) (e : BitVec 18) : (t.enterTrap c b p v e).marker = t.marker := rfl
@[simp] theorem Strand.enterTrap_ra (t : Strand) (c : Cause) (b : Bool) (p v : Word) (e : BitVec 18) : (t.enterTrap c b p v e).ra = t.ra := rfl
@[simp] theorem Strand.enterTrap_rl (t : Strand) (c : Cause) (b : Bool) (p v : Word) (e : BitVec 18) : (t.enterTrap c b p v e).rl = t.rl := rfl
@[simp] theorem Strand.enterTrap_rn (t : Strand) (c : Cause) (b : Bool) (p v : Word) (e : BitVec 18) : (t.enterTrap c b p v e).rn = t.rn := rfl
@[simp] theorem Strand.enterTrap_lower (t : Strand) (c : Cause) (b : Bool) (p v : Word) (e : BitVec 18) : (t.enterTrap c b p v e).lower = t.lower := rfl
@[simp] theorem Strand.enterTrap_sp (t : Strand) (c : Cause) (b : Bool) (p v : Word) (e : BitVec 18) : (t.enterTrap c b p v e).sp = t.sp := rfl
@[simp] theorem Strand.enterTrap_v (t : Strand) (c : Cause) (b : Bool) (p v : Word) (e : BitVec 18) : (t.enterTrap c b p v e).v = t.v := rfl
@[simp] theorem Strand.enterTrap_k (t : Strand) (c : Cause) (b : Bool) (p v : Word) (e : BitVec 18) : (t.enterTrap c b p v e).k = t.k := rfl
@[simp] theorem Strand.enterTrap_pend (t : Strand) (c : Cause) (b : Bool) (p v : Word) (e : BitVec 18) : (t.enterTrap c b p v e).pend = t.pend := rfl
@[simp] theorem Strand.enterTrap_dcls (t : Strand) (c : Cause) (b : Bool) (p v : Word) (e : BitVec 18) : (t.enterTrap c b p v e).dcls = t.dcls := rfl
@[simp] theorem Strand.enterTrap_lock (t : Strand) (c : Cause) (b : Bool) (p v : Word) (e : BitVec 18) : (t.enterTrap c b p v e).lock = t.lock := rfl
@[simp] theorem Strand.enterTrap_wspill (t : Strand) (c : Cause) (b : Bool) (p v : Word) (e : BitVec 18) : (t.enterTrap c b p v e).wspill = t.wspill := rfl
@[simp] theorem Strand.enterTrap_tvec (t : Strand) (c : Cause) (b : Bool) (p v : Word) (e : BitVec 18) : (t.enterTrap c b p v e).tvec = t.tvec := rfl
@[simp] theorem Strand.enterTrap_fmode (t : Strand) (c : Cause) (b : Bool) (p v : Word) (e : BitVec 18) : (t.enterTrap c b p v e).fmode = t.fmode := rfl
@[simp] theorem Strand.enterTrap_rmode (t : Strand) (c : Cause) (b : Bool) (p v : Word) (e : BitVec 18) : (t.enterTrap c b p v e).rmode = t.rmode := rfl
@[simp] theorem Strand.enterTrap_seed (t : Strand) (c : Cause) (b : Bool) (p v : Word) (e : BitVec 18) : (t.enterTrap c b p v e).seed = t.seed := rfl
@[simp] theorem Strand.enterTrap_tsm (t : Strand) (c : Cause) (b : Bool) (p v : Word) (e : BitVec 18) : (t.enterTrap c b p v e).tsm = t.tsm := rfl
@[simp] theorem Strand.enterTrap_progIndex (t : Strand) (c : Cause) (b : Bool) (p v : Word) (e : BitVec 18) : (t.enterTrap c b p v e).progIndex = t.progIndex := rfl
@[simp] theorem Strand.enterTrap_progValid (t : Strand) (c : Cause) (b : Bool) (p v : Word) (e : BitVec 18) : (t.enterTrap c b p v e).progValid = t.progValid := rfl
@[simp] theorem Strand.enterTrap_clsmask (t : Strand) (c : Cause) (b : Bool) (p v : Word) (e : BitVec 18) : (t.enterTrap c b p v e).clsmask = t.clsmask := rfl
@[simp] theorem Strand.enterTrap_chainCell (t : Strand) (c : Cause) (b : Bool) (p v : Word) (e : BitVec 18) : (t.enterTrap c b p v e).chainCell = t.chainCell := rfl
@[simp] theorem Strand.enterTrap_chainEn (t : Strand) (c : Cause) (b : Bool) (p v : Word) (e : BitVec 18) : (t.enterTrap c b p v e).chainEn = t.chainEn := rfl
@[simp] theorem Strand.enterTrap_stealdom (t : Strand) (c : Cause) (b : Bool) (p v : Word) (e : BitVec 18) : (t.enterTrap c b p v e).stealdom = t.stealdom := rfl
@[simp] theorem Strand.enterTrap_mstra (t : Strand) (c : Cause) (b : Bool) (p v : Word) (e : BitVec 18) : (t.enterTrap c b p v e).mstra = t.mstra := rfl
@[simp] theorem Strand.enterTrap_mstrb (t : Strand) (c : Cause) (b : Bool) (p v : Word) (e : BitVec 18) : (t.enterTrap c b p v e).mstrb = t.mstrb := rfl
@[simp] theorem Strand.enterTrap_tau (t : Strand) (c : Cause) (b : Bool) (p v : Word) (e : BitVec 18) : (t.enterTrap c b p v e).tau = t.tau := rfl
@[simp] theorem Strand.enterTrap_theta (t : Strand) (c : Cause) (b : Bool) (p v : Word) (e : BitVec 18) : (t.enterTrap c b p v e).theta = t.theta := rfl
@[simp] theorem Strand.enterTrap_cmin (t : Strand) (c : Cause) (b : Bool) (p v : Word) (e : BitVec 18) : (t.enterTrap c b p v e).cmin = t.cmin := rfl
@[simp] theorem Strand.enterTrap_tmode (t : Strand) (c : Cause) (b : Bool) (p v : Word) (e : BitVec 18) : (t.enterTrap c b p v e).tmode = t.tmode := rfl
@[simp] theorem Strand.enterTrap_instret (t : Strand) (c : Cause) (b : Bool) (p v : Word) (e : BitVec 18) : (t.enterTrap c b p v e).instret = t.instret := rfl
@[simp] theorem Strand.enterTrap_splh (t : Strand) (c : Cause) (b : Bool) (p v : Word) (e : BitVec 18) : (t.enterTrap c b p v e).splh = t.splh := rfl
@[simp] theorem Strand.enterTrap_seqCtr (t : Strand) (c : Cause) (b : Bool) (p v : Word) (e : BitVec 18) : (t.enterTrap c b p v e).seqCtr = t.seqCtr := rfl
@[simp] theorem Strand.enterTrap_marks (t : Strand) (c : Cause) (b : Bool) (p v : Word) (e : BitVec 18) : (t.enterTrap c b p v e).marks = t.marks := rfl
@[simp] theorem Strand.enterTrap_sidx (t : Strand) (c : Cause) (b : Bool) (p v : Word) (e : BitVec 18) : (t.enterTrap c b p v e).sidx = t.sidx := rfl
@[simp] theorem Strand.enterTrap_child (t : Strand) (c : Cause) (b : Bool) (p v : Word) (e : BitVec 18) : (t.enterTrap c b p v e).child = t.child := rfl
@[simp] theorem Strand.enterTrap_team (t : Strand) (c : Cause) (b : Bool) (p v : Word) (e : BitVec 18) : (t.enterTrap c b p v e).team = t.team := rfl
@[simp] theorem Strand.enterTrap_join (t : Strand) (c : Cause) (b : Bool) (p v : Word) (e : BitVec 18) : (t.enterTrap c b p v e).join = t.join := rfl
@[simp] theorem Strand.enterTrap_spawnCell (t : Strand) (c : Cause) (b : Bool) (p v : Word) (e : BitVec 18) : (t.enterTrap c b p v e).spawnCell = t.spawnCell := rfl
@[simp] theorem Strand.enterTrap_late (t : Strand) (c : Cause) (b : Bool) (p v : Word) (e : BitVec 18) : (t.enterTrap c b p v e).late = t.late := rfl
@[simp] theorem Strand.enterTrap_woken (t : Strand) (c : Cause) (b : Bool) (p v : Word) (e : BitVec 18) : (t.enterTrap c b p v e).woken = t.woken := rfl
@[simp] theorem Strand.enterTrap_lastIssue (t : Strand) (c : Cause) (b : Bool) (p v : Word) (e : BitVec 18) : (t.enterTrap c b p v e).lastIssue = t.lastIssue := rfl
@[simp] theorem Strand.enterTrap_mcls (t : Strand) (c : Cause) (b : Bool) (p v : Word) (e : BitVec 18) : (t.enterTrap c b p v e).mcls = t.mcls := rfl
@[simp] theorem Strand.enterTrap_acqs (t : Strand) (c : Cause) (b : Bool) (p v : Word) (e : BitVec 18) : (t.enterTrap c b p v e).acqs = t.acqs := rfl
@[simp] theorem Strand.enterTrap_ready (t : Strand) (c : Cause) (b : Bool) (p v : Word) (e : BitVec 18) : (t.enterTrap c b p v e).ready = t.ready := rfl
@[simp] theorem Strand.enterTrap_hold (t : Strand) (c : Cause) (b : Bool) (p v : Word) (e : BitVec 18) : (t.enterTrap c b p v e).hold = t.hold := rfl

/-! ### leaveTrap -/

@[simp] theorem Strand.leaveTrap_status (t : Strand) : (t.leaveTrap).status = t.status := rfl
@[simp] theorem Strand.leaveTrap_uid (t : Strand) : (t.leaveTrap).uid = t.uid := rfl
@[simp] theorem Strand.leaveTrap_words (t : Strand) : (t.leaveTrap).words = t.words := rfl
@[simp] theorem Strand.leaveTrap_marker (t : Strand) : (t.leaveTrap).marker = t.marker := rfl
@[simp] theorem Strand.leaveTrap_ra (t : Strand) : (t.leaveTrap).ra = t.ra := rfl
@[simp] theorem Strand.leaveTrap_rl (t : Strand) : (t.leaveTrap).rl = t.rl := rfl
@[simp] theorem Strand.leaveTrap_rn (t : Strand) : (t.leaveTrap).rn = t.rn := rfl
@[simp] theorem Strand.leaveTrap_lower (t : Strand) : (t.leaveTrap).lower = t.lower := rfl
@[simp] theorem Strand.leaveTrap_sa (t : Strand) : (t.leaveTrap).sa = t.sa := rfl
@[simp] theorem Strand.leaveTrap_sl (t : Strand) : (t.leaveTrap).sl = t.sl := rfl
@[simp] theorem Strand.leaveTrap_sn (t : Strand) : (t.leaveTrap).sn = t.sn := rfl
@[simp] theorem Strand.leaveTrap_sp (t : Strand) : (t.leaveTrap).sp = t.sp := rfl
@[simp] theorem Strand.leaveTrap_v (t : Strand) : (t.leaveTrap).v = t.v := rfl
@[simp] theorem Strand.leaveTrap_k (t : Strand) : (t.leaveTrap).k = t.k := rfl
@[simp] theorem Strand.leaveTrap_pend (t : Strand) : (t.leaveTrap).pend = t.pend := rfl
@[simp] theorem Strand.leaveTrap_psup (t : Strand) : (t.leaveTrap).psup = t.psup := rfl
@[simp] theorem Strand.leaveTrap_psstep (t : Strand) : (t.leaveTrap).psstep = t.psstep := rfl
@[simp] theorem Strand.leaveTrap_dcls (t : Strand) : (t.leaveTrap).dcls = t.dcls := rfl
@[simp] theorem Strand.leaveTrap_lock (t : Strand) : (t.leaveTrap).lock = t.lock := rfl
@[simp] theorem Strand.leaveTrap_wspill (t : Strand) : (t.leaveTrap).wspill = t.wspill := rfl
@[simp] theorem Strand.leaveTrap_epc (t : Strand) : (t.leaveTrap).epc = t.epc := rfl
@[simp] theorem Strand.leaveTrap_ecause (t : Strand) : (t.leaveTrap).ecause = t.ecause := rfl
@[simp] theorem Strand.leaveTrap_eval (t : Strand) : (t.leaveTrap).eval = t.eval := rfl
@[simp] theorem Strand.leaveTrap_ehseq (t : Strand) : (t.leaveTrap).ehseq = t.ehseq := rfl
@[simp] theorem Strand.leaveTrap_tvec (t : Strand) : (t.leaveTrap).tvec = t.tvec := rfl
@[simp] theorem Strand.leaveTrap_fmode (t : Strand) : (t.leaveTrap).fmode = t.fmode := rfl
@[simp] theorem Strand.leaveTrap_rmode (t : Strand) : (t.leaveTrap).rmode = t.rmode := rfl
@[simp] theorem Strand.leaveTrap_seed (t : Strand) : (t.leaveTrap).seed = t.seed := rfl
@[simp] theorem Strand.leaveTrap_tsm (t : Strand) : (t.leaveTrap).tsm = t.tsm := rfl
@[simp] theorem Strand.leaveTrap_progIndex (t : Strand) : (t.leaveTrap).progIndex = t.progIndex := rfl
@[simp] theorem Strand.leaveTrap_progValid (t : Strand) : (t.leaveTrap).progValid = t.progValid := rfl
@[simp] theorem Strand.leaveTrap_clsmask (t : Strand) : (t.leaveTrap).clsmask = t.clsmask := rfl
@[simp] theorem Strand.leaveTrap_chainCell (t : Strand) : (t.leaveTrap).chainCell = t.chainCell := rfl
@[simp] theorem Strand.leaveTrap_chainEn (t : Strand) : (t.leaveTrap).chainEn = t.chainEn := rfl
@[simp] theorem Strand.leaveTrap_stealdom (t : Strand) : (t.leaveTrap).stealdom = t.stealdom := rfl
@[simp] theorem Strand.leaveTrap_mstra (t : Strand) : (t.leaveTrap).mstra = t.mstra := rfl
@[simp] theorem Strand.leaveTrap_mstrb (t : Strand) : (t.leaveTrap).mstrb = t.mstrb := rfl
@[simp] theorem Strand.leaveTrap_tau (t : Strand) : (t.leaveTrap).tau = t.tau := rfl
@[simp] theorem Strand.leaveTrap_theta (t : Strand) : (t.leaveTrap).theta = t.theta := rfl
@[simp] theorem Strand.leaveTrap_cmin (t : Strand) : (t.leaveTrap).cmin = t.cmin := rfl
@[simp] theorem Strand.leaveTrap_tmode (t : Strand) : (t.leaveTrap).tmode = t.tmode := rfl
@[simp] theorem Strand.leaveTrap_instret (t : Strand) : (t.leaveTrap).instret = t.instret := rfl
@[simp] theorem Strand.leaveTrap_splh (t : Strand) : (t.leaveTrap).splh = t.splh := rfl
@[simp] theorem Strand.leaveTrap_seqCtr (t : Strand) : (t.leaveTrap).seqCtr = t.seqCtr := rfl
@[simp] theorem Strand.leaveTrap_marks (t : Strand) : (t.leaveTrap).marks = t.marks := rfl
@[simp] theorem Strand.leaveTrap_sidx (t : Strand) : (t.leaveTrap).sidx = t.sidx := rfl
@[simp] theorem Strand.leaveTrap_child (t : Strand) : (t.leaveTrap).child = t.child := rfl
@[simp] theorem Strand.leaveTrap_team (t : Strand) : (t.leaveTrap).team = t.team := rfl
@[simp] theorem Strand.leaveTrap_join (t : Strand) : (t.leaveTrap).join = t.join := rfl
@[simp] theorem Strand.leaveTrap_spawnCell (t : Strand) : (t.leaveTrap).spawnCell = t.spawnCell := rfl
@[simp] theorem Strand.leaveTrap_late (t : Strand) : (t.leaveTrap).late = t.late := rfl
@[simp] theorem Strand.leaveTrap_woken (t : Strand) : (t.leaveTrap).woken = t.woken := rfl
@[simp] theorem Strand.leaveTrap_lastIssue (t : Strand) : (t.leaveTrap).lastIssue = t.lastIssue := rfl
@[simp] theorem Strand.leaveTrap_mcls (t : Strand) : (t.leaveTrap).mcls = t.mcls := rfl
@[simp] theorem Strand.leaveTrap_acqs (t : Strand) : (t.leaveTrap).acqs = t.acqs := rfl
@[simp] theorem Strand.leaveTrap_ready (t : Strand) : (t.leaveTrap).ready = t.ready := rfl
@[simp] theorem Strand.leaveTrap_hold (t : Strand) : (t.leaveTrap).hold = t.hold := rfl

/-! ### clearTsm -/

@[simp] theorem Strand.clearTsm_status (t : Strand) (m : BitVec 51) : (t.clearTsm m).status = t.status := rfl
@[simp] theorem Strand.clearTsm_uid (t : Strand) (m : BitVec 51) : (t.clearTsm m).uid = t.uid := rfl
@[simp] theorem Strand.clearTsm_pc (t : Strand) (m : BitVec 51) : (t.clearTsm m).pc = t.pc := rfl
@[simp] theorem Strand.clearTsm_words (t : Strand) (m : BitVec 51) : (t.clearTsm m).words = t.words := rfl
@[simp] theorem Strand.clearTsm_marker (t : Strand) (m : BitVec 51) : (t.clearTsm m).marker = t.marker := rfl
@[simp] theorem Strand.clearTsm_ra (t : Strand) (m : BitVec 51) : (t.clearTsm m).ra = t.ra := rfl
@[simp] theorem Strand.clearTsm_rl (t : Strand) (m : BitVec 51) : (t.clearTsm m).rl = t.rl := rfl
@[simp] theorem Strand.clearTsm_rn (t : Strand) (m : BitVec 51) : (t.clearTsm m).rn = t.rn := rfl
@[simp] theorem Strand.clearTsm_lower (t : Strand) (m : BitVec 51) : (t.clearTsm m).lower = t.lower := rfl
@[simp] theorem Strand.clearTsm_sa (t : Strand) (m : BitVec 51) : (t.clearTsm m).sa = t.sa := rfl
@[simp] theorem Strand.clearTsm_sl (t : Strand) (m : BitVec 51) : (t.clearTsm m).sl = t.sl := rfl
@[simp] theorem Strand.clearTsm_sn (t : Strand) (m : BitVec 51) : (t.clearTsm m).sn = t.sn := rfl
@[simp] theorem Strand.clearTsm_sp (t : Strand) (m : BitVec 51) : (t.clearTsm m).sp = t.sp := rfl
@[simp] theorem Strand.clearTsm_v (t : Strand) (m : BitVec 51) : (t.clearTsm m).v = t.v := rfl
@[simp] theorem Strand.clearTsm_k (t : Strand) (m : BitVec 51) : (t.clearTsm m).k = t.k := rfl
@[simp] theorem Strand.clearTsm_pend (t : Strand) (m : BitVec 51) : (t.clearTsm m).pend = t.pend := rfl
@[simp] theorem Strand.clearTsm_sup (t : Strand) (m : BitVec 51) : (t.clearTsm m).sup = t.sup := rfl
@[simp] theorem Strand.clearTsm_psup (t : Strand) (m : BitVec 51) : (t.clearTsm m).psup = t.psup := rfl
@[simp] theorem Strand.clearTsm_sstep (t : Strand) (m : BitVec 51) : (t.clearTsm m).sstep = t.sstep := rfl
@[simp] theorem Strand.clearTsm_psstep (t : Strand) (m : BitVec 51) : (t.clearTsm m).psstep = t.psstep := rfl
@[simp] theorem Strand.clearTsm_dcls (t : Strand) (m : BitVec 51) : (t.clearTsm m).dcls = t.dcls := rfl
@[simp] theorem Strand.clearTsm_lock (t : Strand) (m : BitVec 51) : (t.clearTsm m).lock = t.lock := rfl
@[simp] theorem Strand.clearTsm_wspill (t : Strand) (m : BitVec 51) : (t.clearTsm m).wspill = t.wspill := rfl
@[simp] theorem Strand.clearTsm_epc (t : Strand) (m : BitVec 51) : (t.clearTsm m).epc = t.epc := rfl
@[simp] theorem Strand.clearTsm_ecause (t : Strand) (m : BitVec 51) : (t.clearTsm m).ecause = t.ecause := rfl
@[simp] theorem Strand.clearTsm_eval (t : Strand) (m : BitVec 51) : (t.clearTsm m).eval = t.eval := rfl
@[simp] theorem Strand.clearTsm_ehseq (t : Strand) (m : BitVec 51) : (t.clearTsm m).ehseq = t.ehseq := rfl
@[simp] theorem Strand.clearTsm_tvec (t : Strand) (m : BitVec 51) : (t.clearTsm m).tvec = t.tvec := rfl
@[simp] theorem Strand.clearTsm_fmode (t : Strand) (m : BitVec 51) : (t.clearTsm m).fmode = t.fmode := rfl
@[simp] theorem Strand.clearTsm_rmode (t : Strand) (m : BitVec 51) : (t.clearTsm m).rmode = t.rmode := rfl
@[simp] theorem Strand.clearTsm_seed (t : Strand) (m : BitVec 51) : (t.clearTsm m).seed = t.seed := rfl
@[simp] theorem Strand.clearTsm_progIndex (t : Strand) (m : BitVec 51) : (t.clearTsm m).progIndex = t.progIndex := rfl
@[simp] theorem Strand.clearTsm_progValid (t : Strand) (m : BitVec 51) : (t.clearTsm m).progValid = t.progValid := rfl
@[simp] theorem Strand.clearTsm_clsmask (t : Strand) (m : BitVec 51) : (t.clearTsm m).clsmask = t.clsmask := rfl
@[simp] theorem Strand.clearTsm_chainCell (t : Strand) (m : BitVec 51) : (t.clearTsm m).chainCell = t.chainCell := rfl
@[simp] theorem Strand.clearTsm_chainEn (t : Strand) (m : BitVec 51) : (t.clearTsm m).chainEn = t.chainEn := rfl
@[simp] theorem Strand.clearTsm_stealdom (t : Strand) (m : BitVec 51) : (t.clearTsm m).stealdom = t.stealdom := rfl
@[simp] theorem Strand.clearTsm_mstra (t : Strand) (m : BitVec 51) : (t.clearTsm m).mstra = t.mstra := rfl
@[simp] theorem Strand.clearTsm_mstrb (t : Strand) (m : BitVec 51) : (t.clearTsm m).mstrb = t.mstrb := rfl
@[simp] theorem Strand.clearTsm_tau (t : Strand) (m : BitVec 51) : (t.clearTsm m).tau = t.tau := rfl
@[simp] theorem Strand.clearTsm_theta (t : Strand) (m : BitVec 51) : (t.clearTsm m).theta = t.theta := rfl
@[simp] theorem Strand.clearTsm_cmin (t : Strand) (m : BitVec 51) : (t.clearTsm m).cmin = t.cmin := rfl
@[simp] theorem Strand.clearTsm_tmode (t : Strand) (m : BitVec 51) : (t.clearTsm m).tmode = t.tmode := rfl
@[simp] theorem Strand.clearTsm_instret (t : Strand) (m : BitVec 51) : (t.clearTsm m).instret = t.instret := rfl
@[simp] theorem Strand.clearTsm_splh (t : Strand) (m : BitVec 51) : (t.clearTsm m).splh = t.splh := rfl
@[simp] theorem Strand.clearTsm_seqCtr (t : Strand) (m : BitVec 51) : (t.clearTsm m).seqCtr = t.seqCtr := rfl
@[simp] theorem Strand.clearTsm_marks (t : Strand) (m : BitVec 51) : (t.clearTsm m).marks = t.marks := rfl
@[simp] theorem Strand.clearTsm_sidx (t : Strand) (m : BitVec 51) : (t.clearTsm m).sidx = t.sidx := rfl
@[simp] theorem Strand.clearTsm_child (t : Strand) (m : BitVec 51) : (t.clearTsm m).child = t.child := rfl
@[simp] theorem Strand.clearTsm_team (t : Strand) (m : BitVec 51) : (t.clearTsm m).team = t.team := rfl
@[simp] theorem Strand.clearTsm_join (t : Strand) (m : BitVec 51) : (t.clearTsm m).join = t.join := rfl
@[simp] theorem Strand.clearTsm_spawnCell (t : Strand) (m : BitVec 51) : (t.clearTsm m).spawnCell = t.spawnCell := rfl
@[simp] theorem Strand.clearTsm_late (t : Strand) (m : BitVec 51) : (t.clearTsm m).late = t.late := rfl
@[simp] theorem Strand.clearTsm_stepDue (t : Strand) (m : BitVec 51) : (t.clearTsm m).stepDue = t.stepDue := rfl
@[simp] theorem Strand.clearTsm_woken (t : Strand) (m : BitVec 51) : (t.clearTsm m).woken = t.woken := rfl
@[simp] theorem Strand.clearTsm_lastIssue (t : Strand) (m : BitVec 51) : (t.clearTsm m).lastIssue = t.lastIssue := rfl
@[simp] theorem Strand.clearTsm_mcls (t : Strand) (m : BitVec 51) : (t.clearTsm m).mcls = t.mcls := rfl
@[simp] theorem Strand.clearTsm_acqs (t : Strand) (m : BitVec 51) : (t.clearTsm m).acqs = t.acqs := rfl
@[simp] theorem Strand.clearTsm_ready (t : Strand) (m : BitVec 51) : (t.clearTsm m).ready = t.ready := rfl
@[simp] theorem Strand.clearTsm_hold (t : Strand) (m : BitVec 51) : (t.clearTsm m).hold = t.hold := rfl

/-! ### setWin and setPend -/

@[simp] theorem Strand.setWin_status (t : Strand) (b : Bool) (r : SReg) (v : Word) : (t.setWin b r v).status = t.status := by
  cases r <;> cases b <;> rfl
@[simp] theorem Strand.setWin_uid (t : Strand) (b : Bool) (r : SReg) (v : Word) : (t.setWin b r v).uid = t.uid := by
  cases r <;> cases b <;> rfl
@[simp] theorem Strand.setWin_pc (t : Strand) (b : Bool) (r : SReg) (v : Word) : (t.setWin b r v).pc = t.pc := by
  cases r <;> cases b <;> rfl
@[simp] theorem Strand.setWin_words (t : Strand) (b : Bool) (r : SReg) (v : Word) : (t.setWin b r v).words = t.words := by
  cases r <;> cases b <;> rfl
@[simp] theorem Strand.setWin_marker (t : Strand) (b : Bool) (r : SReg) (v : Word) : (t.setWin b r v).marker = t.marker := by
  cases r <;> cases b <;> rfl
@[simp] theorem Strand.setWin_lower (t : Strand) (b : Bool) (r : SReg) (v : Word) : (t.setWin b r v).lower = t.lower := by
  cases r <;> cases b <;> rfl
@[simp] theorem Strand.setWin_v (t : Strand) (b : Bool) (r : SReg) (v : Word) : (t.setWin b r v).v = t.v := by
  cases r <;> cases b <;> rfl
@[simp] theorem Strand.setWin_k (t : Strand) (b : Bool) (r : SReg) (v : Word) : (t.setWin b r v).k = t.k := by
  cases r <;> cases b <;> rfl
@[simp] theorem Strand.setWin_pend (t : Strand) (b : Bool) (r : SReg) (v : Word) : (t.setWin b r v).pend = t.pend := by
  cases r <;> cases b <;> rfl
@[simp] theorem Strand.setWin_sup (t : Strand) (b : Bool) (r : SReg) (v : Word) : (t.setWin b r v).sup = t.sup := by
  cases r <;> cases b <;> rfl
@[simp] theorem Strand.setWin_psup (t : Strand) (b : Bool) (r : SReg) (v : Word) : (t.setWin b r v).psup = t.psup := by
  cases r <;> cases b <;> rfl
@[simp] theorem Strand.setWin_sstep (t : Strand) (b : Bool) (r : SReg) (v : Word) : (t.setWin b r v).sstep = t.sstep := by
  cases r <;> cases b <;> rfl
@[simp] theorem Strand.setWin_psstep (t : Strand) (b : Bool) (r : SReg) (v : Word) : (t.setWin b r v).psstep = t.psstep := by
  cases r <;> cases b <;> rfl
@[simp] theorem Strand.setWin_dcls (t : Strand) (b : Bool) (r : SReg) (v : Word) : (t.setWin b r v).dcls = t.dcls := by
  cases r <;> cases b <;> rfl
@[simp] theorem Strand.setWin_lock (t : Strand) (b : Bool) (r : SReg) (v : Word) : (t.setWin b r v).lock = t.lock := by
  cases r <;> cases b <;> rfl
@[simp] theorem Strand.setWin_wspill (t : Strand) (b : Bool) (r : SReg) (v : Word) : (t.setWin b r v).wspill = t.wspill := by
  cases r <;> cases b <;> rfl
@[simp] theorem Strand.setWin_epc (t : Strand) (b : Bool) (r : SReg) (v : Word) : (t.setWin b r v).epc = t.epc := by
  cases r <;> cases b <;> rfl
@[simp] theorem Strand.setWin_ecause (t : Strand) (b : Bool) (r : SReg) (v : Word) : (t.setWin b r v).ecause = t.ecause := by
  cases r <;> cases b <;> rfl
@[simp] theorem Strand.setWin_eval (t : Strand) (b : Bool) (r : SReg) (v : Word) : (t.setWin b r v).eval = t.eval := by
  cases r <;> cases b <;> rfl
@[simp] theorem Strand.setWin_ehseq (t : Strand) (b : Bool) (r : SReg) (v : Word) : (t.setWin b r v).ehseq = t.ehseq := by
  cases r <;> cases b <;> rfl
@[simp] theorem Strand.setWin_tvec (t : Strand) (b : Bool) (r : SReg) (v : Word) : (t.setWin b r v).tvec = t.tvec := by
  cases r <;> cases b <;> rfl
@[simp] theorem Strand.setWin_fmode (t : Strand) (b : Bool) (r : SReg) (v : Word) : (t.setWin b r v).fmode = t.fmode := by
  cases r <;> cases b <;> rfl
@[simp] theorem Strand.setWin_rmode (t : Strand) (b : Bool) (r : SReg) (v : Word) : (t.setWin b r v).rmode = t.rmode := by
  cases r <;> cases b <;> rfl
@[simp] theorem Strand.setWin_seed (t : Strand) (b : Bool) (r : SReg) (v : Word) : (t.setWin b r v).seed = t.seed := by
  cases r <;> cases b <;> rfl
@[simp] theorem Strand.setWin_tsm (t : Strand) (b : Bool) (r : SReg) (v : Word) : (t.setWin b r v).tsm = t.tsm := by
  cases r <;> cases b <;> rfl
@[simp] theorem Strand.setWin_progIndex (t : Strand) (b : Bool) (r : SReg) (v : Word) : (t.setWin b r v).progIndex = t.progIndex := by
  cases r <;> cases b <;> rfl
@[simp] theorem Strand.setWin_progValid (t : Strand) (b : Bool) (r : SReg) (v : Word) : (t.setWin b r v).progValid = t.progValid := by
  cases r <;> cases b <;> rfl
@[simp] theorem Strand.setWin_clsmask (t : Strand) (b : Bool) (r : SReg) (v : Word) : (t.setWin b r v).clsmask = t.clsmask := by
  cases r <;> cases b <;> rfl
@[simp] theorem Strand.setWin_chainCell (t : Strand) (b : Bool) (r : SReg) (v : Word) : (t.setWin b r v).chainCell = t.chainCell := by
  cases r <;> cases b <;> rfl
@[simp] theorem Strand.setWin_chainEn (t : Strand) (b : Bool) (r : SReg) (v : Word) : (t.setWin b r v).chainEn = t.chainEn := by
  cases r <;> cases b <;> rfl
@[simp] theorem Strand.setWin_stealdom (t : Strand) (b : Bool) (r : SReg) (v : Word) : (t.setWin b r v).stealdom = t.stealdom := by
  cases r <;> cases b <;> rfl
@[simp] theorem Strand.setWin_mstra (t : Strand) (b : Bool) (r : SReg) (v : Word) : (t.setWin b r v).mstra = t.mstra := by
  cases r <;> cases b <;> rfl
@[simp] theorem Strand.setWin_mstrb (t : Strand) (b : Bool) (r : SReg) (v : Word) : (t.setWin b r v).mstrb = t.mstrb := by
  cases r <;> cases b <;> rfl
@[simp] theorem Strand.setWin_tau (t : Strand) (b : Bool) (r : SReg) (v : Word) : (t.setWin b r v).tau = t.tau := by
  cases r <;> cases b <;> rfl
@[simp] theorem Strand.setWin_theta (t : Strand) (b : Bool) (r : SReg) (v : Word) : (t.setWin b r v).theta = t.theta := by
  cases r <;> cases b <;> rfl
@[simp] theorem Strand.setWin_cmin (t : Strand) (b : Bool) (r : SReg) (v : Word) : (t.setWin b r v).cmin = t.cmin := by
  cases r <;> cases b <;> rfl
@[simp] theorem Strand.setWin_tmode (t : Strand) (b : Bool) (r : SReg) (v : Word) : (t.setWin b r v).tmode = t.tmode := by
  cases r <;> cases b <;> rfl
@[simp] theorem Strand.setWin_instret (t : Strand) (b : Bool) (r : SReg) (v : Word) : (t.setWin b r v).instret = t.instret := by
  cases r <;> cases b <;> rfl
@[simp] theorem Strand.setWin_splh (t : Strand) (b : Bool) (r : SReg) (v : Word) : (t.setWin b r v).splh = t.splh := by
  cases r <;> cases b <;> rfl
@[simp] theorem Strand.setWin_seqCtr (t : Strand) (b : Bool) (r : SReg) (v : Word) : (t.setWin b r v).seqCtr = t.seqCtr := by
  cases r <;> cases b <;> rfl
@[simp] theorem Strand.setWin_marks (t : Strand) (b : Bool) (r : SReg) (v : Word) : (t.setWin b r v).marks = t.marks := by
  cases r <;> cases b <;> rfl
@[simp] theorem Strand.setWin_sidx (t : Strand) (b : Bool) (r : SReg) (v : Word) : (t.setWin b r v).sidx = t.sidx := by
  cases r <;> cases b <;> rfl
@[simp] theorem Strand.setWin_child (t : Strand) (b : Bool) (r : SReg) (v : Word) : (t.setWin b r v).child = t.child := by
  cases r <;> cases b <;> rfl
@[simp] theorem Strand.setWin_team (t : Strand) (b : Bool) (r : SReg) (v : Word) : (t.setWin b r v).team = t.team := by
  cases r <;> cases b <;> rfl
@[simp] theorem Strand.setWin_join (t : Strand) (b : Bool) (r : SReg) (v : Word) : (t.setWin b r v).join = t.join := by
  cases r <;> cases b <;> rfl
@[simp] theorem Strand.setWin_spawnCell (t : Strand) (b : Bool) (r : SReg) (v : Word) : (t.setWin b r v).spawnCell = t.spawnCell := by
  cases r <;> cases b <;> rfl
@[simp] theorem Strand.setWin_late (t : Strand) (b : Bool) (r : SReg) (v : Word) : (t.setWin b r v).late = t.late := by
  cases r <;> cases b <;> rfl
@[simp] theorem Strand.setWin_stepDue (t : Strand) (b : Bool) (r : SReg) (v : Word) : (t.setWin b r v).stepDue = t.stepDue := by
  cases r <;> cases b <;> rfl
@[simp] theorem Strand.setWin_woken (t : Strand) (b : Bool) (r : SReg) (v : Word) : (t.setWin b r v).woken = t.woken := by
  cases r <;> cases b <;> rfl
@[simp] theorem Strand.setWin_lastIssue (t : Strand) (b : Bool) (r : SReg) (v : Word) : (t.setWin b r v).lastIssue = t.lastIssue := by
  cases r <;> cases b <;> rfl
@[simp] theorem Strand.setWin_mcls (t : Strand) (b : Bool) (r : SReg) (v : Word) : (t.setWin b r v).mcls = t.mcls := by
  cases r <;> cases b <;> rfl
@[simp] theorem Strand.setWin_acqs (t : Strand) (b : Bool) (r : SReg) (v : Word) : (t.setWin b r v).acqs = t.acqs := by
  cases r <;> cases b <;> rfl
@[simp] theorem Strand.setWin_ready (t : Strand) (b : Bool) (r : SReg) (v : Word) : (t.setWin b r v).ready = t.ready := by
  cases r <;> cases b <;> rfl
@[simp] theorem Strand.setWin_hold (t : Strand) (b : Bool) (r : SReg) (v : Word) : (t.setWin b r v).hold = t.hold := by
  cases r <;> cases b <;> rfl
@[simp] theorem Strand.setPend_status (t : Strand) (r : SReg) (b : Bool) : (t.setPend r b).status = t.status := by
  cases r <;> rfl
@[simp] theorem Strand.setPend_uid (t : Strand) (r : SReg) (b : Bool) : (t.setPend r b).uid = t.uid := by
  cases r <;> rfl
@[simp] theorem Strand.setPend_pc (t : Strand) (r : SReg) (b : Bool) : (t.setPend r b).pc = t.pc := by
  cases r <;> rfl
@[simp] theorem Strand.setPend_words (t : Strand) (r : SReg) (b : Bool) : (t.setPend r b).words = t.words := by
  cases r <;> rfl
@[simp] theorem Strand.setPend_marker (t : Strand) (r : SReg) (b : Bool) : (t.setPend r b).marker = t.marker := by
  cases r <;> rfl
@[simp] theorem Strand.setPend_ra (t : Strand) (r : SReg) (b : Bool) : (t.setPend r b).ra = t.ra := by
  cases r <;> rfl
@[simp] theorem Strand.setPend_rl (t : Strand) (r : SReg) (b : Bool) : (t.setPend r b).rl = t.rl := by
  cases r <;> rfl
@[simp] theorem Strand.setPend_rn (t : Strand) (r : SReg) (b : Bool) : (t.setPend r b).rn = t.rn := by
  cases r <;> rfl
@[simp] theorem Strand.setPend_lower (t : Strand) (r : SReg) (b : Bool) : (t.setPend r b).lower = t.lower := by
  cases r <;> rfl
@[simp] theorem Strand.setPend_sa (t : Strand) (r : SReg) (b : Bool) : (t.setPend r b).sa = t.sa := by
  cases r <;> rfl
@[simp] theorem Strand.setPend_sl (t : Strand) (r : SReg) (b : Bool) : (t.setPend r b).sl = t.sl := by
  cases r <;> rfl
@[simp] theorem Strand.setPend_sn (t : Strand) (r : SReg) (b : Bool) : (t.setPend r b).sn = t.sn := by
  cases r <;> rfl
@[simp] theorem Strand.setPend_sp (t : Strand) (r : SReg) (b : Bool) : (t.setPend r b).sp = t.sp := by
  cases r <;> rfl
@[simp] theorem Strand.setPend_v (t : Strand) (r : SReg) (b : Bool) : (t.setPend r b).v = t.v := by
  cases r <;> rfl
@[simp] theorem Strand.setPend_k (t : Strand) (r : SReg) (b : Bool) : (t.setPend r b).k = t.k := by
  cases r <;> rfl
@[simp] theorem Strand.setPend_sup (t : Strand) (r : SReg) (b : Bool) : (t.setPend r b).sup = t.sup := by
  cases r <;> rfl
@[simp] theorem Strand.setPend_psup (t : Strand) (r : SReg) (b : Bool) : (t.setPend r b).psup = t.psup := by
  cases r <;> rfl
@[simp] theorem Strand.setPend_sstep (t : Strand) (r : SReg) (b : Bool) : (t.setPend r b).sstep = t.sstep := by
  cases r <;> rfl
@[simp] theorem Strand.setPend_psstep (t : Strand) (r : SReg) (b : Bool) : (t.setPend r b).psstep = t.psstep := by
  cases r <;> rfl
@[simp] theorem Strand.setPend_dcls (t : Strand) (r : SReg) (b : Bool) : (t.setPend r b).dcls = t.dcls := by
  cases r <;> rfl
@[simp] theorem Strand.setPend_lock (t : Strand) (r : SReg) (b : Bool) : (t.setPend r b).lock = t.lock := by
  cases r <;> rfl
@[simp] theorem Strand.setPend_wspill (t : Strand) (r : SReg) (b : Bool) : (t.setPend r b).wspill = t.wspill := by
  cases r <;> rfl
@[simp] theorem Strand.setPend_epc (t : Strand) (r : SReg) (b : Bool) : (t.setPend r b).epc = t.epc := by
  cases r <;> rfl
@[simp] theorem Strand.setPend_ecause (t : Strand) (r : SReg) (b : Bool) : (t.setPend r b).ecause = t.ecause := by
  cases r <;> rfl
@[simp] theorem Strand.setPend_eval (t : Strand) (r : SReg) (b : Bool) : (t.setPend r b).eval = t.eval := by
  cases r <;> rfl
@[simp] theorem Strand.setPend_ehseq (t : Strand) (r : SReg) (b : Bool) : (t.setPend r b).ehseq = t.ehseq := by
  cases r <;> rfl
@[simp] theorem Strand.setPend_tvec (t : Strand) (r : SReg) (b : Bool) : (t.setPend r b).tvec = t.tvec := by
  cases r <;> rfl
@[simp] theorem Strand.setPend_fmode (t : Strand) (r : SReg) (b : Bool) : (t.setPend r b).fmode = t.fmode := by
  cases r <;> rfl
@[simp] theorem Strand.setPend_rmode (t : Strand) (r : SReg) (b : Bool) : (t.setPend r b).rmode = t.rmode := by
  cases r <;> rfl
@[simp] theorem Strand.setPend_seed (t : Strand) (r : SReg) (b : Bool) : (t.setPend r b).seed = t.seed := by
  cases r <;> rfl
@[simp] theorem Strand.setPend_tsm (t : Strand) (r : SReg) (b : Bool) : (t.setPend r b).tsm = t.tsm := by
  cases r <;> rfl
@[simp] theorem Strand.setPend_progIndex (t : Strand) (r : SReg) (b : Bool) : (t.setPend r b).progIndex = t.progIndex := by
  cases r <;> rfl
@[simp] theorem Strand.setPend_progValid (t : Strand) (r : SReg) (b : Bool) : (t.setPend r b).progValid = t.progValid := by
  cases r <;> rfl
@[simp] theorem Strand.setPend_clsmask (t : Strand) (r : SReg) (b : Bool) : (t.setPend r b).clsmask = t.clsmask := by
  cases r <;> rfl
@[simp] theorem Strand.setPend_chainCell (t : Strand) (r : SReg) (b : Bool) : (t.setPend r b).chainCell = t.chainCell := by
  cases r <;> rfl
@[simp] theorem Strand.setPend_chainEn (t : Strand) (r : SReg) (b : Bool) : (t.setPend r b).chainEn = t.chainEn := by
  cases r <;> rfl
@[simp] theorem Strand.setPend_stealdom (t : Strand) (r : SReg) (b : Bool) : (t.setPend r b).stealdom = t.stealdom := by
  cases r <;> rfl
@[simp] theorem Strand.setPend_mstra (t : Strand) (r : SReg) (b : Bool) : (t.setPend r b).mstra = t.mstra := by
  cases r <;> rfl
@[simp] theorem Strand.setPend_mstrb (t : Strand) (r : SReg) (b : Bool) : (t.setPend r b).mstrb = t.mstrb := by
  cases r <;> rfl
@[simp] theorem Strand.setPend_tau (t : Strand) (r : SReg) (b : Bool) : (t.setPend r b).tau = t.tau := by
  cases r <;> rfl
@[simp] theorem Strand.setPend_theta (t : Strand) (r : SReg) (b : Bool) : (t.setPend r b).theta = t.theta := by
  cases r <;> rfl
@[simp] theorem Strand.setPend_cmin (t : Strand) (r : SReg) (b : Bool) : (t.setPend r b).cmin = t.cmin := by
  cases r <;> rfl
@[simp] theorem Strand.setPend_tmode (t : Strand) (r : SReg) (b : Bool) : (t.setPend r b).tmode = t.tmode := by
  cases r <;> rfl
@[simp] theorem Strand.setPend_instret (t : Strand) (r : SReg) (b : Bool) : (t.setPend r b).instret = t.instret := by
  cases r <;> rfl
@[simp] theorem Strand.setPend_splh (t : Strand) (r : SReg) (b : Bool) : (t.setPend r b).splh = t.splh := by
  cases r <;> rfl
@[simp] theorem Strand.setPend_seqCtr (t : Strand) (r : SReg) (b : Bool) : (t.setPend r b).seqCtr = t.seqCtr := by
  cases r <;> rfl
@[simp] theorem Strand.setPend_marks (t : Strand) (r : SReg) (b : Bool) : (t.setPend r b).marks = t.marks := by
  cases r <;> rfl
@[simp] theorem Strand.setPend_sidx (t : Strand) (r : SReg) (b : Bool) : (t.setPend r b).sidx = t.sidx := by
  cases r <;> rfl
@[simp] theorem Strand.setPend_child (t : Strand) (r : SReg) (b : Bool) : (t.setPend r b).child = t.child := by
  cases r <;> rfl
@[simp] theorem Strand.setPend_team (t : Strand) (r : SReg) (b : Bool) : (t.setPend r b).team = t.team := by
  cases r <;> rfl
@[simp] theorem Strand.setPend_join (t : Strand) (r : SReg) (b : Bool) : (t.setPend r b).join = t.join := by
  cases r <;> rfl
@[simp] theorem Strand.setPend_spawnCell (t : Strand) (r : SReg) (b : Bool) : (t.setPend r b).spawnCell = t.spawnCell := by
  cases r <;> rfl
@[simp] theorem Strand.setPend_late (t : Strand) (r : SReg) (b : Bool) : (t.setPend r b).late = t.late := by
  cases r <;> rfl
@[simp] theorem Strand.setPend_stepDue (t : Strand) (r : SReg) (b : Bool) : (t.setPend r b).stepDue = t.stepDue := by
  cases r <;> rfl
@[simp] theorem Strand.setPend_woken (t : Strand) (r : SReg) (b : Bool) : (t.setPend r b).woken = t.woken := by
  cases r <;> rfl
@[simp] theorem Strand.setPend_lastIssue (t : Strand) (r : SReg) (b : Bool) : (t.setPend r b).lastIssue = t.lastIssue := by
  cases r <;> rfl
@[simp] theorem Strand.setPend_mcls (t : Strand) (r : SReg) (b : Bool) : (t.setPend r b).mcls = t.mcls := by
  cases r <;> rfl
@[simp] theorem Strand.setPend_acqs (t : Strand) (r : SReg) (b : Bool) : (t.setPend r b).acqs = t.acqs := by
  cases r <;> rfl
@[simp] theorem Strand.setPend_ready (t : Strand) (r : SReg) (b : Bool) : (t.setPend r b).ready = t.ready := by
  cases r <;> rfl
@[simp] theorem Strand.setPend_hold (t : Strand) (r : SReg) (b : Bool) : (t.setPend r b).hold = t.hold := by
  cases r <;> rfl

/-! ### What reading a strand or a cell sees of an update elsewhere -/

@[simp] theorem State.strand_updHub (s : State) (t : Nat) (f : Hub → Hub) (i : SlotId) :
    (s.updHub t f).strand i = s.strand i := rfl
@[simp] theorem State.strand_updGroup (s : State) (t : Nat) (f : Group → Group) (i : SlotId) :
    (s.updGroup t f).strand i = s.strand i := rfl
@[simp] theorem State.strand_updBond (s : State) (t : Nat) (f : Bond → Bond) (i : SlotId) :
    (s.updBond t f).strand i = s.strand i := rfl
@[simp] theorem State.strand_updPair (s : State) (t : Nat) (f : Pair → Pair) (i : SlotId) :
    (s.updPair t f).strand i = s.strand i := rfl
@[simp] theorem State.strand_updSg (s : State) (t : Nat) (f : SgHub → SgHub) (i : SlotId) :
    (s.updSg t f).strand i = s.strand i := rfl
@[simp] theorem State.strand_poke (s : State) (l : Loc) (bs : List Byte) (i : SlotId) :
    (s.poke l bs).strand i = s.strand i := rfl
@[simp] theorem State.cell_updHub (s : State) (t : Nat) (f : Hub → Hub) (c : Nat) : (s.updHub t f).cell c = s.cell c := rfl
@[simp] theorem State.cell_updPair (s : State) (t : Nat) (f : Pair → Pair) (c : Nat) :
    (s.updPair t f).cell c = s.cell c := rfl
@[simp] theorem State.cell_updSg (s : State) (t : Nat) (f : SgHub → SgHub) (c : Nat) : (s.updSg t f).cell c = s.cell c := rfl
@[simp] theorem State.cell_poke (s : State) (l : Loc) (bs : List Byte) (c : Nat) : (s.poke l bs).cell c = s.cell c := rfl
@[simp] theorem State.hub_upd (s : State) (i : SlotId) (f : Strand → Strand) (t : Nat) : (s.upd i f).hub t = s.hub t := rfl
@[simp] theorem State.hub_updCell (s : State) (c : Nat) (f : Cell → Cell) (t : Nat) :
    (s.updCell c f).hub t = s.hub t := rfl
@[simp] theorem State.pair_upd (s : State) (i : SlotId) (f : Strand → Strand) (t : Nat) :
    (s.upd i f).pair t = s.pair t := rfl
@[simp] theorem State.pair_updCell (s : State) (c : Nat) (f : Cell → Cell) (t : Nat) :
    (s.updCell c f).pair t = s.pair t := rfl
@[simp] theorem State.bindRec_upd (s : State) (i : SlotId) (f : Strand → Strand) (g r : Nat) :
    (s.upd i f).bindRec g r = s.bindRec g r := rfl
/-- A strand update leaves the cell's bind. -/
@[simp] theorem State.bind_upd (s : State) (i : SlotId) (f : Strand → Strand) (c : Nat) :
    ((s.upd i f).cell c).bind = (s.cell c).bind := by
  rw [State.cell_upd]; split <;> rfl
@[simp] theorem State.recOf_upd (s : State) (i : SlotId) (f : Strand → Strand) (c : Nat) :
    (s.upd i f).recOf c = s.recOf c := by
  simp [State.recOf]
@[simp] theorem State.homeOf_upd (s : State) (i : SlotId) (f : Strand → Strand) (c : Nat) :
    (s.upd i f).homeOf c = s.homeOf c := by
  simp [State.homeOf]
@[simp] theorem State.twinPresent_upd (s : State) (i : SlotId) (f : Strand → Strand) (c : Nat) :
    (s.upd i f).twinPresent c = s.twinPresent c := by
  simp [State.twinPresent]
@[simp] theorem State.owes_upd (s : State) (i : SlotId) (f : Strand → Strand) (u : Nat) : (s.upd i f).owes u = s.owes u := rfl
@[simp] theorem State.marked_false (s : State) (i : SlotId) : s.marked i false = s := rfl


end Sys2Proof.Machine
end

