-- ==== Sys2Proof/Laws/Memory.lean ====
section
/-! SUPPORT. Memory: every operation keeps the canonical form, a written byte reads back, and every other byte reads as
before. -/

namespace Sys2Proof.Machine

open Sys2Proof

/-! ### The canonical form -/

theorem Memory.wfFrom_le {j k : Nat} {m : List Host.Cell} (h : j ≤ k) (hw : Memory.wfFrom k m = true) :
    Memory.wfFrom j m = true := by
  cases m with
  | nil => rfl
  | cons e m =>
    simp only [Memory.wfFrom, Bool.and_eq_true, decide_eq_true_eq] at hw ⊢
    exact ⟨⟨by omega, hw.1.2⟩, hw.2⟩

/-- A byte below every listed key reads as unlisted. -/
theorem Memory.get_below {k a : Nat} {m : List Host.Cell} (hw : Memory.wfFrom k m = true) (h : a < k) :
    Memory.get m a = Memory.unlisted := by
  induction m generalizing k with
  | nil => rfl
  | cons e m ih =>
    simp only [Memory.wfFrom, Bool.and_eq_true, decide_eq_true_eq] at hw
    have : e.1 ≠ a := by omega
    simp only [Memory.get, if_neg this]
    exact ih hw.2 (by omega)

theorem Memory.wfFrom_set {k a : Nat} {m : List Host.Cell} (b : Byte) (hw : Memory.wfFrom k m = true) (h : k ≤ a) :
    Memory.wfFrom k (Memory.set m a b) = true := by
  induction m generalizing k with
  | nil => unfold Memory.set; split <;> simp_all [Memory.wfFrom]
  | cons e m ih =>
    obtain ⟨i, v⟩ := e
    simp only [Memory.wfFrom, Bool.and_eq_true, decide_eq_true_eq] at hw
    unfold Memory.set
    split
    · split
      · simp [Memory.wfFrom, hw]
      · rename_i hai hb
        simp only [Memory.wfFrom, Bool.and_eq_true, decide_eq_true_eq]
        exact ⟨⟨h, hb⟩, ⟨by omega, hw.1.2⟩, hw.2⟩
    · split
      · subst_vars
        split
        · exact Memory.wfFrom_le (by omega) hw.2
        · rename_i hb
          simp only [Memory.wfFrom, Bool.and_eq_true, decide_eq_true_eq]
          exact ⟨⟨h, hb⟩, hw.2⟩
      · simp only [Memory.wfFrom, Bool.and_eq_true, decide_eq_true_eq]
        exact ⟨hw.1, ih hw.2 (by omega)⟩

theorem Memory.wf_set {m : List Host.Cell} (a : Nat) (b : Byte) (hw : Memory.wf m = true) :
    Memory.wf (Memory.set m a b) = true := Memory.wfFrom_set b hw (Nat.zero_le a)

theorem Memory.wf_setBytes {m : List Host.Cell} (a : Nat) (bs : List Byte) (hw : Memory.wf m = true) :
    Memory.wf (Memory.setBytes m a bs) = true := by
  induction bs generalizing m a with
  | nil => exact hw
  | cons b bs ih => exact ih (a + 1) (Memory.wf_set a b hw)

theorem Memory.wfFrom_filter {k : Nat} {m : List Host.Cell} (p : Host.Cell → Bool) (hw : Memory.wfFrom k m = true) :
    Memory.wfFrom k (m.filter p) = true := by
  induction m generalizing k with
  | nil => rfl
  | cons e m ih =>
    simp only [Memory.wfFrom, Bool.and_eq_true, decide_eq_true_eq] at hw
    rw [List.filter_cons]
    split
    · simp only [Memory.wfFrom, Bool.and_eq_true, decide_eq_true_eq]
      exact ⟨hw.1, ih hw.2⟩
    · exact Memory.wfFrom_le (by omega) (ih hw.2)

theorem Memory.wf_filter {m : List Host.Cell} (p : Host.Cell → Bool) (hw : Memory.wf m = true) :
    Memory.wf (m.filter p) = true := Memory.wfFrom_filter p hw

/-- A canonical list whose keys are at least k. -/
theorem Memory.wfFrom_of_le {j k : Nat} {m : List Host.Cell} (hw : Memory.wfFrom j m = true) (h : ∀ e ∈ m, k ≤ e.1) :
    Memory.wfFrom k m = true := by
  cases m with
  | nil => rfl
  | cons e m =>
    simp only [Memory.wfFrom, Bool.and_eq_true, decide_eq_true_eq] at hw ⊢
    exact ⟨⟨h e List.mem_cons_self, hw.1.2⟩, hw.2⟩

theorem Memory.wf_clear {m : List Host.Cell} (a n : Nat) (hw : Memory.wf m = true) : Memory.wf (Memory.clear m a n) = true :=
  Memory.wf_filter _ hw

theorem Memory.wf_foldl_set {α : Type} (key : α → Nat) (val : α → Byte) (l : List α) {m : List Host.Cell}
    (hw : Memory.wf m = true) : Memory.wf (l.foldl (fun m e => Memory.set m (key e) (val e)) m) = true := by
  induction l generalizing m with
  | nil => exact hw
  | cons e l ih => exact ih (Memory.wf_set _ _ hw)

theorem Memory.wf_copy {m : List Host.Cell} (a b n : Nat) (hw : Memory.wf m = true) : Memory.wf (Memory.copy m a b n) = true :=
  Memory.wf_foldl_set (fun e : Host.Cell => b + (e.1 - a)) (fun e => e.2) _ (Memory.wf_clear b n hw)

/-- A fold whose every step keeps the form. -/
theorem Memory.wf_foldl {α : Type} (f : List Host.Cell → α → List Host.Cell) (l : List α) {m : List Host.Cell}
    (hf : ∀ m a, Memory.wf m = true → Memory.wf (f m a) = true) (hw : Memory.wf m = true) :
    Memory.wf (l.foldl f m) = true := by
  induction l generalizing m with
  | nil => exact hw
  | cons a l ih => exact ih (hf m a hw)

theorem State.flipData_wf {s : State} (key : Nat) (ps : List Nat) (hw : Memory.wf s.mem = true) :
    Memory.wf (s.flipData key ps).mem = true := by
  unfold State.flipData
  generalize List.range 256 = l
  exact Memory.wf_foldl _ l (fun m d hm => by split; exacts [Memory.wf_set _ _ hm, hm]) hw

@[simp] theorem State.mem_setFlips (s : State) (key : Nat) (ps : List Nat) : (s.setFlips key ps).mem = s.mem := rfl

theorem State.misread_wf {s : State} (key : Nat) (all inj : List Nat) (hw : Memory.wf s.mem = true) :
    Memory.wf (s.misread key all inj).mem = true := by
  unfold State.misread
  dsimp only
  split
  · exact hw
  · rw [State.mem_setFlips]; exact State.flipData_wf key _ hw

/-- A record of an error, and an injection, leave memory alone. -/
@[simp] theorem State.mem_berrRecord (s : State) (l : Loc) (n : Nat) (d : Bool) : (s.berrRecord l n d).mem = s.mem := by
  unfold State.berrRecord; split <;> rfl
@[simp] theorem State.mem_injected (s : State) (l : Loc) : (s.injected l).2.mem = s.mem := by
  unfold State.injected; split
  · dsimp only; split <;> rfl
  · rfl

/-- The check of a column keeps the form, though a reader may find data that a miscorrection has changed. -/
theorem State.checkColumn_wf {s : State} (l : Loc) (hw : Memory.wf s.mem = true) : Memory.wf (s.checkColumn l).2.mem = true := by
  have hi : Memory.wf (s.injected l).2.mem = true := by simpa using hw
  unfold State.checkColumn
  dsimp only
  split
  · exact hi
  · exact hi
  · exact hi
  · exact hi
  · split
    · exact State.misread_wf _ _ _ hi
    · split
      · exact State.misread_wf _ _ _ (by simpa using hw)
      · exact State.misread_wf _ _ _ (by simpa using hw)
    · simpa using hw

theorem Memory.wf_undo {m : List Host.Cell} (l : List (Nat × Byte)) (hw : Memory.wf m = true) : Memory.wf (undo m l) = true := by
  induction l generalizing m with
  | nil => exact hw
  | cons e l ih => exact ih (Memory.wf_set _ _ hw)

/-- What moves, clears or zeroes whole pages keeps the form. -/
theorem State.carry_wf {s : State} (a b : Loc) (n : Nat) (hw : Memory.wf s.mem = true) : Memory.wf (s.carry a b n).mem = true :=
  Memory.wf_copy _ _ _ hw
theorem State.wipe_wf {s : State} (l : Loc) (n : Nat) (hw : Memory.wf s.mem = true) : Memory.wf (s.wipe l n).mem = true :=
  Memory.wf_clear _ _ hw
theorem State.writeFresh_wf {s : State} (l : Loc) (bs : List Byte) (hw : Memory.wf s.mem = true) :
    Memory.wf (s.writeFresh l bs).mem = true := Memory.wf_setBytes _ _ hw
theorem State.zeroMemory_wf {s : State} (hw : Memory.wf s.mem = true) : Memory.wf s.zeroMemory.mem = true :=
  Memory.wf_filter _ hw

/-! ### Read after write -/

theorem Memory.get_setFrom {k a j : Nat} {m : List Host.Cell} (b : Byte) (hw : Memory.wfFrom k m = true) :
    Memory.get (Memory.set m a b) j = if a = j then b else Memory.get m j := by
  induction m generalizing k with
  | nil => unfold Memory.set; split <;> simp_all [Memory.get]
  | cons e m ih =>
    obtain ⟨i, v⟩ := e
    simp only [Memory.wfFrom, Bool.and_eq_true, decide_eq_true_eq] at hw
    unfold Memory.set
    split
    · rename_i hai
      split
      · rename_i hb
        split
        · subst_vars
          have : ¬ i = j := by omega
          simp only [Memory.get, if_neg this]
          exact Memory.get_below hw.2 (by omega)
        · rfl
      · simp only [Memory.get]
    · split
      · subst_vars
        split
        · rename_i hb
          split
          · subst_vars; exact Memory.get_below hw.2 (by omega)
          · rename_i hj; simp [Memory.get, hj]
        · rename_i hb
          simp only [Memory.get]
          split <;> simp_all
      · simp only [Memory.get, ih hw.2]
        split
        · have : ¬ a = j := by omega
          simp [this]
        · rfl

/-- A written byte reads back, and every other byte reads as before. -/
theorem Memory.get_set {m : List Host.Cell} (a j : Nat) (b : Byte) (hw : Memory.wf m = true) :
    Memory.get (Memory.set m a b) j = if a = j then b else Memory.get m j := Memory.get_setFrom b hw

theorem Memory.get_setBytes {m : List Host.Cell} (a j : Nat) (bs : List Byte) (hw : Memory.wf m = true) :
    Memory.get (Memory.setBytes m a bs) j =
      if a ≤ j ∧ j < a + bs.length then bs.getD (j - a) 0#8 else Memory.get m j := by
  induction bs generalizing m a with
  | nil => simp [Memory.setBytes]
  | cons b bs ih =>
    simp only [Memory.setBytes]
    rw [ih (a + 1) (Memory.wf_set a b hw), Memory.get_set a j b hw]
    by_cases h : a = j
    · subst h; simp
    · by_cases h2 : a + 1 ≤ j ∧ j < a + 1 + bs.length
      · have e : j - a = (j - (a + 1)) + 1 := by omega
        have h3 : a ≤ j ∧ j < a + (b :: bs).length := by simp; omega
        rw [if_pos h2, if_pos h3, e]; simp
      · have h3 : ¬ (a ≤ j ∧ j < a + (b :: bs).length) := by simp; omega
        rw [if_neg h2, if_neg h3, if_neg h]

/-- A byte outside the written range reads as before. -/
theorem Memory.get_setBytes_outside {m : List Host.Cell} (a j : Nat) (bs : List Byte) (hw : Memory.wf m = true)
    (h : j < a ∨ a + bs.length ≤ j) : Memory.get (Memory.setBytes m a bs) j = Memory.get m j := by
  rw [Memory.get_setBytes a j bs hw, if_neg (by omega)]

/-- A selection of entries by their keys: a key that it takes reads as before, and one that it drops as unlisted. -/
theorem Memory.get_filter (m : List Host.Cell) (p : Nat → Bool) (j : Nat) :
    Memory.get (m.filter (fun e => p e.1)) j = if p j then Memory.get m j else Memory.unlisted := by
  induction m with
  | nil => simp [Memory.get]
  | cons e m ih =>
    rw [List.filter_cons]
    by_cases h : e.1 = j
    · subst h; by_cases hp : p e.1 <;> simp_all [Memory.get]
    · split <;> simp [Memory.get, h, ih]

/-- A cleared range reads as unlisted, and every other byte as before. -/
theorem Memory.get_clear (m : List Host.Cell) (a n j : Nat) :
    Memory.get (Memory.clear m a n) j = if a ≤ j ∧ j < a + n then Memory.unlisted else Memory.get m j := by
  rw [Memory.clear, Memory.get_filter m (fun k => !(decide (a ≤ k) && decide (k < a + n)))]
  by_cases h : a ≤ j ∧ j < a + n
  · simp [h]
  · rw [if_neg h, if_pos (by simp; omega)]

/-- Entries in rising order, each set at its place from b on. -/
theorem Memory.get_foldl_set {a k : Nat} (b j : Nat) (l : List Host.Cell) {m : List Host.Cell} (hm : Memory.wf m = true)
    (hl : Memory.wfFrom k l = true) (ha : a ≤ k) :
    Memory.get (l.foldl (fun m e => Memory.set m (b + (e.1 - a)) e.2) m) j
      = if b ≤ j ∧ Memory.get l (a + (j - b)) ≠ Memory.unlisted then Memory.get l (a + (j - b)) else Memory.get m j := by
  induction l generalizing k m with
  | nil => simp [Memory.get]
  | cons e l ih =>
    obtain ⟨i, v⟩ := e
    simp only [Memory.wfFrom, Bool.and_eq_true, decide_eq_true_eq] at hl
    rw [List.foldl_cons, ih (Memory.wf_set _ _ hm) hl.2 (by omega), Memory.get_set _ _ _ hm]
    by_cases h : b ≤ j ∧ i = a + (j - b)
    · have hx : Memory.get l (a + (j - b)) = Memory.unlisted := Memory.get_below hl.2 (by omega)
      have hi : i = a + (j - b) := h.2
      simp [Memory.get, hx, hi, h.1, hl.1.2]
    · have hj : ¬ b + (i - a) = j := by omega
      by_cases hb : b ≤ j
      · have hi : ¬ i = a + (j - b) := fun e => h ⟨hb, e⟩
        simp [Memory.get, hj, hi]
      · simp [hb, hj]

/-- A copied range reads as its source did, and every other byte as before. -/
theorem Memory.get_copy {m : List Host.Cell} (a b n j : Nat) (hw : Memory.wf m = true) :
    Memory.get (Memory.copy m a b n) j = if b ≤ j ∧ j < b + n then Memory.get m (a + (j - b)) else Memory.get m j := by
  have hl : Memory.wfFrom a (m.filter (fun e => decide (a ≤ e.1) && decide (e.1 < a + n))) = true :=
    Memory.wfFrom_of_le (Memory.wf_filter _ hw) (fun e he => by simp at he; omega)
  rw [Memory.copy, Memory.get_foldl_set b j _ (Memory.wf_clear b n hw) hl (Nat.le_refl a), Memory.get_clear,
    Memory.get_filter m (fun k => decide (a ≤ k) && decide (k < a + n))]
  by_cases hb : b ≤ j
  · by_cases hn : j < b + n
    · have hx : a + (j - b) < a + n := by omega
      simp only [hb, hn, hx, Nat.le_add_right, decide_true, Bool.and_self, if_true, true_and, and_self]
      split
      · rfl
      · rename_i hz; exact (Classical.not_not.mp hz).symm
    · have hx : ¬ a + (j - b) < a + n := by omega
      simp [hn, hx]
  · simp [hb]

/-- What moves and what clears a page, byte by byte. -/
theorem State.get_carry {s : State} (a b : Loc) (n j : Nat) (hw : Memory.wf s.mem = true) :
    Memory.get (s.carry a b n).mem j
      = if b.key ≤ j ∧ j < b.key + n then Memory.get s.mem (a.key + (j - b.key)) else Memory.get s.mem j :=
  Memory.get_copy _ _ _ _ hw
theorem State.get_wipe (s : State) (l : Loc) (n j : Nat) :
    Memory.get (s.wipe l n).mem j = if l.key ≤ j ∧ j < l.key + n then Memory.unlisted else Memory.get s.mem j :=
  Memory.get_clear _ _ _ _

theorem Memory.getBytes_length (m : List Host.Cell) (a n : Nat) : (Memory.getBytes m a n).length = n := by
  induction n generalizing a with
  | zero => rfl
  | succ n ih => simp [Memory.getBytes, ih]

theorem Memory.getBytes_getD (m : List Host.Cell) (a n j : Nat) (h : j < n) :
    (Memory.getBytes m a n).getD j 0#8 = Memory.get m (a + j) := by
  induction n generalizing a j with
  | zero => omega
  | succ n ih =>
    cases j with
    | zero => rfl
    | succ j =>
      have := ih (a + 1) j (by omega)
      simp only [Memory.getBytes, List.getD_cons_succ, this]
      congr 1; omega

/-- The n bytes written are the n bytes read back. -/
theorem Memory.getBytes_setBytes {m : List Host.Cell} (a : Nat) (bs : List Byte) (hw : Memory.wf m = true) :
    Memory.getBytes (Memory.setBytes m a bs) a bs.length = bs := by
  apply List.ext_getElem
  · rw [Memory.getBytes_length]
  · intro j h1 h2
    have h := Memory.getBytes_getD (Memory.setBytes m a bs) a bs.length j h2
    rw [Memory.get_setBytes a (a + j) bs hw, if_pos (by omega)] at h
    rw [List.getD_eq_getElem _ _ h1] at h
    rw [h, show a + j - a = j by omega, List.getD_eq_getElem _ _ h2]

/-! ### Bytes and values -/

theorem leBytes_length (n v : Nat) : (leBytes n v).length = n := by
  induction n generalizing v with
  | zero => rfl
  | succ n ih => simp [leBytes, ih]

theorem leNat_leBytes (n v : Nat) : leNat (leBytes n v) = v % 256 ^ n := by
  induction n generalizing v with
  | zero => simp [leBytes, leNat, Nat.mod_one]
  | succ n ih =>
    have e : (256 : Nat) ^ (n + 1) = 256 * 256 ^ n := by rw [Nat.pow_succ, Nat.mul_comm]
    rw [leBytes, leNat, ih, e, Nat.mod_mul]
    simp

/-- A 64-bit value read back from its eight bytes. -/
@[simp] theorem leWord_leBytes (v : Word) : leWord (leBytes 8 v.toNat) = v := by
  unfold leWord
  rw [leNat_leBytes, Nat.mod_eq_of_lt (by have := v.isLt; omega)]
  simp

end Sys2Proof.Machine
end

