-- ==== Sys2Proof/Laws/Order.lean ====
section
/-! SUPPORT. What the turns of a bank and the accesses made at once can do, said once: no byte of memory, no packet and no strand
changes, and at a bank one serving is noted. -/

namespace Sys2Proof.Machine

open Sys2Proof

/-! ### Seeing -/

/-- Seeing notes who has seen a write, in its forwards alone. -/
theorem State.sees_cases (s : State) (uid : Nat) (l : Loc) (ea : Word) (n : Nat) :
    ∃ fs, s.sees uid l ea n = { s with forwards := fs } := by
  unfold State.sees
  split
  · exact ⟨s.forwards, rfl⟩
  · split <;> exact ⟨_, rfl⟩

/-! ### The turn of a bank -/

/-- What two states share that differ in the banks' turns and in who has seen a write. -/
def State.SameBytes (s t : State) : Prop :=
  t.mem = s.mem ∧ t.net = s.net ∧ t.flips = s.flips ∧ ∀ j, t.strand j = s.strand j

theorem State.SameBytes.refl (s : State) : s.SameBytes s := ⟨rfl, rfl, rfl, fun _ => rfl⟩
theorem State.SameBytes.trans {s t u : State} (h : s.SameBytes t) (k : t.SameBytes u) : s.SameBytes u :=
  ⟨k.1.trans h.1, k.2.1.trans h.2.1, k.2.2.1.trans h.2.2.1, fun j => (k.2.2.2 j).trans (h.2.2.2 j)⟩

theorem State.sees_same (s : State) (uid : Nat) (l : Loc) (ea : Word) (n : Nat) : s.SameBytes (s.sees uid l ea n) := by
  obtain ⟨fs, h⟩ := s.sees_cases uid l ea n
  rw [h]; exact ⟨rfl, rfl, rfl, fun _ => rfl⟩

theorem State.serveBank_same (s : State) (c b p : Nat) : s.SameBytes (s.serveBank c b p) := by
  refine ⟨rfl, rfl, rfl, fun j => ?_⟩
  simp only [State.serveBank, State.strand, State.cell_updCell]
  split <;> simp_all

/-- An access whose turn it is: elsewhere than at a bank nothing is noted. -/
theorem State.atTurn_cases {s t : State} {c : Nat} {l : Loc} (h : s.atTurn c l = some t) :
    (l.space ≠ .local ∧ t = s) ∨
    (l.space = .local ∧ s.bankTurn l.unit (bankOf l.addr) (portOf c l.unit) = true
      ∧ t = s.serveBank l.unit (bankOf l.addr) (portOf c l.unit)) := by
  unfold State.atTurn at h
  split at h
  · split at h
    · exact .inr ⟨‹_›, ‹_›, (Option.some.inj h).symm⟩
    · cases h
  · exact .inl ⟨by assumption, (Option.some.inj h).symm⟩

/-- A turn that is taken: no earlier request of the cell to that bank stood under way. -/
theorem State.takeTurn_cases {s t : State} {c : Nat} {l : Loc} (h : s.takeTurn c l = some t) :
    s.bankClear c l = true ∧ s.atTurn c l = some t := by
  unfold State.takeTurn at h
  split at h
  · exact ⟨‹_›, h⟩
  · cases h

theorem State.takeTurn_same {s t : State} {c : Nat} {l : Loc} (h : s.takeTurn c l = some t) : s.SameBytes t := by
  obtain ⟨-, rfl⟩ | ⟨-, -, rfl⟩ := State.atTurn_cases (State.takeTurn_cases h).2
  · exact .refl _
  · exact s.serveBank_same _ _ _

theorem State.takeTurns_same {s t : State} {c : Nat} {ls : List Loc} (h : s.takeTurns c ls = some t) : s.SameBytes t := by
  induction ls generalizing s with
  | nil => cases h; exact .refl _
  | cons l ls ih =>
    obtain ⟨u, hu, ht⟩ := Option.bind_eq_some_iff.mp h
    exact (State.takeTurn_same hu).trans (ih ht)

/-! ### Accesses made at once -/

/-- An access that a strand makes at once: its turn has come (10 R182, 15 R287, R292; 01 R20, R30). -/
theorem State.access_cases {s t : State} {i : SlotId} {l : Loc} {n : Nat} {ea : Word} (h : s.access i l n ea = some t) :
    s.mayAccess i l n ea = true ∧ ∃ u, s.takeTurn i.cell l = some u ∧ t = u.sees (u.strand i).uid l ea n := by
  unfold State.access at h
  split at h
  · obtain ⟨u, hu, ht⟩ := Option.map_eq_some_iff.mp h
    exact ⟨‹_›, u, hu, ht.symm⟩
  · cases h

/-- It changes no byte, no packet and no strand. -/
theorem State.access_same {s t : State} {i : SlotId} {l : Loc} {n : Nat} {ea : Word} (h : s.access i l n ea = some t) :
    s.SameBytes t := by
  obtain ⟨-, u, hu, rfl⟩ := State.access_cases h
  exact (State.takeTurn_same hu).trans (u.sees_same _ _ _ _)

theorem State.accessAll_same {s t : State} {i : SlotId} {n : Nat} {ls : List (Loc × Word)}
    (h : s.accessAll i n ls = some t) : s.SameBytes t := by
  induction ls generalizing s with
  | nil => cases h; exact .refl _
  | cons p ls ih =>
    obtain ⟨l, ea⟩ := p
    obtain ⟨u, hu, ht⟩ := Option.bind_eq_some_iff.mp h
    exact (State.access_same hu).trans (ih ht)

end Sys2Proof.Machine
end

