-- ==== Sys2Proof/Laws/Registers.lean ====
section
/-! SUPPORT. Registers: a written register reads back, every other register of the strand reads as before, the constants
discard writes; and what the shared operations of the scalar members can do. -/

namespace Sys2Proof.Machine

open Sys2Proof

/-- A write of the register by the slot leaves no value: the names of R109, and a y register that the twin in the upper die has
written in this cycle (06 R110). -/
def State.discards (s : State) (i : SlotId) : SReg → Bool
  | .zr | .ci | .si => true
  | .y n => s.yTaken i.cell n
  | _ => false

/-- The twin's own write reads back, unless the upper die's write of the cycle stands; the other registers read as before. -/
theorem Pair.readY_writeY (p : Pair) (now : Nat) (u : Bool) (n m : Fin 4) (v : Word) :
    (p.writeY now u n v).readY now u m = if n = m ∧ p.overruled now u n = false then v else p.readY now u m := by
  unfold Pair.writeY
  by_cases h : p.overruled now u n = true
  · simp [h]
  · rw [if_neg h]
    by_cases e : n = m
    · subst e; simp [Pair.readY, h]
    · have : (n : Nat) ≠ m := fun e' => e (Fin.ext e')
      simp [Pair.readY, e, this]

theorem State.pair_setY (s : State) (i : SlotId) (n m : Fin 4) (v : Word) :
    (s.setY i.cell n v).yreg i.cell m = if n = m ∧ s.yTaken i.cell n = false then v else s.yreg i.cell m := by
  have key : ∀ x : Vector Word 4, (x.set n v)[m] = if n = m then v else x[m] := by
    intro x
    by_cases h : n = m
    · subst h; simp
    · have : (n : Nat) ≠ m := fun e => h (Fin.ext e)
      simp [h, this]
  unfold State.setY
  by_cases h : s.twinPresent i.cell = true
  · rw [if_pos h]
    have e : ((s.updPair (pairOf i.cell) fun p => p.writeY s.cycle.toNat (dieOf i.cell == 1) n v).twinPresent i.cell) = true := h
    simp only [State.yreg, h, e, if_true, State.pair_updPair, State.updPair_cycle, Pair.readY_writeY, State.yTaken,
      Bool.true_and]
  · rw [if_neg h]
    have e : ((s.updCell i.cell fun x => { x with y := x.y.set n v }).twinPresent i.cell) = s.twinPresent i.cell := by
      simp only [State.twinPresent, State.cell_updCell]
      split <;> split <;> rfl
    have h' : s.twinPresent i.cell = false := by simpa using h
    simp [State.yreg, e, State.cell_updCell_same, key, State.yTaken, h']

@[simp] theorem State.strand_updCell_y (s : State) (c : Nat) (f : Cell → Vector Word 4) (j : SlotId) :
    (s.updCell c (fun x => { x with y := f x })).strand j = s.strand j := by
  unfold State.strand; rw [State.cell_updCell]; split <;> rfl

/-- A write of y0-y3 changes no strand's own registers. -/
@[simp] theorem State.strand_setY (s : State) (c : Nat) (n : Fin 4) (v : Word) (j : SlotId) :
    (s.setY c n v).strand j = s.strand j := by
  unfold State.setY; split
  · rfl
  · exact State.strand_updCell_y s c (fun x => x.y.set n v) j

@[simp] theorem State.bind_setY (s : State) (c : Nat) (n : Fin 4) (v : Word) (j : Nat) :
    ((s.setY c n v).cell j).bind = (s.cell j).bind := by
  unfold State.setY; split
  · rfl
  · rw [State.cell_updCell]; split <;> rfl

@[simp] theorem State.sgs_setY (s : State) (c : Nat) (n : Fin 4) (v : Word) : (s.setY c n v).sgs = s.sgs := by
  unfold State.setY; split <;> rfl
@[simp] theorem State.mem_setY (s : State) (c : Nat) (n : Fin 4) (v : Word) : (s.setY c n v).mem = s.mem := by
  unfold State.setY; split <;> rfl
@[simp] theorem State.net_setY (s : State) (c : Nat) (n : Fin 4) (v : Word) : (s.setY c n v).net = s.net := by
  unfold State.setY; split <;> rfl

@[simp] theorem State.recOf_setY (s : State) (c : Nat) (n : Fin 4) (v : Word) (j : Nat) :
    (s.setY c n v).recOf j = s.recOf j := by
  simp [State.recOf, State.bindRec, State.sg]
@[simp] theorem State.homeOf_setY (s : State) (c : Nat) (n : Fin 4) (v : Word) (j : Nat) :
    (s.setY c n v).homeOf j = s.homeOf j := by
  simp [State.homeOf]

/-- Memory, and what is under way, are no registers. -/
@[simp] theorem State.mem_writeReg (s : State) (i : SlotId) (r : SReg) (v : Word) : (s.writeReg i r v).mem = s.mem := by
  cases r <;> simp [State.writeReg, State.writeRegIn]
@[simp] theorem State.net_writeReg (s : State) (i : SlotId) (r : SReg) (v : Word) : (s.writeReg i r v).net = s.net := by
  cases r <;> simp [State.writeReg, State.writeRegIn]

/-- Another slot's strand is untouched. -/
theorem State.strand_writeReg_ne (s : State) (i j : SlotId) (r : SReg) (v : Word) (h : i ≠ j) :
    (s.writeReg i r v).strand j = s.strand j := by
  cases r <;> simp [State.writeReg, State.writeRegIn, State.strand_upd, h]

/-- The strand itself changes only in the register written. -/
theorem State.strand_writeReg (s : State) (i : SlotId) (r : SReg) (v : Word) :
    (s.writeReg i r v).strand i = (s.strand i).setWin (s.strand i).sup r v := by
  cases r <;> simp [State.writeReg, State.writeRegIn, Strand.setWin]

/-- A written register reads back (06 R105); zr, ci and si discard writes (06 R109). -/
theorem State.readReg_writeReg_same (s : State) (i : SlotId) (r : SReg) (v : Word) :
    (s.writeReg i r v).readReg i r = if s.discards i r then s.readReg i r else v := by
  cases r with
  | y n => cases h : s.yTaken i.cell n <;> simp [State.writeReg, State.writeRegIn, State.readReg, State.discards, State.pair_setY, h]
  | zr => rfl
  | ci => rfl
  | si => rfl
  | a k => by_cases h : (s.strand i).sup = true <;> simp [State.writeReg, State.writeRegIn, State.readReg, State.discards, Strand.setWin, h]
  | l k => by_cases h : (s.strand i).sup = true <;> simp [State.writeReg, State.writeRegIn, State.readReg, State.discards, Strand.setWin, h]
  | n k => by_cases h : (s.strand i).sup = true <;> simp [State.writeReg, State.writeRegIn, State.readReg, State.discards, Strand.setWin, h]
  | sp => simp [State.writeReg, State.writeRegIn, State.readReg, State.discards, Strand.setWin]

theorem Strand.setWin_ra (t : Strand) (b : Bool) (r : SReg) (v : Word) (k : Fin 8) (h : r ≠ .a k) :
    (t.setWin b r v).ra[k] = t.ra[k] := by
  cases r <;> cases b <;> try rfl
  rename_i j
  have : (j : Nat) ≠ k := fun e => h (by rw [Fin.ext e])
  simp [Strand.setWin, this]
theorem Strand.setWin_rl (t : Strand) (b : Bool) (r : SReg) (v : Word) (k : Fin 8) (h : r ≠ .l k) :
    (t.setWin b r v).rl[k] = t.rl[k] := by
  cases r <;> cases b <;> try rfl
  rename_i j
  have : (j : Nat) ≠ k := fun e => h (by rw [Fin.ext e])
  simp [Strand.setWin, this]
theorem Strand.setWin_rn (t : Strand) (b : Bool) (r : SReg) (v : Word) (k : Fin 8) (h : r ≠ .n k) :
    (t.setWin b r v).rn[k] = t.rn[k] := by
  cases r <;> cases b <;> try rfl
  rename_i j
  have : (j : Nat) ≠ k := fun e => h (by rw [Fin.ext e])
  simp [Strand.setWin, this]
theorem Strand.setWin_sa (t : Strand) (b : Bool) (r : SReg) (v : Word) (k : Fin 8) (h : r ≠ .a k) :
    (t.setWin b r v).sa[k] = t.sa[k] := by
  cases r <;> cases b <;> try rfl
  rename_i j
  have : (j : Nat) ≠ k := fun e => h (by rw [Fin.ext e])
  simp [Strand.setWin, this]
theorem Strand.setWin_sl (t : Strand) (b : Bool) (r : SReg) (v : Word) (k : Fin 8) (h : r ≠ .l k) :
    (t.setWin b r v).sl[k] = t.sl[k] := by
  cases r <;> cases b <;> try rfl
  rename_i j
  have : (j : Nat) ≠ k := fun e => h (by rw [Fin.ext e])
  simp [Strand.setWin, this]
theorem Strand.setWin_sn (t : Strand) (b : Bool) (r : SReg) (v : Word) (k : Fin 8) (h : r ≠ .n k) :
    (t.setWin b r v).sn[k] = t.sn[k] := by
  cases r <;> cases b <;> try rfl
  rename_i j
  have : (j : Nat) ≠ k := fun e => h (by rw [Fin.ext e])
  simp [Strand.setWin, this]
theorem Strand.setWin_sp (t : Strand) (b : Bool) (r : SReg) (v : Word) (h : r ≠ .sp) : (t.setWin b r v).sp = t.sp := by
  cases r <;> cases b <;> first | rfl | exact absurd rfl h

theorem State.yreg_upd (s : State) (i : SlotId) (f : Strand → Strand) (c : Nat) (n : Fin 4) :
    (s.upd i f).yreg c n = s.yreg c n := by
  simp only [State.yreg, State.twinPresent_upd, State.pair_upd, State.cell_upd]
  split
  · rfl
  · split <;> rfl

@[simp] theorem State.siOf_writeReg (s : State) (i : SlotId) (r : SReg) (v : Word) :
    (s.writeReg i r v).siOf i = s.siOf i := by
  simp only [State.siOf, State.strand_writeReg, Strand.setWin_sidx, Strand.setWin_child, Strand.setWin_team]
  cases r <;> simp [State.writeReg, State.writeRegIn]

/-- Every other register reads as before. -/
theorem State.readReg_writeReg_ne (s : State) (i : SlotId) (r q : SReg) (v : Word) (h : r ≠ q) :
    (s.writeReg i r v).readReg i q = s.readReg i q := by
  cases q with
  | a k => simp only [State.readReg, State.strand_writeReg, Strand.setWin_sup, Strand.setWin_ra _ _ _ _ k h, Strand.setWin_sa _ _ _ _ k h]
  | l k => simp only [State.readReg, State.strand_writeReg, Strand.setWin_sup, Strand.setWin_rl _ _ _ _ k h, Strand.setWin_sl _ _ _ _ k h]
  | n k => simp only [State.readReg, State.strand_writeReg, Strand.setWin_sup, Strand.setWin_rn _ _ _ _ k h, Strand.setWin_sn _ _ _ _ k h]
  | sp => simp only [State.readReg, State.strand_writeReg, Strand.setWin_sp _ _ _ _ h]
  | zr => rfl
  | ci => simp only [State.readReg]; cases r <;> simp [State.writeReg, State.writeRegIn]
  | si => simp only [State.readReg, State.siOf_writeReg]
  | y m =>
    simp only [State.readReg]
    cases r with
    | y n =>
      have : n ≠ m := fun e => h (by rw [e])
      simp [State.writeReg, State.writeRegIn, State.pair_setY, this]
    | zr => rfl
    | ci => rfl
    | si => rfl
    | _ => exact State.yreg_upd s i _ _ _

/-! ### Finishing -/

/-- A strand update that touches no register leaves every register. -/
theorem State.readReg_upd (s : State) (i : SlotId) (f : Strand → Strand) (r : SReg)
    (h : ∀ t : Strand, (f t).sup = t.sup ∧ (f t).ra = t.ra ∧ (f t).rl = t.rl ∧ (f t).rn = t.rn ∧ (f t).sa = t.sa
      ∧ (f t).sl = t.sl ∧ (f t).sn = t.sn ∧ (f t).sp = t.sp ∧ (f t).sidx = t.sidx ∧ (f t).child = t.child
      ∧ (f t).team = t.team) : (s.upd i f).readReg i r = s.readReg i r := by
  obtain ⟨h1, h2, h3, h4, h5, h6, h7, h8, h9, h10, h11⟩ := h (s.strand i)
  cases r <;> simp only [State.readReg, State.strand_upd_same, h1, h2, h3, h4, h5, h6, h7, h8, State.homeOf_upd,
    State.siOf, h9, h10, h11, State.recOf_upd, State.yreg_upd]

theorem State.marked_cases (s : State) (i : SlotId) (sw : Bool) : s.marked i sw = s ∨
    (sw = true ∧ s.owes (s.strand i).uid = true ∧
      s.marked i sw = s.upd i (fun t => { t with status := .parked .results, words := 0 })) := by
  unfold State.marked
  split
  · rename_i h; simp only [Bool.and_eq_true] at h; exact .inr ⟨h.1, h.2, rfl⟩
  · exact .inl rfl

@[simp] theorem State.mem_marked (s : State) (i : SlotId) (sw : Bool) : (s.marked i sw).mem = s.mem := by
  unfold State.marked; split <;> rfl
@[simp] theorem State.mem_finishAt (s : State) (i : SlotId) (n : Nat) (sw : Bool) : (s.finishAt i n sw).mem = s.mem := by
  simp [State.finishAt]
@[simp] theorem State.net_marked (s : State) (i : SlotId) (sw : Bool) : (s.marked i sw).net = s.net := by
  unfold State.marked; split <;> rfl
@[simp] theorem State.net_finishAt (s : State) (i : SlotId) (n : Nat) (sw : Bool) : (s.finishAt i n sw).net = s.net := by
  simp [State.finishAt]

theorem State.readReg_marked (s : State) (i : SlotId) (sw : Bool) (r : SReg) :
    (s.marked i sw).readReg i r = s.readReg i r := by
  unfold State.marked; split
  · exact State.readReg_upd s i _ r (fun t => ⟨rfl, rfl, rfl, rfl, rfl, rfl, rfl, rfl, rfl, rfl, rfl⟩)
  · rfl

/-- Ending an instruction leaves every register. -/
theorem State.readReg_finishAt (s : State) (i : SlotId) (n : Nat) (sw : Bool) (r : SReg) :
    (s.finishAt i n sw).readReg i r = s.readReg i r := by
  unfold State.finishAt
  rw [State.readReg_marked, State.readReg_upd s i (fun t => t.retire n) r (fun t => ⟨rfl, rfl, rfl, rfl, rfl, rfl, rfl, rfl, rfl, rfl, rfl⟩)]

/-- Without a switch marker the pc moves past the instruction's words. -/
theorem State.strand_finishAt (s : State) (i : SlotId) (n : Nat) :
    (s.finishAt i n false).strand i = (s.strand i).retire n := by
  simp [State.finishAt]

theorem State.strand_finishAt_ne (s : State) (i j : SlotId) (n : Nat) (sw : Bool) (h : i ≠ j) :
    (s.finishAt i n sw).strand j = s.strand j := by
  unfold State.finishAt State.marked
  split <;> simp [State.strand_upd_ne _ _ _ _ h]

/-- What a scalar member can do: stall, send its result round because a source is a y register of an absent twin, or write
it. -/
theorem scalarOp_cases (s : State) (reads : List SReg) (d : SReg) (v : Word) (n : Nat) (sw : Bool) :
    (s.me.anyPending (d :: reads) = true ∧ scalarOp s reads d v n sw = .next s) ∨
    (s.me.anyPending (d :: reads) = false ∧ reads.any (awayY s) = true ∧ scalarOp s reads d v n sw =
      .next ((s.reply s.cur (.reg d s.me.sup .zext) (leBytes 8 v.toNat)).finishAt s.cur n sw)) ∨
    (s.me.anyPending (d :: reads) = false ∧ reads.any (awayY s) = false ∧
      scalarOp s reads d v n sw = .next ((s.writeReg s.cur d v).finishAt s.cur n sw)) := by
  have hc : (s.writeReg s.cur d v).cur = s.cur := by cases d <;> simp [State.writeReg, State.writeRegIn, State.setY]; split <;> rfl
  unfold scalarOp
  by_cases h : s.me.anyPending (d :: reads) = true
  · exact .inl ⟨h, by rw [if_pos h]⟩
  · have h' : s.me.anyPending (d :: reads) = false := by simpa using h
    by_cases hy : reads.any (awayY s) = true
    · refine .inr (.inl ⟨h', hy, ?_⟩)
      rw [if_neg h, if_pos hy]; rfl
    · refine .inr (.inr ⟨h', by simpa using hy, ?_⟩)
      rw [if_neg h, if_neg hy]
      simp [State.finish, hc]

end Sys2Proof.Machine
end

