-- ==== Sys2Proof/Laws/Shared.lean ====
section
/-! SUPPORT. What each shared operation can do, said once: trap entry, parking, branches, window moves, checked accesses,
requests, packets, releases, takes, and the issue of a vector float instruction. -/

namespace Sys2Proof.Machine

open Sys2Proof

/-! ### Traps and parking -/

/-- A hold changes the strand of its slot alone, and of it only the cycle it can issue in again. -/
theorem State.strand_holdFor (s : State) (i j : SlotId) (n : Nat) :
    (s.holdFor i n).strand j = if i = j then { s.strand j with hold := s.cycle.toNat + n } else s.strand j :=
  State.strand_upd _ _ _ _
@[simp] theorem State.strand_holdFor_same (s : State) (i : SlotId) (n : Nat) :
    (s.holdFor i n).strand i = { s.strand i with hold := s.cycle.toNat + n } := State.strand_upd_same _ _ _
theorem State.strand_holdFor_ne (s : State) (i j : SlotId) (n : Nat) (h : i ≠ j) : (s.holdFor i n).strand j = s.strand j :=
  State.strand_upd_ne _ _ _ _ h
@[simp] theorem State.mem_holdFor (s : State) (i : SlotId) (n : Nat) : (s.holdFor i n).mem = s.mem := rfl
@[simp] theorem State.net_holdFor (s : State) (i : SlotId) (n : Nat) : (s.holdFor i n).net = s.net := rfl
@[simp] theorem State.cycle_holdFor (s : State) (i : SlotId) (n : Nat) : (s.holdFor i n).cycle = s.cycle := rfl
@[simp] theorem State.owes_holdFor (s : State) (i : SlotId) (n u : Nat) : (s.holdFor i n).owes u = s.owes u := rfl

/-- A precise trap changes the strand of its slot alone. -/
theorem State.strand_trapAt (s : State) (i j : SlotId) (c : Cause) (ev : Word) :
    (s.trapAt i c ev).strand j = if i = j then
      { (s.strand j).enterTrap c false (s.strand j).pc ev 0#18 with hold := s.cycle.toNat + 4 } else s.strand j := by
  unfold State.trapAt
  rw [State.strand_holdFor, State.strand_upd]
  split <;> rfl

@[simp] theorem State.mem_trapAt (s : State) (i : SlotId) (c : Cause) (ev : Word) : (s.trapAt i c ev).mem = s.mem := rfl
@[simp] theorem State.net_trapAt (s : State) (i : SlotId) (c : Cause) (ev : Word) : (s.trapAt i c ev).net = s.net := rfl

/-- A late trap is noted in its slot while its strand is there, and is dropped otherwise. -/
theorem State.late_cases (s : State) (i : SlotId) (uid : Nat) (l : LateTrap) :
    ((s.strand i).uid = uid ∧ (s.strand i).status ≠ .free ∧
      s.late i uid l = s.upd i (fun t => { t with late := t.late ++ [l] })) ∨
    (((s.strand i).uid ≠ uid ∨ (s.strand i).status = .free) ∧ s.late i uid l = s) := by
  unfold State.late
  split
  · rename_i h; exact .inl ⟨h.1, h.2, rfl⟩
  · rename_i h
    refine .inr ⟨?_, rfl⟩
    by_cases hu : (s.strand i).uid = uid
    · exact .inr (Classical.byContradiction fun hs => h ⟨hu, hs⟩)
    · exact .inl hu

/-- Parking answers a next state in which the issuing strand alone differs, in its status, words and marker. -/
theorem State.park_next (s : State) (w : Wait) (n : Nat) (sw : Bool) : ∃ t, s.park w n sw = .next t ∧
    t.strand s.cur = { s.strand s.cur with status := .parked w, words := n, marker := sw } ∧
    (∀ j, j ≠ s.cur → t.strand j = s.strand j) ∧ t.mem = s.mem ∧ t.net = s.net :=
  ⟨_, rfl, State.strand_upd_same _ _ _, fun _ h => State.strand_upd_ne _ _ _ _ (Ne.symm h), rfl, rfl⟩

/-! ### Transfers of control -/

/-- A transfer without a switch marker: the pc is the target, and INSTRET counts the instruction. -/
theorem State.strand_transferAt (s : State) (i : SlotId) (target : Word) :
    (s.transferAt i target false).strand i =
      { (s.strand i).retire 0 with pc := target, hold := s.cycle.toNat + 2 } := by
  simp [State.transferAt, State.marked]

theorem State.strand_transferAt_ne (s : State) (i j : SlotId) (target : Word) (sw : Bool) (h : i ≠ j) :
    (s.transferAt i target sw).strand j = s.strand j := by
  unfold State.transferAt State.marked
  split <;> simp [State.strand_upd_ne _ _ _ _ h, State.strand_holdFor_ne _ _ _ _ h]

@[simp] theorem State.mem_transferAt (s : State) (i : SlotId) (target : Word) (sw : Bool) :
    (s.transferAt i target sw).mem = s.mem := by simp [State.transferAt]
@[simp] theorem State.net_transferAt (s : State) (i : SlotId) (target : Word) (sw : Bool) :
    (s.transferAt i target sw).net = s.net := by simp [State.transferAt]

/-- A conditional branch stalls on its register, transfers, or goes on. -/
theorem branch_cases (s : State) (a : SReg) (disp : BitVec 17) (sw : Bool) (taken : Word → Bool) :
    (s.me.anyPending [a] = true ∧ branch s a disp sw taken = .next s) ∨
    (s.me.anyPending [a] = false ∧ taken (s.reg a) = true ∧
      branch s a disp sw taken = .next (s.transferAt s.cur (s.target disp) sw)) ∨
    (s.me.anyPending [a] = false ∧ taken (s.reg a) = false ∧ branch s a disp sw taken = .next (s.finishAt s.cur 1 sw)) := by
  unfold branch
  by_cases h : s.me.anyPending [a] = true
  · exact .inl ⟨h, if_pos h⟩
  · have h' : s.me.anyPending [a] = false := by simpa using h
    by_cases ht : taken (s.reg a) = true
    · exact .inr (.inl ⟨h', ht, by rw [if_neg h, if_pos ht]⟩)
    · exact .inr (.inr ⟨h', by simpa using ht, by rw [if_neg h, if_neg ht]; rfl⟩)

/-- A CALL that moves the window spills when three windows lie below, and else makes a new window. -/
theorem State.moveCall_cases (s : State) (i : SlotId) (target : Word) :
    ((s.strand i).lower.length = 3 ∧ s.moveCall i target = s.trapAt i .spill 0#64) ∨
    ((s.strand i).lower.length ≠ 3 ∧ (s.moveCall i target).strand i =
      { (s.strand i).retire 1 with
        lower := ⟨(s.strand i).ra, (s.strand i).rl⟩ :: (s.strand i).lower
        ra := (s.strand i).rn.set (7 : Fin 8) ((s.strand i).pc + 4#64)
        rl := Vector.replicate 8 0#64
        rn := Vector.replicate 8 0#64
        ready := (s.strand i).ready.filter (fun e => !e.1.newIn ((s.strand i).depth + 1))
        pc := target
        hold := s.cycle.toNat + 2 }) := by
  by_cases h : (s.strand i).lower.length = 3
  · exact .inl ⟨h, if_pos h⟩
  · refine .inr ⟨h, ?_⟩
    unfold State.moveCall
    dsimp only
    rw [if_neg h, State.strand_holdFor_same, State.strand_upd_same]
    rfl

/-- A RET that moves the window ends the strand, asks for a fill, refuses a misaligned return address, or returns. -/
theorem State.moveRet_cases (s : State) (i : SlotId) :
    ((s.strand i).lower = [] ∧ (s.strand i).wspill = 0#32 ∧
      s.moveRet i = s.upd i (fun t => { t with status := .parked .exit, words := 1 })) ∨
    (((s.strand i).lower ≠ [] ∨ (s.strand i).wspill ≠ 0#32) ∧ isAligned (s.strand i).ra[7] 4 = false ∧
      s.moveRet i = s.trapAt i .align (s.strand i).ra[7]) ∨
    ((s.strand i).lower = [] ∧ (s.strand i).wspill ≠ 0#32 ∧ isAligned (s.strand i).ra[7] 4 = true ∧
      s.moveRet i = s.trapAt i .fill 0#64) ∨
    (∃ w ws, (s.strand i).lower = w :: ws ∧ isAligned (s.strand i).ra[7] 4 = true ∧ (s.moveRet i).strand i =
      { (s.strand i).retire 1 with
        lower := ws, rn := (s.strand i).ra, ra := w.a, rl := w.l, pc := (s.strand i).ra[7], hold := s.cycle.toNat + 2 }) := by
  unfold State.moveRet
  cases hl : (s.strand i).lower with
  | nil =>
    by_cases hw : (s.strand i).wspill = 0#32
    · exact .inl ⟨rfl, hw, by simp [hl, hw]⟩
    · by_cases ha : isAligned (s.strand i).ra[7] 4 = true
      · exact .inr (.inr (.inl ⟨rfl, hw, ha, by simp [hl, hw, ha]⟩))
      · exact .inr (.inl ⟨.inr hw, by simpa using ha, by simp [hl, hw, ha]⟩)
  | cons w ws =>
    by_cases ha : isAligned (s.strand i).ra[7] 4 = true
    · exact .inr (.inr (.inr ⟨w, ws, rfl, ha, by simp [hl, ha]⟩))
    · exact .inr (.inl ⟨.inl (by simp), by simpa using ha, by simp [hl, ha]⟩)

/-! ### Requests, packets, results -/

/-- A request adds one flight of the strand for the place, and changes nothing of any strand but TSM of the issuing one. -/
theorem State.request_frame (s : State) (i : SlotId) (op : MemOp) (l : Loc) (n : Nat) (ea : Word) :
    (∃ f : Flight, (s.request i op l n ea).net = s.net ++ [f] ∧ f.who = i ∧ f.uid = (s.strand i).uid ∧
      f.body = .mem op l n ea ∧ f.cls = (s.strand i).dcls ∧ f.slice = (if op.writes then sliceOf i.cell l else none)) ∧
    (∃ m, (s.request i op l n ea).strand i = { s.strand i with tsm := m }) ∧
    (∀ j, j ≠ i → (s.request i op l n ea).strand j = s.strand j) ∧
    (s.request i op l n ea).mem = s.mem ∧ (s.request i op l n ea).cur = s.cur := by
  unfold State.request
  dsimp only
  generalize (if op.writes = true then sliceOf i.cell l else none) = sl
  cases sl with
  | none => exact ⟨⟨_, rfl, rfl, rfl, rfl, rfl, rfl⟩, ⟨(s.strand i).tsm, rfl⟩, fun _ _ => rfl, rfl, rfl⟩
  | some b =>
    exact ⟨⟨_, rfl, rfl, rfl, rfl, rfl, rfl⟩, ⟨_, State.strand_upd_same _ _ _⟩,
      fun j h => State.strand_upd_ne _ _ _ _ (Ne.symm h), rfl, rfl⟩

/-- A packet adds one flight and changes no strand. -/
theorem State.post_frame (s : State) (i : SlotId) (uid : Nat) (body : Body) (c : Nat) (cls : BitVec 3) (hold : Bool) :
    (∃ f : Flight, (s.post i uid body c cls hold).net = s.net ++ [f] ∧ f.body = body ∧ f.dstCell = some c ∧ f.cls = cls) ∧
    (∀ j, (s.post i uid body c cls hold).strand j = s.strand j) ∧ (s.post i uid body c cls hold).mem = s.mem :=
  ⟨⟨_, rfl, rfl, rfl, rfl⟩, fun _ => rfl, rfl⟩

/-- A result that lands later adds one flight and changes no strand. -/
theorem State.reply_frame (s : State) (i : SlotId) (d : Dest) (data : List Byte) :
    (∃ f : Flight, (s.reply i d data).net = s.net ++ [f] ∧ f.body = .reply d data none ∧ f.who = i) ∧
    (∀ j, (s.reply i d data).strand j = s.strand j) ∧ (s.reply i d data).mem = s.mem :=
  ⟨⟨_, rfl, rfl, rfl⟩, fun _ => rfl, rfl⟩

/-! ### Accesses -/

/-- After a check an instruction goes on, stalls, parks for the pager, or traps. -/
theorem afterCheck_cases (r : Chk) (k : Loc → State → Out) :
    (∃ l t, r = .ok l t ∧ afterCheck r k = k l t) ∨ (∃ t, r = .stall t ∧ afterCheck r k = .next t) ∨
    (∃ h p t, r = .absent h p t ∧ afterCheck r k = t.park (.page h p) 0 false) ∨
    (∃ c ev t, r = .bad c ev t ∧ afterCheck r k = t.trap c ev) := by
  cases r with
  | ok l t => exact .inl ⟨l, t, rfl, rfl⟩
  | stall t => exact .inr (.inl ⟨t, rfl, rfl⟩)
  | absent h p t => exact .inr (.inr (.inl ⟨h, p, t, rfl, rfl⟩))
  | bad c ev t => exact .inr (.inr (.inr ⟨c, ev, t, rfl, rfl⟩))

/-- A request that may leave adds its flight and ends the instruction; one that may not stalls, and a load that would wait for
what its lockstep pair holds takes a checkpoint. -/
theorem sendOn_cases (s : State) (op : MemOp) (l : Loc) (n : Nat) (ea : Word) (words : Nat) (sw : Bool) :
    (s.blocked s.me.dcls s.cur.cell l = true ∧ sendOn s op l n ea words sw = .next s) ∨
    (s.blocked s.me.dcls s.cur.cell l = false ∧
      sendOn s op l n ea words sw = .next ((s.request s.cur op l n ea).finishAt s.cur words sw)) ∨
    (s.blocked s.me.dcls s.cur.cell l = false ∧ op.writes = false ∧ s.me.lock = true ∧
      sendOn s op l n ea words sw = .next (s.checkpoint s.cur)) := by
  have hlock (m : Loc) (k : Nat) (ea : Word) : s.awaitsHeld s.cur m k ea = true → s.me.lock = true := by
    intro h; unfold State.awaitsHeld at h; exact (Bool.and_eq_true_iff.mp h).1
  unfold sendOn
  by_cases h : s.blocked s.me.dcls s.cur.cell l = true
  · exact .inl ⟨h, if_pos h⟩
  rw [if_neg h]
  split
  · rename_i hw
    simp only [Bool.and_eq_true, Bool.not_eq_true', Bool.or_eq_true, List.any_eq_true] at hw
    refine .inr (.inr ⟨by simpa using h, hw.1, ?_, rfl⟩)
    rcases hw.2 with h | ⟨m, -, h⟩
    exacts [hlock _ _ _ h, hlock _ _ _ h]
  · refine .inr (.inl ⟨by simpa using h, ?_⟩)
    rw [State.finish, (State.request_frame s s.cur op l n ea).2.2.2.2]

/-- A naturally aligned access stalls on a pending register, or does what its check lets it do. -/
theorem accessOp_cases (s : State) (reads : List SReg) (ea : Word) (n : Nat) (p : Perm) (op : MemOp) (words : Nat) (sw : Bool) :
    (s.me.anyPending reads = true ∧ accessOp s reads ea n p op words sw = .next s) ∨
    (s.me.anyPending reads = false ∧ accessOp s reads ea n p op words sw =
      afterCheck (s.check (s.whoAt s.cur) ea n n p noPromote) (fun l s => sendOn s op l n ea words sw)) := by
  unfold accessOp
  by_cases h : s.me.anyPending reads = true
  · exact .inl ⟨h, if_pos h⟩
  · exact .inr ⟨by simpa using h, by rw [if_neg h]; rfl⟩

/-- An access of a barrier or monitored word raises ADDR in class 3 and is checked like any other elsewhere. -/
theorem wordAccess_cases (s : State) (ea : Word) (p : Perm) (promote : Nat → Bool) (k : Loc → State → Out) :
    (addrClass ea = 3 ∧ wordAccess s ea p promote k = s.trap .addr ea) ∨
    (addrClass ea ≠ 3 ∧ wordAccess s ea p promote k = afterCheck (s.check (s.whoAt s.cur) ea 8 8 p promote) k) := by
  unfold wordAccess
  split
  · rename_i h; exact .inl ⟨h, rfl⟩
  · rename_i h; exact .inr ⟨h, rfl⟩

/-- A request of a lockstep strand that returns a value stands between two checkpoints, and a mismatch makes the first a
rollback. -/
theorem checkpointed_cases (s : State) (returns : Bool) (k : State → Out) :
    ((returns = false ∨ s.me.lock = false) ∧ checkpointed s returns k = k s) ∨
    (returns = true ∧ s.me.lock = true ∧ s.mismatched s.cur = true ∧
      checkpointed s returns k = .next (s.checkpoint s.cur)) ∨
    (returns = true ∧ s.me.lock = true ∧ s.mismatched s.cur = false ∧
      checkpointed s returns k = thenCheckpoint s.cur (k (s.checkpoint s.cur))) := by
  unfold checkpointed
  cases returns <;> cases hl : s.me.lock <;> cases hm : s.mismatched s.cur <;> simp

/-! ### Releases and takes -/

/-- A parked release takes a checkpoint first when its pair holds effects or its twins differ, stays while it waits, or has its
effect. -/
theorem State.tryRelease_cases (s : State) (i : SlotId) (sc : Scope) (op : RelOp)
    (h : (s.strand i).status = .parked (.release sc op)) :
    (s.relChecks i sc op = true ∧ (s.mismatched i = true ∨ s.holding i = true) ∧ s.tryRelease i = s.checkpoint i) ∨
    s.tryRelease i = s ∨ s.tryRelease i = s.releaseOp i sc op ∨
    (s.relChecks i sc op = true ∧ s.tryRelease i = (s.releaseOp i sc op).checkpoint i) := by
  unfold State.tryRelease
  rw [h]
  dsimp only
  generalize s.released i (op.awaits sc) _ = rel
  by_cases hm : (s.relChecks i sc op && (s.mismatched i || s.holding i)) = true
  · rw [if_pos hm]; simp only [Bool.and_eq_true, Bool.or_eq_true] at hm; exact .inl ⟨hm.1, hm.2, rfl⟩
  rw [if_neg hm]
  by_cases hw : (!rel || s.relClosed i op) = true
  · exact .inr (.inl (if_pos hw))
  rw [if_neg hw]
  split
  · exact .inr (.inr (.inl rfl))
  by_cases hs : s.relChecks i sc op = true
  · rw [if_pos hs]; exact .inr (.inr (.inr ⟨hs, rfl⟩))
  · rw [if_neg hs]; exact .inr (.inr (.inl rfl))

/-- A releasing instruction parks its strand and tries at once. -/
theorem State.release_next (s : State) (sc : Scope) (op : RelOp) (words : Nat) (sw : Bool) : ∃ t : State,
    s.release sc op words sw = .next (t.tryRelease s.cur) ∧
    t.strand s.cur = { s.strand s.cur with status := .parked (.release sc op), words := words, marker := sw } ∧
    (∀ j, j ≠ s.cur → t.strand j = s.strand j) ∧ t.mem = s.mem ∧ t.net = s.net :=
  ⟨_, rfl, State.strand_upd_same _ _ _, fun _ h => State.strand_upd_ne _ _ _ _ (Ne.symm h), rfl, rfl⟩

/-- A take stalls on its destination, waits for its register, or is served. -/
theorem takeOp_cases (s : State) (kind : TakeKind) (m : PostIx) (d : SReg) (sw : Bool) :
    (s.me.anyPending [d] = true ∧ takeOp s kind m d sw = .next s) ∨
    (s.me.anyPending [d] = false ∧ ∃ t : State,
      t = s.upd s.cur (fun t => { t with status := .parked (.take kind m d s.tick), words := 1, marker := sw }) ∧
      (((s.cell s.cur.cell).posts[m].present = false ∧ takeOp s kind m d sw = .next t) ∨
        ((s.cell s.cur.cell).posts[m].present = true ∧
          takeOp s kind m d sw = .next ((t.serveTake s.cur kind m d).settle s.cur.cell m settleBound)))) := by
  unfold takeOp
  by_cases h : s.me.anyPending [d] = true
  · exact .inl ⟨h, if_pos h⟩
  · refine .inr ⟨by simpa using h, _, rfl, ?_⟩
    rw [if_neg h]
    dsimp only
    by_cases hp : (s.cell s.cur.cell).posts[m].present = true
    · exact .inr ⟨hp, by rw [if_pos hp]; rfl⟩
    · exact .inl ⟨by simpa using hp, by rw [if_neg hp]⟩

/-! ### Vector results -/

/-- A vector result changes the one register, and the instruction ends. -/
theorem finishV_next (s : State) (d : VReg) (v : Nat) (words : Nat) : ∃ t, finishV s d v words false = .next t ∧
    t.strand s.cur = ((s.strand s.cur).setV d v).retire words ∧ (∀ j, j ≠ s.cur → t.strand j = s.strand j) ∧
    t.mem = s.mem ∧ t.net = s.net := by
  refine ⟨_, rfl, ?_, fun j h => ?_, by simp, by simp⟩
  · show ((s.upd s.cur (·.setV d v)).finishAt s.cur words false).strand s.cur = _
    rw [State.strand_finishAt, State.strand_upd_same]
  · show ((s.upd s.cur (·.setV d v)).finishAt s.cur words false).strand j = _
    rw [State.strand_finishAt_ne _ _ _ _ _ (Ne.symm h), State.strand_upd_ne _ _ _ _ (Ne.symm h)]

/-- A predicate result changes the one register, and the instruction ends. -/
theorem finishK_next (s : State) (d : KReg) (m : BitVec 32) (words : Nat) : ∃ t, finishK s d m words false = .next t ∧
    t.strand s.cur = ((s.strand s.cur).setK d m).retire words ∧ (∀ j, j ≠ s.cur → t.strand j = s.strand j) ∧
    t.mem = s.mem ∧ t.net = s.net := by
  refine ⟨_, rfl, ?_, fun j h => ?_, by simp, by simp⟩
  · show ((s.upd s.cur (·.setK d m)).finishAt s.cur words false).strand s.cur = _
    rw [State.strand_finishAt, State.strand_upd_same]
  · show ((s.upd s.cur (·.setK d m)).finishAt s.cur words false).strand j = _
    rw [State.strand_finishAt_ne _ _ _ _ _ (Ne.symm h), State.strand_upd_ne _ _ _ _ (Ne.symm h)]

/-- A vector float instruction stalls while its cell's last one is too near, and else issues and is noted. -/
theorem vfpIssue_cases (s : State) (go : State → Out) :
    (s.vfpHeld = true ∧ vfpIssue s go = .next s) ∨
    (s.vfpHeld = false ∧
      vfpIssue s go = go (s.updCell s.cur.cell (fun x => { x with lastVfp := some s.cycle.toNat }))) := by
  unfold vfpIssue
  cases s.vfpHeld <;> simp

end Sys2Proof.Machine
end

