-- ==== Sys2Proof/Tests/Slice0.lean ====
section
/-! SUPPORT. Tests: ill-formed terms that each check of WellFormed refuses; words of the spec's own encodings, decoded; single
steps with results worked out from the spec; and, for each statement, states and operands that meet its hypotheses. -/

namespace Sys2Proof.Tests

set_option Elab.async false

open Sys2Proof Sys2Proof.Machine Sys2Proof.Claims

/-! ### Ill-formed terms, one for each check -/

theorem test_wf_destination : (Instr.add false .ci .zr (.reg .zr) false).wf = false
    ∧ (Instr.loop .si 0#17 false).wf = false ∧ (Instr.csrr .ci 0 false).wf = false := by decide
theorem test_wf_field : (Instr.bfx .zr .zr 1#6 63#6 false).wf = false ∧ (Instr.bfi .zr .zr 63#6 1#6 false).wf = false
    ∧ (Instr.bfx .zr .zr 0#6 63#6 false).wf = true := by decide
theorem test_wf_token : (Instr.cpy .zr .zr (.reg .zr) 0#32 false).wf = false
    ∧ (Instr.gath .sp .zr (.reg .zr) 0#16 0 false).wf = false ∧ (Instr.cpyc (.y 0) .zr (.reg .zr) 0#32 false).wf = false := by
  decide
theorem test_wf_element_pair : (Instr.ldf 8 .zr (.imm 0#12) false).wf = false
    ∧ (Instr.stf 8 .zr (.imm 0#12) false).wf = false := by decide
theorem test_wf_vector_types : (Instr.vbcast .e4m3 0 .zr false).wf = false ∧ (Instr.vredadd .e5m2 .zr 0 false).wf = false
    ∧ (Instr.vcvt .f32 .f32 false 0 0 false).wf = false ∧ (Instr.vcvt .f16 .f32 true 0 0 false).wf = false := by decide
theorem test_wf_block_count : (Instr.vqblk (.l 0) .zr (.reg .zr) .f32 .e4m3 0#9 false).wf = false
    ∧ (Instr.vdqblk .zr .zr (.reg .zr) .f32 .q4 257#9 false).wf = false := by decide
theorem test_wf_hire_mods : (Instr.hire 0 true true false false .zr .zr false).wf = false := by decide
theorem test_wf_ship : (Instr.fship 13#6 false .ci .zr (.reg .zr) false).wf = false
    ∧ (Instr.fship 13#6 true .ci .zr (.reg .zr) false).wf = true := by decide
theorem test_wf_domain : (Instr.steald .self false).wf = false ∧ (Instr.steald .sys false).wf = false := by decide
theorem test_wf_launch : (Instr.launch (.l 7) .zr (.reg .zr) 0#32 false).wf = false
    ∧ (Instr.launch .zr .zr (.reg .zr) 1#32 false).wf = false := by decide
theorem test_wf_read_only : (Instr.csrw 11 (.reg .zr) false).wf = false ∧ (Instr.csrs 20 (.reg .zr) false).wf = false
    ∧ (Instr.csrc 23 (.reg .zr) false).wf = false := by decide

/-! ### Words written out from the encodings of the spec -/

/-- 04 R68, 09 R169, R171, R170. -/
theorem test_decode_scalar : decode [0x8CA4A008#32] = .ok (.divu true (.l 0) (.l 1) (.reg (.l 2)) false, [])
    ∧ decode [0x1CC62C68#32] = .ok (.bfx (.l 3) (.l 4) 12#6 7#6 false, [])
    ∧ decode [0x00002062#32, 0#32, 0x1000#32] = .ok (.li (.l 0) (.lit 0x100000000000#64) false, [])
    ∧ decode [0xFFF4A414#32] = .ok (.addi (.l 1) (.l 1) (.imm 0xFFF#12) true, []) := ⟨rfl, rfl, rfl, rfl⟩
/-- 09 R172 and the program of 22: mkca l0, ci, l1 and mkca a5, n0, a5. -/
theorem test_decode_address : decode [0x089D2078#32] = .ok (.mkca (.l 0) .ci (.reg (.l 1)) false, [])
    ∧ decode [0x08581478#32] = .ok (.mkca (.a 5) (.n 0) (.reg (.a 5)) false, []) := ⟨rfl, rfl⟩
/-- 09 R174 to R179. -/
theorem test_decode_control : decode [0xFFFC38B8#32] = .ok (.loop (.l 6) 0x1FFF8#17 false, [])
    ∧ decode [0x000500B0#32] = .ok (.jmpr (.l 2) false, []) ∧ decode [0x020500B0#32] = .ok (.callr (.l 2) false, [])
    ∧ decode [0x040000B0#32] = .ok (.ret false, []) ∧ decode [0x000008A0#32] = .ok (.jmp 2#22 false, []) :=
  ⟨rfl, rfl, rfl, rfl, rfl⟩
/-- 10 R181: ldd l1, [l0 + 0] with its switch marker (02 R34), and the program of 22. -/
theorem test_decode_access : decode [0x000424F4#32] = .ok (.ldd (.l 1) (.l 0) (.imm 0#12) true, [])
    ∧ decode [0x00028120#32] = .ok (.stv 0 (.a 5) (.imm 0#12) false, []) := ⟨rfl, rfl⟩
/-- 10 R186 to R199. -/
theorem test_decode_memory : decode [0x08D5BD39#32, 0x1000#32, 0#32]
      = .ok (.cpy (.l 7) (.l 3) (.reg (.l 5)) 0x1000#32 false, [])
    ∧ decode [0x80942940#32] = .ok (.aadd true (.l 2) (.l 0) (.reg (.l 1)) false, [])
    ∧ decode [0x1A942948#32] = .ok (.fship 13#6 false (.l 2) (.l 0) (.reg (.l 1)) false, [])
    ∧ decode [0x00943551#32, 0x200#32, 9#32] = .ok (.ndot .f16 (.l 5) (.l 0) (.reg (.l 1)) 512#32 false, []) :=
  ⟨rfl, rfl, rfl, rfl⟩
theorem test_decode_sync : decode [0x08000158#32] = .ok (.rel .group false, [])
    ∧ decode [0x28000158#32] = .ok (.acq .group false, [])
    ∧ decode [0x0050E168#32] = .ok (.waita .zr (.a 1) (.reg (.a 5)) false, []) := ⟨rfl, rfl, rfl⟩
/-- 11 R202, R204, R208, R212. -/
theorem test_decode_vector : decode [0x623009D8#32] = .ok (.vcvt .e4m3 .f32 true 2 0 false, [])
    ∧ decode [0x321011C0#32] = .ok (.vfma .f16 4 0 1 false, [])
    ∧ decode [0x701009C8#32] = .ok (.vand .i8 2 0 1 false, [])
    ∧ decode [0x0A9025D0#32] = .ok (.vredadd .f16 (.l 1) 0 false, [])
    ∧ decode [0x009435E1#32, 0x819#32, 0#32] = .ok (.vqblk (.l 5) (.l 0) (.reg (.l 1)) .f16 .qf 8#9 false, []) := by decide
/-- 12 R215 to R238 and the programs of 19 and 21. -/
theorem test_decode_hire : decode [0x28062E00#32] = .ok (.hire 0 true false true false (.l 3) (.l 4) false, [])
    ∧ decode [0x30062E00#32] = .ok (.hire 0 false true true false (.l 3) (.l 4) false, [])
    ∧ decode [0x10943A09#32, 0x001F0003#32, 0xFFFF#32]
      = .ok (.mma .f16 true 0 (.l 6) (.l 0) (.reg (.l 1)) 3#16 0x1F#16 0xFFFF#16 false, [])
    ∧ decode [0x00103610#32] = .ok (.waitb (.l 5) 1 false, []) ∧ decode [0x03F02A10#32] = .ok (.accget (.l 2) 31#5 false, [])
    ∧ decode [0x00940219#32, 0x001F0003#32, 0x9400#32]
      = .ok (.accstm (.l 0) (.reg (.l 1)) 3#16 0x1F#16 .f32 148#24 false, [])
    ∧ decode [0x06200188#32] = .ok (.twsig 2 false, []) ∧ decode [0x08202188#32] = .ok (.twwait (.l 0) 2 false, []) := by
  decide
/-- 13 R239, R249. -/
theorem test_decode_rank : decode [0x00042E42#32, 0x04070200#32, 9#32]
      = .ok (.rank (.l 3) (.l 0) (.lit 0x904070200#64) false, [])
    ∧ decode [0x08140240#32] = .ok (.rtld (.l 0) 1 false, []) ∧ decode [0x0A202E40#32] = .ok (.rcnt (.l 3) 2 false, [])
    ∧ decode [0x04943660#32] = .ok (.twalk (.l 5) (.l 0) (.reg (.l 1)) false, [])
    ∧ decode [0x0C043660#32] = .ok (.tdrop (.l 5) (.l 0) false, []) := ⟨rfl, rfl, rfl, rfl, rfl⟩
/-- 14 R261, R266, R270, R276, R279. -/
theorem test_decode_posts : decode [0x00A4C570#32] = .ok (.put 17 (.l 1) (.reg (.l 2)) false, [])
    ∧ decode [0x0608AD70#32] = .ok (.takef (.l 3) 17 false, []) ∧ decode [0x00248D78#32] = .ok (.send 3 (.l 1) 2 false, [])
    ∧ decode [0x08302178#32] = .ok (.clsr (.l 0) 3 false, []) := ⟨rfl, rfl, rfl, rfl⟩
theorem test_decode_strands : decode [0x00063980#32] = .ok (.spawn (.l 6) (.l 4) false, [])
    ∧ decode [0x06050180#32] = .ok (.go (.l 2) false, []) ∧ decode [0x08000D80#32] = .ok (.steald .tile false, [])
    ∧ decode [0x00943D91#32, 2#32, 0#32] = .ok (.launch (.l 7) (.l 0) (.reg (.l 1)) 2#32 false, []) :=
  ⟨rfl, rfl, rfl, rfl⟩
theorem test_decode_system : decode [0x00B00300#32] = .ok (.trap (.reg (.l 3)) false, [])
    ∧ decode [0x0403A300#32] = .ok (.csrr (.l 0) 7 false, []) ∧ decode [0x06901F00#32] = .ok (.csrw 7 (.reg (.l 1)) false, [])
    ∧ decode [0x18040300#32] = .ok (.ctxsv (.l 0) false false, []) := ⟨rfl, rfl, rfl, rfl⟩
/-- 04 R64, R71, R80: MMA has no one-word form; a register of the other kind. -/
theorem test_decode_refuses : (∀ r, decode [0x00000208#32] ≠ .ok r) := by
  intro r h; exact absurd h (by simp [show decode [0x00000208#32] = .error _ from rfl])

/-! ### States and operands that meet the hypotheses of the statements

For each statement, by its name, and each of its clauses that has hypotheses. -/

/-- A strand at its first instruction, in slot 0 of cell 0. -/
def w0 : State := State.reset.withFetchWord 32 0
/-- The same with its strand changed. -/
def st (f : Strand → Strand) : State := w0.upd ⟨0, 0⟩ f
/-- The same with cell 0 changed. -/
def ce (f : Cell → Cell) : State := w0.updCell 0 f
/-- A handler that issues. -/
def h0 : State := { w0 with cur := ⟨0, 4⟩ }
/-- The strand with a0 set. -/
def stA (v : Word) : State := st (fun t => { t with ra := t.ra.set 0 v })
/-- The strand parked. -/
def parked (w : Wait) : State := st (fun t => { t with status := .parked w, words := 1 })
/-- The strand in the supervisor, and in lockstep. -/
def su : State := st (fun t => { t with sup := true })
def lk : State := st (fun t => { t with lock := true })
/-- A flight of the strand that has reached its end. -/
def flight (b : Body) (dst : Option Nat) : Flight where
  who := ⟨0, 0⟩
  uid := 0
  sup := false
  body := b
  srcCell := 0
  dstCell := dst
  cls := 0#3
  part := 1
  packet := false
  pos := ⟨0, 0⟩
  dst := ⟨0, 0⟩
  slice := none
  heldBy := none
def flying (b : Body) (dst : Option Nat) : State := { w0 with net := [flight b dst] }
/-- The flight stands at its memory, or at its cell's port, since the cycle before. -/
def stood (b : Body) (dst : Option Nat) : Flight := { flight b dst with reached := some 0 }
def landed (b : Body) (dst : Option Nat) : State := { w0 with cycle := 1#64, net := [stood b dst] }
/-- A load of the strand is under way. -/
def owing : State := flying (.reply (.reg (.l 1) false .zext) [1#8] none) (some 0)
/-- A word of local memory of cell 0, and its place. -/
def ownAt (a : Nat) : Loc := ⟨.local, 0, a⟩

/-- Handle 2 with no page present, and with its page 0 in HBM and translated. -/
def hd : Handle := { Handle.zero with
  v := true, pr := true, pw := true, tenant := 1#5, limit := 0xFFF#36, pmap := 0x10000000#64 }
def pg : Page := { Page.zero with p := true, layer := 1#2, frame := 1#36 }
def absent : State := { w0 with handles := w0.handles.set 2 hd }
def hm : State := ({ absent with pages := absent.pages.set 0x10000000 pg } : State).updHub 0
  (fun h => { h with tlb := [⟨1, 2, 0, 0, 0, 1, 1⟩] })
def hmA (v : Word) : State := hm.upd ⟨0, 0⟩ (fun t => { t with ra := t.ra.set 0 v })
/-- An address of it, and the place. -/
def ea0 : Word := 0x2000002000000000#64
def pl (off : Nat) : Loc := ⟨.hbm, 0, 4096 + off⟩

/-- A load of the last word of local memory, and a store to two bytes of a column. -/
def loadBody : Body := .mem (.load (.reg (.l 0) false .zext) []) (ownAt 0xBFF8) 8 0xBFF8#64
def storeBody : Body := .mem (.store [1#8, 2#8]) (ownAt 30) 2 30#64
/-- ScalarResults, ScalarStays: the widest field is at its bounds. -/
theorem hyp_scalar : (∀ r ∈ scalarRows w0 true (.l 0) (.a 0) (.reg .zr) (.imm 5#12) 63#6 63#6 0#6 false, Clear w0 r)
    ∧ (63#6).toNat + (0#6).toNat + 1 ≤ 64 ∧ (0#6).toNat + (63#6).toNat + 1 ≤ 64 := by
  refine ⟨fun r hr => ?_, by decide, by decide⟩
  have h : (scalarRows w0 true (.l 0) (.a 0) (.reg .zr) (.imm 5#12) 63#6 63#6 0#6 false).all
      (fun r => !w0.me.anyPending (r.d :: r.reads) && !r.reads.any (awayY w0)) = true := by decide +kernel
  have := List.all_eq_true.mp h r hr
  simp only [Bool.and_eq_true, Bool.not_eq_true'] at this
  exact ⟨this.1, this.2⟩
theorem hyp_scalar_stays : (st (fun t => { t with pend := 0x100#24 })).me.anyPending [.l 0, .zr] = true
    ∧ w0.me.anyPending [.l 0, .y 3] = false ∧ [SReg.y 3].any (awayY w0) = true := by decide +kernel
theorem hyp_transfers : w0.me.anyPending [.a 0] = false ∧ w0.reg (.a 0) ≠ 1#64 ∧ (stA 1#64).reg (.a 0) = 1#64
    ∧ (w0.reg (.a 0)).toNat % 4 = 0 ∧ ((stA 1#64).reg (.a 0)).toNat % 4 ≠ 0 := by decide +kernel
theorem hyp_calls : w0.cur.slot ≠ 4 ∧ w0.owes w0.me.uid = false ∧ w0.me.pend = 0#24 ∧ w0.me.lower.length ≠ 3
    ∧ (let s := st (fun t => { t with lower := [⟨t.ra, t.rl⟩, ⟨t.ra, t.rl⟩, ⟨t.ra, t.rl⟩] })
       s.cur.slot ≠ 4 ∧ s.owes s.me.uid = false ∧ s.me.pend = 0#24 ∧ s.me.lower.length = 3)
    ∧ (stA 3#64).cur.slot ≠ 4 ∧ (stA 3#64).me.anyPending [.a 0] = false ∧ ((stA 3#64).reg (.a 0)).toNat % 4 ≠ 0
    ∧ h0.cur.slot = 4 := by decide +kernel
theorem hyp_returns : (let s := st (fun t => { t with lower := [⟨t.ra, t.rl⟩] })
      s.cur.slot ≠ 4 ∧ s.owes s.me.uid = false ∧ s.me.pend = 0#24 ∧ s.me.lower ≠ [] ∧ s.me.ra[(7 : Fin 8)].toNat % 4 = 0)
    ∧ w0.me.lower = [] ∧ w0.me.wspill = 0#32
    ∧ (let s := st (fun t => { t with wspill := 1#32 })
       s.owes s.me.uid = false ∧ s.me.pend = 0#24 ∧ s.me.lower = [] ∧ s.me.wspill ≠ 0#32 ∧ s.me.ra[(7 : Fin 8)].toNat % 4 = 0)
    ∧ (let s := st (fun t => { t with wspill := 1#32, ra := t.ra.set 7 2#64 })
       s.owes s.me.uid = false ∧ s.me.pend = 0#24 ∧ s.me.wspill ≠ 0#32 ∧ s.me.ra[(7 : Fin 8)].toNat % 4 ≠ 0) := by
  decide +kernel
theorem hyp_window_moves : owing.cur.slot ≠ 4 ∧ owing.owes owing.me.uid = true ∧ owing.me.anyPending [.a 0] = false
    ∧ (owing.reg (.a 0)).toNat % 4 = 0
    ∧ (let s := parked (.window (.call 0#64))
       s.owes (s.strand ⟨0, 0⟩).uid = false ∧ (s.strand ⟨0, 0⟩).pend = 0#24
       ∧ (s.strand ⟨0, 0⟩).status = .parked (.window (.call 0#64)) ∧ (s.strand ⟨0, 0⟩).lower.length ≠ 3)
    ∧ (let s := (parked (.window .ret)).upd ⟨0, 0⟩ (fun t => { t with lower := [⟨t.ra, t.rl⟩] })
       s.owes (s.strand ⟨0, 0⟩).uid = false ∧ (s.strand ⟨0, 0⟩).pend = 0#24
       ∧ (s.strand ⟨0, 0⟩).status = .parked (.window .ret) ∧ (s.strand ⟨0, 0⟩).lower ≠ []
       ∧ (s.strand ⟨0, 0⟩).ra[(7 : Fin 8)].toNat % 4 = 0) := by decide +kernel
/-- AccessIssue, RequestFrame: LDV of the last 16 bytes of local memory. -/
theorem hyp_access : (stA 0xBFF0#64).me.anyPending [.a 0] = false
    ∧ (stA 0xBFF0#64).check ((stA 0xBFF0#64).whoAt ⟨0, 0⟩) 0xBFF0#64 16 16 .read noPromote
      = .ok (ownAt 0xBFF0) (stA 0xBFF0#64)
    ∧ (stA 0xBFF0#64).blocked (stA 0xBFF0#64).me.dcls 0 (ownAt 0xBFF0) = false
    ∧ (stA 0xBFF0#64).awaitsHeld ⟨0, 0⟩ (ownAt 0xBFF0) 16 0xBFF0#64 = false
    ∧ w0.memOk ∧ w0.cur.cell < 2 ^ 20 ∧ w0.me.lock = false := by
  refine ⟨?_, rfl, ?_, ?_, rfl, ?_, ?_⟩ <;> decide +kernel
/-- A lockstep strand whose pair holds its store to the first word of the page. -/
def hmHeld : State :=
  { hm.upd ⟨0, 0⟩ (fun t => { t with lock := true }) with
    net := [{ flight (.mem (.store (leBytes 8 7)) (pl 0) 8 ea0) none with heldBy := some 0 }] }
/-- AccessOutcomes: a register is pending; a class is closed; a pair holds a store to the word; a translation is walked; a page
is absent; a check fails. -/
theorem hyp_access_outcomes : (st (fun t => { t with pend := 1#24 })).me.anyPending [.a 0] = true
    ∧ (∃ u, ({ hm with closed := 1#8 } : State).check (w0.whoAt ⟨0, 0⟩) ea0 8 8 .read noPromote = .ok (pl 0) u
      ∧ u.blocked 0#3 0 (pl 0) = true)
    ∧ (∃ u, hmHeld.check (hmHeld.whoAt ⟨0, 0⟩) ea0 8 8 .read noPromote = .ok (pl 0) u ∧ u.blocked 0#3 0 (pl 0) = false
      ∧ u.awaitsHeld ⟨0, 0⟩ (pl 0) 8 ea0 = true)
    ∧ (∃ u, (hm.updHub 0 (fun h => { h with tlb := [] })).check (w0.whoAt ⟨0, 0⟩) ea0 8 8 .read noPromote = .stall u)
    ∧ (∃ u, absent.check (absent.whoAt ⟨0, 0⟩) ea0 8 8 .read noPromote = .absent 2 0 u)
    ∧ w0.check (w0.whoAt ⟨0, 0⟩) 0x4000000000000000#64 8 8 .read noPromote = .bad .addr 0x4000000000000000#64 w0 := by
  refine ⟨?_, ⟨_, rfl, ?_⟩, ⟨_, rfl, ?_, ?_⟩, ⟨_, rfl⟩, ⟨_, rfl⟩, rfl⟩ <;> decide +kernel
/-- 10 R182, 15 R298: the load comes after a checkpoint, which lets the store go. -/
theorem test_load_after_held : (match execLdd (.l 0) (.a 0) (.imm 0#12) false (hmHeld.upd ⟨0, 0⟩ (fun t =>
      { t with ra := t.ra.set 0 ea0 })) with
    | .next t => (t.pair 0).checkpoints == 1 && t.net.length == 1 && t.net.all (fun f => f.heldBy.isNone)
        && (t.strand ⟨0, 0⟩).pc == w0.me.pc
    | _ => false) = true := by decide +kernel
/-- AddressChecks, at the bounds of each clause: the classes, the end of local memory, the lockstep reserve, and a handle's
number, owner, limit, privacy and permission. -/
theorem hyp_address_checks : 4 ≤ (0x4000000000000000#64).toNat / 2 ^ 60 ∧ (0xC000#64).toNat / 2 ^ 60 = 0
    ∧ 0xC000 ≤ (0xC000#64).toNat ∧ (0xBFFF#64).toNat < 0xC000 ∧ (0xBFFF#64).toNat % 8 ≠ 0 ∧ (0xB000#64).toNat % 8 = 0
    ∧ 0xB000 ≤ (0xB000#64).toNat ∧ (lk.whoAt ⟨0, 0⟩).lock = true ∧ (w0.whoAt ⟨0, 0⟩).lock = false
    ∧ (0xAFF8#64).toNat < 0xB000
    ∧ (0x2000000000000000#64).toNat / 2 ^ 60 = 2 ∧ (0x2000000000000000#64).toNat / 2 ^ 36 % 2 ^ 24 = 0
    ∧ ea0.toNat / 2 ^ 60 = 2 ∧ ea0.toNat / 2 ^ 36 % 2 ^ 24 = 2 ∧ (ea0 + 1#64).toNat % 8 ≠ 0
    ∧ (w0.handle 2).v = false ∧ (hm.handle 2).v = true ∧ (hm.handle 2).tenant.toNat = (hm.whoAt ⟨0, 0⟩).part
    ∧ (hm.handle 2).limit.toNat + 1 < (ea0 + 0xFF9#64).toNat % 2 ^ 36 + 8
    ∧ (ea0 + 0xFF8#64).toNat % 2 ^ 36 + 8 ≤ (hm.handle 2).limit.toNat + 1
    ∧ (let e : Handle := { hd with priv := true }; e.priv = true ∧ (w0.whoAt ⟨0, 0⟩).sup = false ∧ e.ext.toNat % 2 ^ 24 = 0)
    ∧ (hm.handle 2).px = false := by decide +kernel
/-- The same: another cell of the team by its home number, its reserve, a number that no cell has, and windows of both kinds. -/
def hostWindow (d0 : Word) : WindowEntry := ⟨d0, 0x1000#64, 0x100#64, 0x5000000002000#64⟩
def windowed (d0 : Word) : State := w0.updPart 1 (fun p => { p with windows := [(3, hostWindow d0)] })
theorem hyp_class_1 : (0x100001000000BFF8#64).toNat / 2 ^ 60 = 1
    ∧ w0.teamCell 0 0 = some 0 ∧ w0.teamCell 0 0x10 = none ∧ lk.teamCell 0 0 = some 0
    ∧ (let ea := 0x100000000000AFF8#64
       ea.toNat / 2 ^ 56 % 16 * 65536 + ea.toNat / 2 ^ 40 % 65536 = 0 ∧ ea.toNat / 65536 % 2 ^ 24 = 0 ∧ ea.toNat % 65536 < 0xB000)
    ∧ (let ea := 0x100010000000BFF8#64
       ea.toNat / 2 ^ 56 % 16 * 65536 + ea.toNat / 2 ^ 40 % 65536 = 0x10 ∧ 0xB000 ≤ ea.toNat % 65536 ∧ ea.toNat % 65536 < 0xC000)
    ∧ 0xC000 ≤ (0x100000000000C000#64).toNat % 65536 ∧ (0x1000000000010000#64).toNat / 65536 % 2 ^ 24 ≠ 0
    ∧ 5 ≤ (0x1050000000000000#64).toNat / 2 ^ 40 % 65536 / 4096 % 8 ∧ (0x1000000000000001#64).toNat % 8 ≠ 0 := by decide +kernel
theorem hyp_class_3 : (let ea := 0x30000000000010F8#64
      ea.toNat / 2 ^ 60 = 3 ∧ ea.toNat / 2 ^ 56 % 16 = 0 ∧ ea.toNat % 8 = 0 ∧ (ea + 1#64).toNat % 8 ≠ 0
      ∧ (windowed 7#64).windowAt 1 0 (ea.toNat % 2 ^ 56) = some (hostWindow 7#64) ∧ (hostWindow 7#64).canRead = true
      ∧ (hostWindow 7#64).canWrite = true ∧ (hostWindow 7#64).red = 0
      ∧ ea.toNat % 2 ^ 56 + 8 ≤ (hostWindow 7#64).base + (hostWindow 7#64).size
      ∧ (hostWindow 7#64).base + (hostWindow 7#64).size < ea.toNat % 2 ^ 56 + 16 ∧ w0.windowAt 1 0 (ea.toNat % 2 ^ 56) = none)
    ∧ (windowed 0xD#64).windowAt 1 1 0x10F8 = some (hostWindow 0xD#64) ∧ (hostWindow 0xD#64).canRead = false
    ∧ (hostWindow 0xD#64).canWrite = true ∧ (hostWindow 0x15#64).red ≠ 0 ∧ 2 ≤ (0x3200000000000000#64).toNat / 2 ^ 56 % 16 := by
  decide +kernel
/-- ElementsAndHints. -/
theorem hyp_elements : (hmA ea0).me.anyPending [.a 0] = false ∧ (hmA ea0).formatAt (baseOff ((hmA ea0).reg (.a 0)) (.imm 0#12) 1) = some 0
    ∧ (∃ u, (hmA ea0).check ((hmA ea0).whoAt ⟨0, 0⟩) ea0 (elemBits 0 * 2) (elemBits 0 * 2) .read noPromote = .ok (pl 0) u
      ∧ u.scalesAt (u.whoAt u.cur) 0 ea0 0 16 = ([], none, u) ∧ u.blocked 0#3 0 (pl 0) = false
      ∧ u.awaitsHeld ⟨0, 0⟩ (pl 0) (elemBits 0 * 2) ea0 = false)
    ∧ (∃ u, (hmA ea0).check ((hmA ea0).whoAt ⟨0, 0⟩) ea0 (elemBits 0 * 2) (elemBits 0 * 2) .write noPromote = .ok (pl 0) u
      ∧ u.scalesAt (u.whoAt u.cur) 0 ea0 0 16 = ([], none, u) ∧ u.blocked 0#3 0 (pl 0) = false)
    ∧ (hmA ea0).me.progValid = false
    ∧ (let s : State := { hmA ea0 with handles := (hmA ea0).handles.set 2 { hd with fmt := 9#4 } }
       s.formatAt ea0 = some 9 ∧ s.checkHandle (s.whoAt ⟨0, 0⟩) 2 0 1 .read = none ∧ s.checkHandle (s.whoAt ⟨0, 0⟩) 2 0 1 .write = none
       ∧ s.checkHandle (s.whoAt ⟨0, 0⟩) 2 0x1000 1 .read = some .addr)
    ∧ (let s : State := { w0 with handles := w0.handles.set 0 { hd with fmt := 15#4 } }; s.formatAt 0x2000000000000000#64 = some 15) := by
  refine ⟨?_, ?_, ⟨_, rfl, rfl, ?_, ?_⟩, ⟨_, rfl, rfl, ?_⟩, ?_, ?_, ?_⟩ <;> decide +kernel
theorem hyp_hints : (w0.reg (.a 0)).toNat / 2 ^ 60 ≠ 2 ∧ w0.me.anyPending [.a 0] = false
    ∧ (let s := absent.upd ⟨0, 0⟩ (fun t => { t with ra := t.ra.set 0 ea0 })
       s.me.anyPending [.a 0, .zr] = false ∧ (s.reg (.a 0)).toNat / 2 ^ 60 = 2
       ∧ (s.reg (.a 0)).toNat / 2 ^ 36 % 2 ^ 24 = 2 ∧ (s.reg (.a 0)).toNat % 2 ^ 36 = 0
       ∧ s.checkHandle (s.whoAt s.cur) 2 0 1 .read = none ∧ (s.page 2 0).p = false
       ∧ (s.handle 2).v = true ∧ (s.handle 2).tenant.toNat = s.partAt s.cur.cell ∧ 0xFFF ≤ (s.handle 2).limit.toNat) := by
  decide +kernel
/-- AtomicsIssue. -/
theorem hyp_atomics : w0.me.anyPending [.l 0, .a 0, .zr] = false ∧ ((stA 0x3000000000000000#64).reg (.a 0)).toNat / 2 ^ 60 = 3
    ∧ (w0.reg (.a 0)).toNat / 2 ^ 60 ≠ 3
    ∧ w0.check (w0.whoAt ⟨0, 0⟩) (w0.reg (.a 0)) 8 8 .write (fun layer => layer == 2) = .ok (ownAt 0) w0
    ∧ w0.blocked w0.me.dcls 0 (ownAt 0) = false ∧ w0.me.lock = false
    ∧ lk.check (lk.whoAt ⟨0, 0⟩) (lk.reg (.a 0)) 8 8 .write (fun layer => layer == 2) = .ok (ownAt 0) lk
    ∧ lk.me.lock = true ∧ (lk.pair (pairOf lk.cur.cell)).diverged = false := by
  refine ⟨?_, ?_, ?_, rfl, ?_, ?_, rfl, ?_, ?_⟩ <;> decide +kernel
theorem hyp_ship : ((hmA (ea0 + 1#64)).reg (.a 0)).toNat % 8 ≠ 0
    ∧ ({ absent with handles := [] } : State).checkHandle (absent.whoAt ⟨0, 0⟩) 2 0 8 .write = some .prot
    ∧ (hmA ea0).checkHandle ((hmA ea0).whoAt ⟨0, 0⟩) 2 0 8 .write = none ∧ (hmA ea0).me.lock = false
    ∧ (hmA ea0).classClosed (hmA ea0).me.dcls = false
    ∧ (absent.page 2 (ea0.toNat % 2 ^ 36 / pageSize (absent.handle 2).psz)).p = false
    ∧ ∃ u, (hmA ea0).translate (.slot (hmA ea0).cur) (tileOf 0) ((hmA ea0).partAt 0) 2 0 ((hmA ea0).handle 2).psz.toNat = (true, u) := by
  refine ⟨?_, ?_, ?_, ?_, ?_, ?_, ⟨_, rfl⟩⟩ <;> decide +kernel
/-- MemoryPerforms: on the way, at its turn, and with a poisoned column. -/
theorem hyp_performs : Arrives (flying loadBody (some 0)) 0 (flight loadBody (some 0))
    ∧ (flight loadBody (some 0)).isAccess = true ∧ Due (landed loadBody (some 0)) 0 (stood loadBody (some 0))
    ∧ Due (landed storeBody (some 0)) 0 (stood storeBody (some 0)) ∧ (landed storeBody (some 0)).memOk
    ∧ (let s := landed loadBody (some 0)
       (((taken s 0 (stood loadBody (some 0))).sees 0 (ownAt 0xBFF8) 0xBFF8#64 8).checkColumns
         (columnsOf (ownAt 0xBFF8) 8)).1 = [])
    ∧ ((taken (landed storeBody (some 0)) 0 (stood storeBody (some 0))).checkColumn (ownAt 30)).1 = false
    ∧ (let s : State := { landed storeBody (some 0) with flips := [((ownAt 0).column, [3, 5])] }
       Due s 0 (stood storeBody (some 0)) ∧ ((taken s 0 (stood storeBody (some 0))).checkColumn (ownAt 30)).1 = true) := by
  refine ⟨⟨rfl, ?_⟩, rfl, ⟨rfl, ?_⟩, ⟨rfl, ?_⟩, rfl, ?_, ?_, ⟨rfl, ?_⟩, ?_⟩ <;> decide +kernel
/-- The same: LDF and STF of 16 q4 elements with one scale byte. -/
def ldfBody : Body := .mem (.load (.ldf 0 7 true 0#8 0#3) [(ownAt 64, 64#64)]) (ownAt 0) 8 0#64
def stfBody : Body := .mem (.stf 7 (List.replicate 16 0#16) 0#8 0#3 [] [(ownAt 64, 64#64)]) (ownAt 0) 8 0#64
theorem hyp_elements_perform : Due (landed ldfBody (some 0)) 0 (stood ldfBody (some 0)) ∧ Due (landed stfBody (some 0)) 0 (stood stfBody (some 0))
    ∧ (let u := ((taken (landed ldfBody (some 0)) 0 (stood ldfBody (some 0))).sees 0 (ownAt 0) 0#64 8).seesScales 0 [(ownAt 64, 64#64)]
       (∀ c ∈ columnsOf (ownAt 0) 8, Sound u c) ∧ Sound u (ownAt 64))
    ∧ (let u := (taken (landed stfBody (some 0)) 0 (stood stfBody (some 0))).seesScales 0 [(ownAt 64, 64#64)]
       Sound u (ownAt 0) ∧ Sound u (ownAt 64)) ∧ elemBits 7 * 2 < 32 := by
  refine ⟨⟨rfl, ?_⟩, ⟨rfl, ?_⟩, ⟨fun c h => ?_, rfl⟩, ⟨rfl, rfl⟩, ?_⟩
  · decide +kernel
  · decide +kernel
  · rcases List.mem_singleton.mp h with rfl; rfl
  · decide +kernel
/-- StoredBits: no wrong bit, the last one of a column, and two. -/
theorem hyp_stored_bits : (w0.cell 0).eccinj.getLsbD 30 = false ∧ w0.flips.get [] (ownAt 32).column = []
    ∧ ({ w0 with flips := [((ownAt 32).column, [265])] } : State).flips.get [] (ownAt 32).column = [265]
    ∧ ({ w0 with flips := [((ownAt 32).column, [0, 265])] } : State).flips.get [] (ownAt 32).column = [0, 265] := by
  decide +kernel
def atomicBody : Body := .mem (.atomic 9 true 5#64 0#64 (.reg (.l 0) false .sext) 0#8) (ownAt 0) 8 0#64
def shipBody : Body := .mem (.fship 9 5#64 0#64 (.reg (.l 0) false .sext) 0#8 8#5 true) (pl 0) 8 ea0
def floatBody (m : Nat) : Body := .mem (.atomic m false 0x3C00#64 0#64 (.reg (.l 0) false .zext) 0#8) (ownAt 0) 4 0#64
/-- A routine of one micro-operation that partition 1 may ship, and the routine of another. -/
def routine13 (tenant : BitVec 5) : Routine := ⟨1#5, true, false, true, tenant, [0#32]⟩
def shipped (m : Nat) (x : Routine) : State := { hm with
  cycle := 1#64, muslin := hm.muslin.set 13 x
  net := [stood (.mem (.fship m 5#64 0#64 (.reg (.l 0) false .sext) 0#8 8#5 true) (pl 0) 8 ea0) none] }
theorem hyp_float_atomics : (∀ m ∈ [10, 11, 12], Due (landed (floatBody m) (some 0)) 0 (stood (floatBody m) (some 0))
      ∧ ((taken (landed (floatBody m) (some 0)) 0 (stood (floatBody m) (some 0))).checkColumn (ownAt 0)).1 = false)
    ∧ (shipped 11 (routine13 0#5)).due (stood (.mem (.fship 11 5#64 0#64 (.reg (.l 0) false .sext) 0#8 8#5 true) (pl 0) 8 ea0) none) = true
    ∧ ((shipped 13 (routine13 1#5)).routine 13).v = true ∧ ((shipped 13 (routine13 1#5)).routine 13).tenant.toNat = (stood (floatBody 10) none).part
    ∧ ((shipped 13 (routine13 2#5)).routine 13).tenant ≠ 0#5
    ∧ ((shipped 13 (routine13 2#5)).routine 13).tenant.toNat ≠ (stood (floatBody 10) none).part := by
  refine ⟨fun m h => ⟨⟨rfl, ?_⟩, ?_⟩, ?_, ?_, ?_, ?_, ?_⟩
  · revert m; decide +kernel
  · revert m; decide +kernel
  all_goals decide +kernel
/-- AtomicsPerform: an atomic, and FSHIP on a page in HBM and on one that is absent. -/
theorem hyp_atomics_perform : (Dest.reg (.l 0) false .sext).owed = true
    ∧ Due (landed atomicBody (some 0)) 0 (stood atomicBody (some 0))
    ∧ ((taken (landed atomicBody (some 0)) 0 (stood atomicBody (some 0))).checkColumn (ownAt 0)).1 = false
    ∧ (let s : State := { hm with cycle := 1#64, net := [stood shipBody none] }
       Due s 0 (stood shipBody none) ∧ s.memOk ∧ (s.page 2 0).p = true ∧ (s.page 2 0).layer = 1#2
       ∧ (s.page 2 0).transit = false ∧ (s.page 2 0).clear = false
       ∧ ((taken s 0 (stood shipBody none)).checkColumn (pageLoc (s.page 2 0) 0)).1 = false)
    ∧ (let s : State := { absent with cycle := 1#64, net := [stood shipBody none] }
       Due s 0 (stood shipBody none) ∧ (s.page 2 0).p = false ∧ s.pageWaits = []) := by
  refine ⟨rfl, ⟨rfl, ?_⟩, ?_, ⟨⟨rfl, ?_⟩, rfl, ?_, ?_, ?_, ?_, ?_⟩, ⟨rfl, ?_⟩, ?_, ?_⟩ <;> decide +kernel
theorem hyp_results_land : listGet owing.net 0 = some (flight (.reply (.reg (.l 1) false .zext) [1#8] none) (some 0))
    ∧ (owing.strand ⟨0, 0⟩).uid = 0 ∧ (owing.strand ⟨0, 0⟩).sup = false
    ∧ ((st (fun t => { t with uid := 7 })).strand ⟨0, 0⟩).uid ≠ 0 := by
  refine ⟨rfl, ?_, ?_, ?_⟩ <;> decide +kernel
/-- A status that is no wait. -/
def awake : Status → Bool
  | .parked _ => false
  | _ => true
theorem awake_ne {x : Status} (h : awake x = true) (w : Wait) : x ≠ .parked w := by
  rintro rfl; cases h
theorem some_of {α : Type} {o : Option α} {p : α → Prop} [DecidablePred p] (h : o.any (fun x => decide (p x)) = true) :
    ∃ x, o = some x ∧ p x := by
  cases o with
  | none => cases h
  | some x => exact ⟨x, rfl, of_decide_eq_true h⟩
theorem memOk_of {s : State} (h : Memory.wf s.mem = true) : s.memOk := h
/-- A copy of the strand, with so much left to do. -/
def copy0 (todo : List Nat) (poison : Option LateTrap) (fault : Option Word) : Copy :=
  ⟨0, 0, .l 7, 0, .bytes 64, 0x100#64, 0x200#64, 0#64, 0#8, 0#3, false, todo, poison, fault⟩
def copying (k : Copy) : State := ce (fun c => { c with copies := c.copies.set 3 (some k) })
/-- Copies. -/
theorem hyp_copies : su.me.sup = true ∧ w0.me.sup = false ∧ w0.me.anyPending [.l 7, .a 0, .zr] = false ∧ w0.engineWaits w0.cur = false
    ∧ (∃ k : Fin 8, (w0.cell 0).copies[k] = none)
    ∧ (let s := copying (copy0 [0, 1] none none)
       (s.cell 0).copies[(3 : Fin 8)] = some (copy0 [0, 1] none none) ∧ 1 ∈ (copy0 [0, 1] none none).todo
       ∧ 1 < unitCount 0x100 64 ∧ 0x100 + 64 ≤ 0xB000 ∧ s.flips = [] ∧ (s.cell 0).eccinj = 0#31
       ∧ ∀ b, b < 4 → s.bankTurn 0 b (0 % 65536) = true)
    ∧ (let s := copying (copy0 [] (some ⟨.poison, 0#64, 0#18⟩) none)
       s.contributes 0 3 = false ∧ (s.strand ⟨0, 0⟩).uid = 0 ∧ (s.strand ⟨0, 0⟩).sup = false ∧ (s.strand ⟨0, 0⟩).late = []
       ∧ (s.strand ⟨0, 0⟩).status ≠ .free)
    ∧ (let s := copying (copy0 [1] none (some 5#64))
       s.contributes 0 3 = false ∧ (s.strand ⟨0, 0⟩).uid = 0 ∧ (s.strand ⟨0, 0⟩).sup = false ∧ (s.strand ⟨0, 0⟩).late = []
       ∧ (s.strand ⟨0, 0⟩).status ≠ .free ∧ (s.cell 0).copies[(3 : Fin 8)] = some (copy0 [1] none (some 5#64))) := by decide +kernel
/-- A copy of another shape, at bytes 0x100 and 0x200 or at two other addresses. -/
def shaped (x : CopyShape) (dst src : Word) : Copy := { copy0 [0] none none with shape := x, dst := dst, src := src }
def pointers : State := copying (shaped (.gather 1 4) 0x100#64 0x200#64)
theorem banksFree_of {s : State} {c : Nat} (h : s.net = []) (h' : (∀ b, b < 4 → s.bankTurn c b (c % 65536) = true) ∧ s.flips = []
    ∧ (s.cell c).eccinj = 0#31) : BanksFree s c :=
  ⟨h'.1, h'.2.1, h'.2.2, by rw [h]; exact fun g hg => absurd hg List.not_mem_nil⟩
theorem hyp_copy_shapes : BanksFree pointers 0 ∧ pointers.contributes 0 3 = false ∧ pointers.memOk
    ∧ (pointers.cell 0).copies[(3 : Fin 8)] = some (shaped (.gather 1 4) 0x100#64 0x200#64)
    ∧ leNat (pointers.peek (ownAt 0x200) 8) % 4 = 0 ∧ leNat (pointers.peek (ownAt 0x200) 8) + 4 ≤ 0xB000
    ∧ 0 % rowUnits 32 < unitCount 0x100 32 ∧ 0x200 % 8 = 0 ∧ 0xAFF8 % 8 = 0 ∧ 0xAFF8 + 8 ≤ 0xB000 := by
  refine ⟨banksFree_of rfl ?_, ?_, rfl, ?_, ?_, ?_, ?_, ?_, ?_, ?_⟩ <;> decide +kernel
/-- CPYC of an f16 element between places of local memory, and of q4 elements of handle 2. -/
def convert0 : Copy := shaped (.convert 1) 0x100#64 0x200#64
def convert4 : Copy := shaped (.convert 3) ea0 ea0
def hm4 : State := { copying convert4 with
  handles := hm.handles.set 2 { hd with fmt := 7#4 }, pages := hm.pages, hubs := hm.hubs, mem := hm.mem }
set_option maxRecDepth 8000 in
theorem hyp_convert : (copying convert0).formatAt 0x100#64 = some 1
    ∧ (∃ v x l y z, Converted (copying convert0) convert0 (convert0.who (copying convert0) 0 3) 1 0 0 v x
      ∧ x.engineLoc (convert0.who (copying convert0) 0 3) 0x100#64 2 2 .write = .ok l y ∧ x.mem = (copying convert0).mem
      ∧ y.takeTurn 0 l = some z ∧ Sound z l) := by
  refine ⟨rfl, ?_⟩
  exact ⟨_, _, _, _, _, ⟨_, _, _, rfl, rfl, rfl⟩, rfl, rfl, rfl, rfl⟩
set_option maxRecDepth 8000 in
theorem hyp_convert_q4 : hm4.formatAt ea0 = some 7
    ∧ (∃ v v2 x1 x l y z, Converted hm4 convert4 (convert4.who hm4 0 3) 7 0 0 v x1 ∧ Converted x1 convert4 (convert4.who hm4 0 3) 7 0 1 v2 x
      ∧ x.engineLoc (convert4.who hm4 0 3) ea0 1 1 .write = .ok l y ∧ x.mem = hm4.mem ∧ y.takeTurn 0 l = some z ∧ Sound z l)
    ∧ (∃ v x, Converted hm4 convert4 (convert4.who hm4 0 3) 7 2 0 v x) ∧ 2 ≤ 3 - 2 * 0 ∧ 3 - 2 * 1 = 1 := by
  refine ⟨rfl, ?_, ?_, ?_, ?_⟩
  · exact ⟨_, _, _, _, _, _, _, ⟨_, _, _, rfl, rfl, rfl⟩, ⟨_, _, _, rfl, rfl, rfl⟩, rfl, rfl, rfl, rfl⟩
  · exact ⟨_, _, ⟨_, _, _, rfl, rfl, rfl⟩⟩
  · decide
  · decide
theorem hyp_near_bank : w0.me.anyPending [.l 0, .a 0, .zr] = false ∧ w0.nearCheck 0 (w0.reg (.a 0)) 8 2 0 false = .ok 0
    ∧ w0.nearCheck 0 0xC000#64 8 2 0 false = .error .addr ∧ w0.nearCheck 0 1#64 8 2 0 false = .error .align
    ∧ w0.nearCheck 0 0xBFFE#64 1 2 3 true = .error .prot
    ∧ (let q : NearRun := ⟨0, 1, .f16, .l 0, 0#64, 0#64, 4, 4, 0#32, 0#8, 0#3, none⟩
       ((ce (fun c => { c with near := [q] })).cell 0).near.find? (fun x => x.slot == 0) = some q ∧ q.n ≤ q.done)
    ∧ (let q : NearRun := ⟨0, 0, .f16, .l 0, 0#64, 64#64, 4, 0, 0#32, 0#8, 0#3, none⟩
       let s := ce (fun c => { c with near := [q] })
       (s.cell 0).near.find? (fun x => x.slot == 0) = some q ∧ q.done < q.n ∧ s.flips = [] ∧ (s.cell 0).eccinj = 0#31
       ∧ (s.accessAll ⟨0, 0⟩ 8 [(ownAt 0, 0#64), (ownAt 64, 64#64)]).isSome = true) := by
  refine ⟨?_, rfl, rfl, rfl, rfl, ?_, ?_⟩ <;> decide +kernel
/-- A store of the lockstep strand that its pair holds. -/
def lkHeld : State := { lk with net := [{ flight storeBody none with heldBy := some 0 }] }
/-- ReleaseRules: nothing is outstanding; a load is; the strand is in lockstep, and holds a store; a release waits. -/
theorem hyp_releases : w0.released ⟨0, 0⟩ .sys w0.me.tsm = true ∧ w0.me.lock = false
    ∧ owing.released ⟨0, 0⟩ .cell owing.me.tsm = false ∧ owing.mismatched owing.cur = false
    ∧ w0.me.anyPending [.l 0, .a 0] = false ∧ w0.released w0.cur .cell (w0.me.tsm &&& (w0.reg (.a 0)).setWidth 51) = true
    ∧ lk.me.lock = true ∧ ¬ Narrow .tile ∧ Narrow .twin ∧ (lk.pair (pairOf 0)).diverged = false
    ∧ lk.holding lk.cur = false ∧ lk.released ⟨0, 0⟩ .tile lk.me.tsm = true
    ∧ lkHeld.holding lkHeld.cur = true ∧ lkHeld.me.lock = true ∧ (lkHeld.pair (pairOf 0)).diverged = false
    ∧ ((parked (.release .col .rel)).strand ⟨0, 0⟩).status = .parked (.release .col .rel)
    ∧ (parked (.release .col .rel)).released ⟨0, 0⟩ .col ((parked (.release .col .rel)).strand ⟨0, 0⟩).tsm = true := by
  have h : ¬ Narrow .tile := by rintro (h | h | h) <;> cases h
  refine ⟨?_, ?_, ?_, ?_, ?_, ?_, ?_, h, .inr (.inr rfl), ?_, ?_, ?_, ?_, ?_, ?_, ?_, ?_⟩ <;> decide +kernel
/-- Barriers: counts at both ends of the range and outside it; a word with no departures, and one with some. -/
theorem hyp_barrier_issue : (w0.reg (.a 0)).toNat / 2 ^ 60 ≠ 3 ∧ w0.me.anyPending [.a 0] = false
    ∧ 1 ≤ (w0.src (.lit 1#64)).toNat ∧ (w0.src (.lit 0xFFFFF#64)).toNat < 2 ^ 20 ∧ (w0.src (.lit 0#64)).toNat = 0
    ∧ 2 ^ 20 ≤ (w0.src (.lit 0x100000#64)).toNat
    ∧ w0.check (w0.whoAt ⟨0, 0⟩) (w0.reg (.a 0)) 8 8 .write (fun layer => layer == 2) = .ok (ownAt 0) w0
    ∧ w0.check (w0.whoAt ⟨0, 0⟩) (w0.reg (.a 0)) 8 8 .readHome (fun layer => layer == 2) = .ok (ownAt 0) w0
    ∧ (∃ x, w0.access w0.cur (ownAt 0) 8 (w0.reg (.a 0)) = some x ∧ x.checkColumn (ownAt 0) = (false, x)
      ∧ x.released ⟨0, 0⟩ ((Scope.ofCode (leNat (w0.peek (ownAt 0) 8) / 2 ^ 60)).getD .sys) w0.me.tsm = true)
    ∧ w0.released ⟨0, 0⟩ ((Scope.ofCode (leNat (w0.peek (ownAt 0) 8) / 2 ^ 60)).getD .sys) w0.me.tsm = true
    ∧ w0.blocked w0.me.dcls 0 (ownAt 0) = false ∧ w0.me.lock = false ∧ w0.cur.slot ≠ 4 ∧ h0.cur.slot = 4
    ∧ w0.awaitsHeld ⟨0, 0⟩ (ownAt 0) 8 (w0.reg (.a 0)) = false := by
  refine ⟨?_, ?_, ?_, ?_, ?_, ?_, rfl, rfl, some_of ?_, ?_, ?_, ?_, ?_, ?_, ?_⟩ <;> decide +kernel
/-- A barrier word of count 2 with so many departures. -/
def barWord (depart : Nat) : State := hm.poke (pl 0) (leBytes 8 (2 + depart * 2 ^ 40))
def arrival : Flight := flight (.arrival (pl 0) ea0) none
def barBody : Body := .mem .barrier (pl 0) 8 ea0
theorem hyp_barrier_performs : (let s := { barWord 0 with cycle := 1#64, net := [stood barBody none] }
      s.memOk ∧ Due s 0 (stood barBody none) ∧ Sound (s.served (stood barBody none)) (pl 0) ∧ Sound s (pl 0)
      ∧ leNat (s.peek (pl 0) 8) / 2 ^ 40 % 2 ^ 20 = 0 ∧ s.heldAt (pl 0) = false)
    ∧ (let s := { barWord 1 with cycle := 1#64, net := [stood barBody none] }
       Due s 0 (stood barBody none) ∧ leNat (s.peek (pl 0) 8) / 2 ^ 40 % 2 ^ 20 ≠ 0)
    ∧ (let s := { barWord 0 with net := [arrival] }
       listGet s.net 0 = some arrival ∧ ∀ j g, j < 0 → listGet s.net j = some g → ∀ e, g.body ≠ .arrival (pl 0) e)
    ∧ (let s := (barWord 1).upd ⟨0, 0⟩ (fun t => { t with status := .parked (.barwait ea0 (pl 0)) })
       (s.strand ⟨0, 0⟩).status = .parked (.barwait ea0 (pl 0)) ∧ s.memOk ∧ Sound s (pl 0)
       ∧ leNat (s.peek (pl 0) 8) / 2 ^ 40 % 2 ^ 20 ≠ 0
       ∧ ∃ u, s.check (s.whoAt ⟨0, 0⟩) ea0 8 8 .write noPromote = .ok (pl 0) u ∧ u.mem = s.mem ∧ u.memOk
         ∧ ∃ x, u.access ⟨0, 0⟩ (pl 0) 8 ea0 = some x ∧ Sound x (pl 0)) := by
  refine ⟨⟨memOk_of ?_, ⟨rfl, ?_⟩, rfl, rfl, ?_, ?_⟩, ⟨⟨rfl, ?_⟩, ?_⟩,
    ⟨rfl, fun j g h => absurd h (Nat.not_lt_zero j)⟩, ?_, memOk_of ?_, rfl, ?_,
    ⟨_, rfl, ?_, memOk_of ?_, ⟨_, rfl, rfl⟩⟩⟩ <;> decide +kernel
/-- WaitsAndWakes: the word at the address is 0; the cycle is 0. -/
theorem hyp_waits : (let s := hmA ea0
      s.cur.slot ≠ 4 ∧ s.me.anyPending [.zr, .a 0, .zr] = false ∧ s.me.woken = false
      ∧ (s.reg (.a 0)).toNat / 2 ^ 60 ≠ 3 ∧ s.flips = []
      ∧ (∃ u, s.check (s.whoAt ⟨0, 0⟩) ea0 8 8 .read noPromote = .ok (pl 0) u ∧ (u.access s.cur (pl 0) 8 ea0).isSome = true
        ∧ u.mem = s.mem)
      ∧ (s.cell 0).monitors.length < 8 ∧ leNat (s.peek (pl 0) 8) = (s.src (.reg .zr)).toNat
      ∧ leNat (s.peek (pl 0) 8) ≠ (s.src (.lit 1#64)).toNat)
    ∧ (let s := (hmA ea0).upd ⟨0, 0⟩ (fun t => { t with woken := true })
       s.me.woken = true ∧ s.me.anyPending [.zr, .a 0, .zr] = false
       ∧ ∃ u, s.check (s.whoAt ⟨0, 0⟩) ea0 8 8 .read noPromote = .ok (pl 0) u)
    ∧ (w0.reg (.a 0)).toNat ≤ w0.cycle.toNat ∧ (stA 1#64).cycle.toNat < ((stA 1#64).reg (.a 0)).toNat := by
  refine ⟨⟨?_, ?_, ?_, ?_, ?_, ⟨_, rfl, ?_, ?_⟩, ?_, ?_, ?_⟩, ⟨?_, ?_, ⟨_, rfl⟩⟩, ?_, ?_⟩ <;> decide +kernel
/-- A monitor on the word of handle 2, whose owner waits. -/
def monitor0 : Monitor := ⟨0, false, true, ea0, pl 0, 1#64⟩
def monitoring : State := (hm.updCell 0 (fun c => { c with monitors := [monitor0] })).upd ⟨0, 0⟩
  (fun t => { t with status := .parked (.waita ea0 (.l 0)) })
theorem hyp_waits_end : ((parked (.waitt 0#64 (.l 0))).strand ⟨0, 0⟩).status = .parked (.waitt 0#64 (.l 0))
    ∧ (0#64).toNat ≤ (parked (.waitt 0#64 (.l 0))).cycle.toNat
    ∧ ((parked (.sleep (some 0))).strand ⟨0, 0⟩).status = .parked (.sleep (some 0)) ∧ 0 ≤ w0.cycle.toNat
    ∧ listGet (monitoring.cell 0).monitors 0 = some monitor0 ∧ monitor0.loc.space ≠ .local ∧ monitoring.flips = []
    ∧ (monitoring.strand ⟨0, 0⟩).status = .parked (.waita ea0 (.l 0)) ∧ leWord (monitoring.peek (pl 0) 8) ≠ monitor0.exp
    ∧ ∃ u, monitoring.check (monitoring.whoAt ⟨0, 0⟩) ea0 8 8 .read noPromote = .ok (pl 0) u ∧ u.mem = monitoring.mem
      ∧ (u.access ⟨0, 0⟩ (pl 0) 8 ea0).isSome = true := by
  refine ⟨?_, ?_, ?_, ?_, ?_, ?_, ?_, ?_, ?_, ⟨_, rfl, ?_, ?_⟩⟩ <;> decide +kernel
/-- PostRegisters: a cell of the team and one that is not; m3 present with 9, m4 not; an arrival. -/
def posted : State := ce (fun c => { c with posts := c.posts.set 3 ⟨9#64, true, .cell⟩ })
theorem hyp_posts : w0.me.anyPending [.a 0, .zr] = false ∧ w0.targetCell 0 (w0.reg (.a 0)) = some 0
    ∧ AtOnce w0 (commonScope 0 0) 0 w0.me.dcls ∧ (stA 16#64).targetCell 0 ((stA 16#64).reg (.a 0)) = none
    ∧ posted.me.anyPending [.l 0] = false ∧ (posted.cell 0).posts[(3 : Fin 32)].present = true
    ∧ (∀ h ∈ (posted.cell 0).held, h.m ≠ 3)
    ∧ (∀ (j : Fin 5) kd e since, j ≠ 0 → (posted.strand ⟨0, j⟩).status ≠ .parked (.take kd 3 e since)) ∧ posted.me.chainEn = false
    ∧ posted.cur.slot ≠ 4 ∧ (posted.cell 0).posts[(4 : Fin 32)].present = false ∧ h0.cur.slot = 4 := by
  have h : ∀ j : Fin 5, awake (posted.strand ⟨0, j⟩).status = true := by decide +kernel
  refine ⟨?_, ?_, ⟨?_, .inl (?_), .inl rfl⟩, ?_, ?_, ?_, ?_, fun j kd e since _ => awake_ne (h j) _, ?_, ?_, ?_, rfl⟩ <;> decide +kernel
def putBody : Body := .put 3 7#64 .cell
theorem hyp_post_arrives : Arrives (flying putBody (some 0)) 0 (flight putBody (some 0))
    ∧ (let s := landed putBody (some 0)
       AtPort s 0 (stood putBody (some 0)) ∧ s.first 0 (stood putBody (some 0)) ((s.cell 0).putRival 3) = true
       ∧ (s.cell 0).posts[(3 : Fin 32)].present = false ∧ (s.cell 0).held = []
       ∧ ∀ (j : Fin 5) kd e since, (s.strand ⟨0, j⟩).status ≠ .parked (.take kd 3 e since))
    ∧ (posted.cell 0).posts[(3 : Fin 32)].present = true ∧ (posted.cell 0).held.length < 8 := by
  have h : ∀ j : Fin 5, awake ((landed putBody (some 0)).strand ⟨0, j⟩).status = true := by decide +kernel
  refine ⟨⟨rfl, ?_⟩, ⟨⟨rfl, ?_⟩, ?_, ?_, ?_, fun j kd e since => awake_ne (h j) _⟩, ?_, ?_⟩ <;> decide +kernel
/-- MessagesAndHandlers: with no payload and with the longest; a class with permission and one without. -/
def msg (n : Nat) : Msg := ⟨2, 0, List.replicate n 0#64⟩
def inboxed : State := ce (fun c => { c with inbox := [msg 7], classes := c.classes.set 2 ⟨true, 5#62⟩ })
theorem hyp_messages : w0.me.anyPending (.a 0 :: ((List.finRange 8).take (7 : Fin 8).val).map SReg.n) = false
    ∧ w0.targetCell 0 (w0.reg (.a 0)) = some 0 ∧ AtOnce w0 (commonScope 0 0) 0 2#3 ∧ w0.cur.slot ≠ 4 ∧ h0.cur.slot = 4 := by
  refine ⟨?_, ?_, ⟨?_, .inl (?_), .inl rfl⟩, ?_, rfl⟩ <;> decide +kernel
/-- A message on its way to cell 0, and at its port. -/
def msgBody : Body := .msg (msg 7)
theorem hyp_message_arrives : Arrives (flying msgBody (some 0)) 0 (flight msgBody (some 0))
    ∧ (let s := landed msgBody (some 0)
       AtPort s 0 (stood msgBody (some 0))
       ∧ s.first 0 (stood msgBody (some 0)) (fun b => match b with | .msg n => n.cls == 2 | _ => false) = true
       ∧ (s.cell 0).classes[(2 : Fin 8)].perm = false ∧ (s.cell 0).msgdisc ≠ BitVec.allOnes 32)
    ∧ (inboxed.cell 0).classes[(2 : Fin 8)].perm = true ∧ (inboxed.cell 0).inbox.length < 8 := by
  refine ⟨⟨rfl, ?_⟩, ⟨⟨rfl, ?_⟩, ?_, ?_, ?_⟩, ?_, ?_⟩ <;> decide +kernel
/-- The handler of cell 0 in a given state. -/
def handling (f : Strand → Strand) : State := w0.upd ⟨0, 4⟩ (fun t => f { t with status := .ready })
theorem hyp_handlers : (inboxed.strand ⟨0, 4⟩).status = .free ∧ inboxed.saving 0 2 = false ∧ (inboxed.recOf 0).isSome = true
    ∧ listGet (inboxed.cell 0).inbox 0 = some (msg 7) ∧ (msg 7).payload.length ≤ 7
    ∧ (∀ x ∈ (inboxed.cell 0).strands.toList, x.clsmask.getLsbD (msg 7).cls.val = false)
    ∧ (∀ n x, listGet (inboxed.cell 0).inbox n = some x → (∃ y ∈ (inboxed.cell 0).strands.toList, y.clsmask.getLsbD x.cls.val = true)
        ∨ (msg 7).cls.val < x.cls.val ∨ ((msg 7).cls = x.cls ∧ 0 ≤ n))
    ∧ (let s := w0.upd ⟨0, 4⟩ (fun t => { t with status := .parked .done })
       (s.strand ⟨0, 4⟩).status = .parked .done ∧ s.owes (s.strand ⟨0, 4⟩).uid = false ∧ (s.strand ⟨0, 4⟩).pend = 0#24
       ∧ (s.strand ⟨0, 4⟩).late = [])
    ∧ (let s := handling (fun t => { t with instret := 2048#64 })
       (s.strand ⟨0, 4⟩).status = .ready ∧ 2048 ≤ (s.strand ⟨0, 4⟩).instret.toNat ∧ (s.strand ⟨0, 4⟩).sup = false
       ∧ (s.strand ⟨0, 4⟩).late = [] ∧ (s.strand ⟨0, 4⟩).stepDue = false)
    ∧ (let s := handling (fun t => { t with sup := true, ecause := 0x13#9 })
       (s.strand ⟨0, 4⟩).status ≠ .free ∧ (s.strand ⟨0, 4⟩).sup = true ∧ (s.strand ⟨0, 4⟩).ecause = 0x13#9
       ∧ (s.cell 0).hlong ≠ BitVec.allOnes 32) := by
  refine ⟨?_, ?_, ?_, rfl, ?_, ?_, fun n x h => ?_, ?_, ?_, ?_⟩
  any_goals decide +kernel
  match n, h with
  | 0, h => cases h; exact .inr (.inr ⟨rfl, Nat.le_refl 0⟩)
  | n + 1, h => exact absurd h (by show (none : Option Msg) ≠ some x; exact nofun)
/-- TwinSignals: cell 0 and its twin hold the same team, or cell 0 alone. -/
def twins : State := w0.updCell 32768 (fun c => { c with bind := some (0, 0) })
theorem hyp_twin_signals : twins.me.lock = false ∧ twins.twinPresent 0 = true ∧ twinOfCell 0 ≠ 0
    ∧ twins.released ⟨0, 0⟩ .twin twins.me.tsm = true ∧ (twins.cell (twinOfCell 0)).sig[(0 : Fin 4)] ≠ 255#8
    ∧ (∀ (j : Fin 5) e, (twins.strand ⟨twinOfCell 0, j⟩).status ≠ .parked (.twwait 0 e)) ∧ w0.twinPresent 0 = false
    ∧ w0.me.anyPending [.l 0] = false ∧ ((ce (fun c => { c with sig := c.sig.set 0 1#8 })).cell 0).sig[(0 : Fin 4)] ≠ 0#8
    ∧ (w0.cell 0).sig[(0 : Fin 4)] = 0#8 ∧ h0.me.lock = false ∧ lk.me.lock = true := by
  have h : ∀ j : Fin 5, awake (twins.strand ⟨twinOfCell 0, j⟩).status = true := by decide +kernel
  refine ⟨?_, ?_, ?_, ?_, ?_, fun j e => awake_ne (h j) _, ?_, ?_, ?_, ?_, ?_, ?_⟩ <;> decide +kernel
/-- VectorFloats and the other vector statements: within VSP of a VFP issue, and outside it; no register is pending. -/
theorem hyp_vectors : (let s := { ce (fun c => { c with lastVfp := some 0 }) with vsp := 1 }
      (s.cell 0).lastVfp = some 0 ∧ s.cycle.toNat < 0 + s.vsp)
    ∧ (w0.cell 0).lastVfp = none ∧ w0.me.anyPending [.a 0] = false ∧ w0.me.anyPending (Src.reg (.l 0)).regs = false
    ∧ elemFloat .i8 = none ∧ elemFloat .e4m3 = some fmtE4m3 ∧ w0.me.rmode.toNat ≤ 5
    ∧ (w0.src (.lit 62#64)).toNat % 64 ≠ 63 ∧ (w0.src (.lit 0xFFF#64)).toNat % 64 = 63 := by decide +kernel
/-- FloatToInteger, FormatsAndBlocks: the largest number and an infinity of e5m2. -/
theorem hyp_formats : 0x7B < 2 ^ fmtE5m2.width ∧ (fmtE5m2.decode false 0x7B).isNan = false
    ∧ (fmtE5m2.decode false 0x7C) = .inf false ∧ fmtE5m2 ∈ [fmtF32, fmtF16, fmtBf16, fmtE4m3, fmtE5m2] := by
  refine ⟨?_, ?_, ?_, ?_⟩ <;> decide +kernel
theorem hyp_blocks : w0.me.anyPending [.l 0, .a 0, .zr] = false ∧ w0.blkCheck 0 0xBC00#64 (256 * 4) 4 false = .ok 0xBC00
    ∧ w0.blkCheck 0 0#64 128 1 false = .ok 0 ∧ w0.blkCheck 0 0xBC04#64 (256 * 4) 4 false = .error .addr
    ∧ w0.blkCheck 0 1#64 2 2 false = .error .align
    ∧ (let r : BlkRun := ⟨0, true, .f32, 0, .l 0, 0#64, 0#64, 0#8, 1, [], [], 1, [0#8], 0#8, true, 0#8, 0#3, none⟩
       ((ce (fun c => { c with blk := [r] })).cell 0).blk.find? (fun y => y.slot == 0) = some r ∧ r.computed = true
       ∧ r.out.length ≤ r.written) := by
  decide +kernel
/-- The hire block of a product of 1 by 1 by n, of i8 or of another format, and a HIRE that reads it at 0. -/
def block (n fmt : Nat) : List Byte :=
  leBytes 8 0x100 ++ leBytes 8 0x200 ++ leBytes 8 0x300 ++ leBytes 4 32 ++ leBytes 4 1 ++ leBytes 4 4 ++ [1#8, 0#8, 1#8, 0#8]
    ++ leBytes 4 n ++ [BitVec.ofNat 8 fmt, BitVec.ofNat 8 fmt, (if fmt = 5 then 8#8 else 0#8), 0#8] ++ leBytes 16 0
/-- The strand holds accumulator slot 0; the block is in place. -/
def hiring (n fmt : Nat) : State :=
  (w0.poke (ownAt 0) (block n fmt)).updOwner 0 0 (fun o => { o with state := 1#2, cell := 0, slot := 0 })
def blockField (n fmt off k : Nat) : Nat := leNat (((block n fmt).drop off).take k)
/-- HireIssue: the extremes of the depth, a block that is not legal, operands and slots that are not, and room for it. -/
theorem hyp_hire_issue : h0.cur.slot = 4 ∧ w0.cur.slot ≠ 4 ∧ w0.minimal = false ∧ w0.me.anyPending [.l 0, .a 0] = false
    ∧ w0.engineWaits w0.cur = false ∧ ((stA 0x3000000000000000#64).reg (.a 0)).toNat / 2 ^ 60 = 3
    ∧ (∃ u, (hiring (2 ^ 24) 1).check ((hiring (2 ^ 24) 1).whoAt ⟨0, 0⟩) 0#64 64 64 .read noPromote = .ok (ownAt 0) u
      ∧ ∃ y, u.access ⟨0, 0⟩ (ownAt 0) 64 0#64 = some y ∧ (y.readRaw (ownAt 0) 64).1 = block (2 ^ 24) 1 ∧ (y.readRaw (ownAt 0) 64).2.1 = []
      ∧ (y.readRaw (ownAt 0) 64).2.2.admits 0 = true ∧ Mine (y.readRaw (ownAt 0) 64).2.2 (blockField (2 ^ 24) 1 0x30 2))
    ∧ BlockLegal false (blockField (2 ^ 24) 1) ∧ BlockLegal false (blockField 1 5) ∧ ¬ BlockLegal false (blockField 0 5)
    ∧ ¬ BadOperand (BitVec.ofNat 64 (blockField 1 5 0 8)) (blockField 1 5 0x2C 1) ∧ BlockLegal false (blockField 1 7)
    ∧ BadOperand (BitVec.ofNat 64 (blockField 1 7 0 8)) (blockField 1 7 0x2C 1) ∧ ¬ Mine w0 (blockField 1 5 0x30 2)
    ∧ ¬ BadOperand (w0.reg (.a 0)) (MmaPair.codes .f16).1 ∧ BadOperand (w0.reg (.a 0)) (MmaPair.codes .q4).1
    ∧ Mine (hiring 1 5) ((hiring 1 5).reg (.l 0)).toNat := by
  simp only [BlockLegal, PairLegal, BadOperand, Mine]
  refine ⟨?_, ?_, ?_, ?_, ?_, ?_, ⟨_, rfl, some_of ?_⟩, ?_, ?_, ?_, ?_, ?_, ?_, ?_, ?_, ?_,
    ?_⟩ <;> decide +kernel
theorem hyp_hire_full : (let s := (hiring 1 5).updHub 0 (fun h =>
        { h with hires := List.replicate 32 (w0.newHire [] 0#48 0 false false false false false) })
      Mine s 0 ∧ s.admits 0 = false) := by
  simp only [Mine]; decide +kernel
/-- A hire of depth 17, whose steps are two, with the columns of step 1 fetched. -/
def hire0 (f : Hire → Hire) : Hire :=
  f { w0.newHire (block 17 5) 0#48 0 true false false false false with
      fetched := [⟨1, 8, List.replicate 32 2#8, false⟩, ⟨1, 16, List.replicate 32 3#8, false⟩] }
def hired (r : Hire) (tokens : BitVec 16) : State :=
  { w0.updHub 0 (fun h => { h with hires := [r] }) with bonds := [(0, { Bond.zero with holder := 1#2, tokens := tokens })] }
theorem hyp_hires_fetch : (let r := hire0 id; let s := hired r 8#16
      listGet (s.hub 0).hires 0 = some r
      ∧ ∃ n c u, listGet (unread s 0 0) 0 = some (n, c)
        ∧ s.operandLocs (r.who s) ((s.operands r n).filter (fun o => o.col == c)) = .ok (ownAt 0x10F) u ∧ Intact u (ownAt 0x10F)
        ∧ u.behind r.uid { ownAt 0x10F with addr := 0x100 } (BitVec.ofNat 64 (32 * c)) 32 = false
        ∧ (u.takeTurn r.cell { ownAt 0x10F with addr := 0x100 }).isSome = true ∧ (0, n, c) ∈ s.pipeColumns 0 false ++ s.pipeColumns 0 true)
    ∧ (let r := hire0 (fun r => { r with block := leBytes 8 0x4000000000000000 ++ r.block.drop 8, fetched := [] })
       let s := hired r 8#16
       ∃ n c u, listGet (unread s 0 0) 0 = some (n, c)
        ∧ s.operandLocs (r.who s) ((s.operands r n).filter (fun o => o.col == c)) = .fault .addr 0x4000000000000000#64 u) := by
  refine ⟨⟨rfl, ⟨0, 8, _, ?_, rfl, ⟨?_, fun _ => ?_⟩, ?_, ?_, ?_⟩⟩, ⟨0, 0x200000000000000, _, ?_, rfl⟩⟩ <;> decide +kernel
theorem hyp_hires_run : (let r := hire0 (fun r => { r with fault := some (.addr, 5#64) })
       (hired r 8#16).refillDue = false ∧ r.fault ≠ none ∧ r.state ≠ .cancelled ∧ r.state ≠ .writing
       ∧ ∀ q ∈ ((hired r 8#16).hub 0).hires.take 0, q.fault = none ∨ q.state = .cancelled)
    ∧ (let r := hire0 (fun r => { r with state := .writing, writes := [⟨0x300#64, [1#8, 0#8, 0#8, 0#8]⟩] }); let s := hired r 8#16
       r.fault = none ∧ listGet r.writes 0 = some ⟨0x300#64, [1#8, 0#8, 0#8, 0#8]⟩
       ∧ ∃ v, s.engineLoc (r.who s) 0x300#64 4 (Nat.max 1 (elemBits r.fmtD / 8)) .write = .ok (ownAt 0x300) v
         ∧ Intact v (ownAt 0x300) ∧ v.memOk ∧ (v.takeTurn r.cell (ownAt 0x300)).isSome = true ∧ 0x300 / 32 = (0x300 + 4 - 1) / 32)
    ∧ (let r := hire0 (fun r => { r with state := .writing })
       r.poison = [] ∧ r.fault = none ∧ r.state = .writing ∧ r.writes = [])
    ∧ (let r := hire0 (fun r => { r with state := .cancelled, fault := some (.prot, 0#64) }); let s := hired r 8#16
       r.poison = [] ∧ r.fault = some (.prot, 0#64) ∧ r.state = .cancelled ∧ (s.strand r.master).late = []
       ∧ (s.strand r.master).uid = r.uid ∧ (s.strand r.master).status ≠ .free ∧ (s.strand r.master).marks[r.batch] = Mark.zero) := by
  refine ⟨?_, ⟨rfl, rfl, ⟨_, rfl, ⟨?_, fun _ => ?_⟩, memOk_of ?_, ?_, ?_⟩⟩, ?_, ?_⟩ <;> decide +kernel
/-- The step at its cost, and short of it by one token. -/
theorem hyp_steps : (let r := hire0 (fun r => { r with done := 1 }); let s := hired r 5#16
      ArrayRuns s 0 ∧ chosen s 0 = some (0, r) ∧ r.cost ≤ (s.bondAt 0).tokens.toNat ∧ r.done ≠ 0 ∧ r.rk = false ∧ r.fmtA ∈ [5, 6]
      ∧ r.fmtB ∈ [5, 6] ∧ (s.hub 0).accBad = [] ∧ ((hired r 4#16).bondAt 0).tokens.toNat < r.cost
      ∧ chosen (hired r 4#16) 0 = some (0, r)) := by
  refine ⟨⟨?_, ?_, ?_, ?_, ?_, .inl ?_, ?_⟩, ?_, ?_, ?_, ?_, ?_, ?_, ?_, ?_, ?_⟩ <;> decide +kernel
/-- AccSlots: the first run of Free slots; no run; slots of the strand, of another, and Busy; images and writes. -/
theorem hyp_acc_slots : w0.cur.slot ≠ 4 ∧ w0.me.anyPending [.l 0] = false ∧ 0 + 32 ≤ 128
    ∧ (∀ j, j < 32 → ((w0.hub (tileOf 0)).owner (0 + j)).state = 0#2)
    ∧ (let s := w0.updHub 0 (fun h => { h with owners := (List.range 128).map (fun k => (k, { AccOwner.zero with state := 1#2 })) })
       ∀ x < 128, x + 1 ≤ 128 → ∃ j < 1, ((s.hub 0).owner (x + j)).state ≠ 0#2)
    ∧ (Mine (hiring 1 5) 0 ∧ ((((hiring 1 5).hub 0).owner 0).state ≠ 2#2)) ∧ ¬ Mine (hiring 1 5) 1 ∧ ¬ Mine (hiring 1 5) 128
    ∧ (let s := (hiring 1 5).updOwner 0 0 (fun o => { o with state := 2#2 }); Mine s 0 ∧ ((s.hub 0).owner 0).state = 2#2)
    ∧ (∃ ls, (hiring 1 5).checkAll ((hiring 1 5).whoAt ⟨0, 0⟩) 32 .read (imageUnits 0#64) = (ls, none, hiring 1 5)
      ∧ ((hiring 1 5).accessAll ⟨0, 0⟩ 32 (ls.zip ((imageUnits 0#64).map Prod.fst))).isSome = true ∧ (hiring 1 5).mismatched ⟨0, 0⟩ = false
      ∧ ∀ l ∈ ls, (hiring 1 5).blocked 0#3 0 l = false ∧ (hiring 1 5).flips = [] ∧ ((hiring 1 5).cell l.unit).eccinj = 0#31)
    ∧ (let s : State := { lk with pairs := [(0, { Pair.zero with diverged := true })] }; s.mismatched s.cur = true)
    ∧ (parseAddr 0 0#64).isSome = true ∧ (1#64).toNat % 4 ≠ 0
    ∧ (let s := hired (hire0 id) 0#16
       ∃ r ∈ (s.hub 0).hires, r.cell = 0 ∧ r.slot = 0 ∧ r.uid = s.me.uid ∧ r.batch = 0)
    ∧ ((w0.hub 0).hires = []) ∧ ((parked (.waitb 2 (.l 5))).strand ⟨0, 0⟩).status = .parked (.waitb 2 (.l 5)) := by
  simp only [Mine]
  refine ⟨?_, ?_, ?_, ?_, ?_, ?_, ?_, ?_, ?_, ⟨_, rfl, ?_, ?_, ?_⟩, ?_, ?_, ?_, ?_, ?_, ?_⟩ <;> decide +kernel
/-- TwinLicences: one requester, both, the end of a hold, a refill. -/
def pins (l u : Bool) (holder : BitVec 2) (cycle : Word) : State :=
  { w0 with bonds := [(0, { Bond.zero with pinl := l, pinu := u, holder := holder, caphot := true })], cycle := cycle, started := true }
theorem hyp_licences : su.me.sup = true ∧ w0.me.sup = false ∧ ((pins true false 0#2 0#64).bond 0).holder = 0#2
    ∧ (pins true false 0#2 0#64).minimal = false ∧ ((pins true false 0#2 0#64).bond 0).yieldAt = none
    ∧ (pins true false 0#2 0#64).requests 0 = true ∧ (pins true false 0#2 0#64).requests (0 + 2048) = false
    ∧ (pins false true 0#2 0#64).requests 0 = false ∧ (pins true true 0#2 0#64).requests (0 + 2048) = true
    ∧ ((pins true true 1#2 16384#64).bond 0).grantAt + 16384 ≤ (pins true true 1#2 16384#64).cycle.toNat
    ∧ (pins true true 1#2 4096#64).cycle.toNat % 4096 = 0 ∧ (pins true true 1#2 4096#64).refillAt ≠ some 4096
    ∧ (pins true true 1#2 4096#64).started = true ∧ (pins true true 1#2 4096#64).powerReq = none
    ∧ ((pins true true 1#2 4096#64).bond 0).caphot = true ∧ (w0.bond 0).caphot = false
    ∧ ((pins true true 1#2 65536#64).bond 0).hotAt + 65536 ≤ (65536#64).toNat
    ∧ (65535#64).toNat < ((pins true true 1#2 65535#64).bond 0).hotAt + 65536 := by decide +kernel
/-- RankStreams: control words at the ends of their fields, and one past them. -/
def rankCtl (out n k : Nat) : Word := BitVec.ofNat 64 (out + 2 ^ 16 * (n - 1) + 2 ^ 24 * (k - 1) + 2 ^ 32 * 9)
theorem hyp_rank_fields : RankFields (rankCtl 0xBF00 256 256) ⟨0xBF00, 256, 256, .f16⟩
    ∧ (∀ r, ¬ RankFields (rankCtl 0 1 1 + 0x1000000000#64) r)
    ∧ RwaccFields (BitVec.ofNat 64 (2 ^ 4 * 256 + 2 ^ 32 * 8 + 2 ^ 36 * 0xFFFF)) ⟨0, 0, 256, 0, .f32, 0xFFFF⟩
    ∧ (∀ r, ¬ RwaccFields (BitVec.ofNat 64 (2 ^ 4 * 256 + 2 ^ 32 * 8)) r)
    ∧ RvalFields (BitVec.ofNat 64 (256 + 2 ^ 9 * 255 + 2 ^ 20 * 8)) ⟨256, 256, 0, true⟩
    ∧ (∀ r, ¬ RvalFields (BitVec.ofNat 64 (257 + 2 ^ 20 * 8)) r) := by
  simp only [RankFields, RwaccFields, RvalFields]
  refine ⟨?_, fun r h => absurd h.2.2.2.2.1 ?_, ?_, fun r h => absurd (h.2.2.2.2.2.2.2.2.2.1 ▸ h.2.2.2.2.2.2.2.2.2.2.1) ?_, ?_,
    fun r h => absurd (h.1 ▸ h.2.1) ?_⟩ <;> decide +kernel
theorem hyp_rank_issue : w0.me.anyPending [.l 0, .a 0] = false ∧ w0.blkCheck 0 0#64 (256 * 2) 2 false = .ok 0
    ∧ w0.blkCheck 0 (BitVec.ofNat 64 0xBF00) 256 1 false = .ok 0xBF00 ∧ w0.me.progValid = false
    ∧ (0x10000000000#64).toNat / 2 ^ 22 % 2 ^ 10 = 0 ∧ (0x10000000000#64).toNat / 2 ^ 41 = 0 ∧ (0x10000000000#64).toNat / 2 ^ 32 ≤ 256
    ∧ w0.adapt.getLsbD 2 = false ∧ w0.teamCell 0 ((0x10000000000#64).toNat % 2 ^ 20) = some 0
    ∧ w0.blkCheck 0 0#64 256 1 false = .ok 0 ∧ AtOnce w0 (commonScope 0 0) 0 2#3 ∧ w0.portFull ⟨0, 0⟩ 2 = false ∧ Intact w0 (ownAt 0)
    ∧ (w0.access ⟨0, 0⟩ (ownAt 0) 1 (w0.reg (.a 0))).isSome = true
    ∧ 256 < (0x10100000000#64).toNat / 2 ^ 32 % 2 ^ 9 ∧ w0.blkCheck 0 0#64 4 4 false = .ok 0
    ∧ w0.blkCheck 0 0x400#64 (4 * 256) 4 false = .ok 0x400
    ∧ ∃ ls, w0.checkAll (w0.whoAt ⟨0, 0⟩) 32 .read ((List.range 16).map (fun x => (0#64 + BitVec.ofNat 64 (32 * x), 32))) = (ls, none, w0)
      ∧ (∀ l ∈ ls, w0.flips = [] ∧ (w0.cell l.unit).eccinj = 0#31)
      ∧ (w0.accessAll ⟨0, 0⟩ 32 (ls.zip ((List.range 16).map (fun x => 0#64 + BitVec.ofNat 64 (32 * x))))).isSome = true := by
  refine ⟨?_, ?_, ?_, ?_, ?_, ?_, ?_, ?_, ?_, ?_, ⟨?_, .inl ?_, .inl rfl⟩, ?_, ⟨?_, fun _ => ?_⟩, ?_, ?_, ?_,
    ?_, ⟨_, rfl, ?_, ?_⟩⟩ <;> decide +kernel
/-- A RANK of the strand, as it stands after so many bytes read and written; a parked RWACC with an arrival of a rank. -/
def rankRun (f : RankRun → RankRun) : RankRun :=
  f ⟨0, false, .l 0, 0#64, 0x800#64, rankCtl 0x800 4 2, 0#8, 0, true, [], none, 0, none⟩
def ranking (f : RankRun → RankRun) : State := (parked .rank).updCell 0 (fun c => { c with ranking := [rankRun f] })
/-- Four f16 values, the second of them the largest. -/
def rankBytes : List Byte := [0#8, 0x3C#8, 0#8, 0x40#8, 0#8, 0x38#8, 0#8, 0x3C#8]
theorem hyp_rank_grant : (let s := ranking (fun r => { r with granted := false })
      (∀ j, j < 16 → (s.cell (16 * 0 + j)).holdsNetwork = false) ∧ s.nextRank 0 = some 0
      ∧ (s.cell 0).rankWaiting = some (rankRun (fun r => { r with granted := false }))) := by decide +kernel
theorem hyp_rank_columns : (let s := ranking id
      Runs s 0 0 (rankRun id) ∧ (rankRun id).granted = true ∧ (s.strand ⟨0, 0⟩).status = .parked .rank ∧ s.memOk
      ∧ (rankRun id).out = none ∧ (rankRun id).read.length < (rankRun id).bytes
      ∧ (s.access ⟨0, 0⟩ (ownAt 0) 8 0#64).isSome = true ∧ Intact s (ownAt 0))
    ∧ RankFields (rankRun id).ctl ⟨0x800, 4, 2, .f16⟩
    ∧ (let r := rankRun (fun r => { r with read := rankBytes }); r.out = none ∧ r.bytes ≤ r.read.length ∧ r.start = 0 ∧ r.val = false)
    ∧ (let r := rankRun (fun r => { r with val := true, ctl := BitVec.ofNat 64 (2 + 2 ^ 9 + 2 ^ 20 * 8), read := [1#8, 0#8] })
       r.bytes ≤ r.read.length ∧ r.val = true ∧ RvalFields r.ctl ⟨2, 2, 0, true⟩ ∧ (w0.cell 0).rankBad = [])
    ∧ (let r := rankRun (fun r => { r with read := rankBytes, out := some [1#8, 0#8] }); let s := ranking (fun _ => r)
       r.out = some [1#8, 0#8] ∧ r.written < 2 ∧ (s.access ⟨0, 0⟩ (ownAt 0x800) 2 0x800#64).isSome = true
       ∧ Intact s (ownAt 0x800)) := by
  simp only [RankFields, RvalFields, Runs]
  refine ⟨⟨?_, ?_, ?_, memOk_of ?_, ?_, ?_, ?_, ⟨?_, fun _ => ?_⟩⟩, ?_, ?_, ?_, ⟨?_, ?_, ?_, ⟨?_, fun _ => ?_⟩⟩⟩ <;>
    decide +kernel
def rwCtl (w p : Nat) : Word := BitVec.ofNat 64 (2 ^ 4 * w + 2 ^ 32 * 8 + 2 ^ 36 * p)
def rwParked (rank : BitVec 16) (a : Word) : State :=
  { (parked (.rwacc (rwCtl 1 1) a 0x100#64 0 0 none)).updCell 0 (fun c => { c with ranks := [⟨0#8, 0, rank, 0⟩] }) with cycle := 1#64 }
theorem hyp_rank_runs : Arrives (flying (.rank 3#8 1) (some 0)) 0 (flight (.rank 3#8 1) (some 0)) ∧ (w0.cell 0).ranks.length < 64
    ∧ ((ce (fun c => { c with ranks := List.replicate 64 ⟨0#8, 0, 0#16, 0⟩ })).cell 0).ranks.length = 64
    ∧ (let s := rwParked 255#16 0#64
       (s.strand ⟨0, 0⟩).status = .parked (.rwacc (rwCtl 1 1) 0#64 0x100#64 0 0 none) ∧ s.memOk ∧ s.ownOffset 0 0#64 = some 0
       ∧ s.ownOffset 0 0x100#64 = some 0x100 ∧ (∀ x ∈ (s.cell 0).rwaccs 0, 0 ≤ x.2) ∧ s.owes 0 = false
       ∧ listFind (fun (y : RankEntry) => y.stream == 0) (s.cell 0).ranks = some 0 ∧ 0 < s.cycle.toNat
       ∧ s.mayAccess ⟨0, 0⟩ (ownAt 0) 4 0#64 = true ∧ s.mayAccess ⟨0, 0⟩ (ownAt 0x100) 4 0x100#64 = true ∧ s.mismatched ⟨0, 0⟩ = false
       ∧ Intact s (ownAt 0x100) ∧ (s.cell 0).rankBad = []
       ∧ (s.takeTurns 0 (columnsOf (ownAt 0) 4 ++ columnsOf (ownAt 0x100) 4)).isSome = true)
    ∧ RwaccFields (rwCtl 1 1) ⟨0, 0, 1, 0, .f32, 1⟩ ∧ (255#16).toNat < 256 ∧ 256 ≤ (256#16).toNat ∧ 0 + 0 * 0 + 1 * 4 ≤ 0xC000
    ∧ (rwParked 0#16 0xBFFE#64).ownOffset 0 0xBFFE#64 = some 0xBFFE ∧ 0xC000 < 0xBFFE + 0 * 0 + 1 * 4 := by
  simp only [RwaccFields]
  refine ⟨⟨rfl, ?_⟩, ?_, ?_, ⟨?_, memOk_of ?_, ?_, ?_, ?_, ?_, ?_, ?_, ?_, ?_, ?_, ⟨?_, fun _ => ?_⟩, ?_, ?_⟩, ?_, ?_, ?_, ?_, ?_, ?_⟩ <;>
    decide +kernel
/-- Walker: control words of TNEW at the ends of their fields; bases of other classes and out of line. -/
def tnewCtl (d vd cap : Nat) : Word := BitVec.ofNat 64 (d + 2 ^ 16 * vd + 2 ^ 32 * cap)
theorem hyp_walk_issue : h0.cur.slot = 4 ∧ w0.cur.slot ≠ 4 ∧ w0.me.anyPending [.l 0, .a 0, .zr] = false
    ∧ w0.engineWaits w0.cur = false ∧ w0.mismatched w0.cur = false
    ∧ walkOperand w0 (.l 0) (tnewCtl 1 0 1) .tnew ∧ walkOperand w0 (.l 0) (tnewCtl 256 256 0xFFFFFFFF) .tnew
    ∧ ¬ walkOperand w0 (.l 0) (tnewCtl 0 0 1) .tnew ∧ ¬ walkOperand w0 (.l 0) (tnewCtl 257 0 1) .tnew
    ∧ ¬ walkOperand w0 (.l 0) (tnewCtl 1 257 1) .tnew ∧ ¬ walkOperand w0 (.l 0) (tnewCtl 1 0 0) .tnew
    ∧ walkOperand w0 (.l 0) 0#64 .tapp ∧ walkOperand w0 (.l 0) 32#64 .twalk ∧ (∃ off, w0.blkCheck 0 (w0.reg (.l 0)) 16 16 false = .ok off)
    ∧ ea0.toNat / 2 ^ 60 = 2 ∧ ea0.toNat / 2 ^ 36 % 2 ^ 24 ≠ 0 ∧ ea0.toNat % 64 = 0 ∧ (w0.reg (.a 0)).toNat / 2 ^ 60 ≠ 2
    ∧ (ea0 + 8#64).toNat % 64 ≠ 0 ∧ (w0.src (.lit 0x1FFFFFFFF#64)).toNat / 2 ^ 33 = 0
    ∧ (w0.src (.lit 0x200000000#64)).toNat / 2 ^ 33 ≠ 0 := by
  simp only [walkOperand]
  refine ⟨?_, ?_, ?_, ?_, ?_, ?_, ?_, ?_, ?_, ?_, ?_, ?_, ?_, ⟨_, rfl⟩, ?_, ?_, ?_, ?_, ?_, ?_, ?_⟩ <;> decide +kernel
/-- An engine's access passes, with a property of what it gives. -/
def passes {α : Type} (e : Eng α) (p : α → State → Bool) : Bool :=
  match e with
  | .ok a u => p a u
  | _ => false
/-- A tree's descriptor in the page at ea0, and a request of the strand to the walker. -/
def walkReq (op : WalkOp) (f : WalkReq → WalkReq) : WalkReq :=
  f ⟨op, 0, 0, 0, .l 0, 0#64, ea0, tnewCtl 1 0 1, 0#32, 0#32, 0#32, false, 0#48, false, false, 0, 0#64, false, 0#64, 0⟩
/-- The bytes of a descriptor (13 R252) of dimension 1 with V, WLOCK and READERS as given. -/
def tree (valid wlock readers : Nat) : State :=
  (hm.poke (pl 0) (leBytes 4 1 ++ leBytes 4 0 ++ leBytes 1 1 ++ leBytes 1 (wlock + 2 * valid) ++ leBytes 2 readers
    ++ leBytes 4 192 ++ leBytes 4 1)).upd ⟨0, 0⟩ (fun t => { t with status := .parked (.walker 0) })
def walking (s : State) (r : WalkReq) : State := s.updGroup 0 (fun g => { g with running := some r })
theorem hyp_walker_start : (walkReq .twalk id).a.toNat % 64 = 0 ∧ (tree 1 0 0).flips = [] ∧ (tree 1 0 0).memOk
    ∧ (tree 1 0 0).walkWaits (walkReq .twalk id) = true
    ∧ (let s := (tree 1 0 0).updGroup 0 (fun g => { g with walkq := [walkReq .twalk id] })
       (s.group 0).running = none ∧ (s.group 0).walkq = [walkReq .twalk id]
       ∧ passes (s.walkTree ((walkReq .twalk id).who s) ea0 .read [(0, 64)] [])
         (fun a u => a.isNone && !(u.descAt ea0).wlock && decide ((u.descAt ea0).readers < 0xFFFF)) = true)
    ∧ ((tree 1 1 0).descAt ea0).wlock = true ∧ ((tree 1 0 1).descAt ea0).readers ≠ 0 ∧ ((tree 1 0 0).descAt ea0).valid = true
    ∧ ((tree 0 0 0).descAt ea0).valid = false ∧ ((tree 0 0 0).descAt ea0).readers = 0 := by
  refine ⟨?_, ?_, memOk_of ?_, ?_, ?_, ?_, ?_, ?_, ?_, ?_⟩ <;> decide +kernel
theorem hyp_walker_runs : (let s := walking (tree 1 0 0) (walkReq .tnew id)
      (s.group 0).running = some (walkReq .tnew id) ∧ s.mismatched (walkReq .tnew id).id = false
      ∧ (s.strand (walkReq .tnew id).id).status = .parked (.walker 0) ∧ s.walkWaits (walkReq .tnew id) = true
      ∧ s.descZero ea0 = true)
    ∧ ((tree 1 0 0).poke (pl 0x30) [1#8]).descZero ea0 = false
    ∧ ea0.toNat % 2 ^ 36 + 64 + (64 + 68 * (1 + 0) + 63) / 64 * 64 * 1 ≤ ((tree 1 0 0).handle 2).limit.toNat + 1
    ∧ passes ((tree 0 0 0).walkTree ((walkReq .tnew id).who (tree 0 0 0)) ea0 .write [] [(64, 64 + 4 * (1 + 0)), (0, 64)])
      (fun a _ => a.isNone) = true
    ∧ passes ((tree 1 0 0).walkRead ((walkReq .tapp id).who (tree 1 0 0)) 0x400#64 4) (fun a _ => a.2.isNone) = true
    ∧ (f32s 1 (leBytes 4 0x7FC00000)).any (fun x => !f32Finite x) = true ∧ ((tree 1 0 0).descAt ea0).used ≤ 0
    ∧ BitVec.ofNat 64 ((tree 1 0 0).descAt ea0).version ≠ 5#64 ∧ BitVec.ofNat 64 ((tree 1 0 0).descAt ea0).version = 0#64
    ∧ (tree 1 0 0).blkCheck 0 ((tree 1 0 0).readReg ⟨0, 0⟩ (.l 0)) 16 16 false = .ok 0 ∧ ((tree 1 0 0).cell 0).eccinj = 0#31
    ∧ (walkReq .twalk id).rlock = false := by
  decide +kernel
/-- The bytes that are not zero of a tree of dimension 1 (08 R159, R160): its descriptor, and a node at an offset. -/
def descCells (root height flags used keys : Nat) : List (Nat × Nat) :=
  [(0, 1), (4, root), (8, height), (9, flags), (12, 192), (16, 4), (20, used), (24, 255), (25, 255), (26, 255), (27, 255), (32, 7), (40, keys)]
def leafCells (o parent fill sum : Nat) : List (Nat × Nat) :=
  [(o, 1), (o + 8, parent), (o + 12, 1), (o + 13, fill), (o + 48, 1), (o + 66, sum % 256), (o + 67, sum / 256), (o + 70, sum % 256),
    (o + 71, sum / 256)]
def rootCells : List (Nat × Nat) :=
  [(448, 2), (455, 64), (456, 255), (457, 255), (458, 255), (459, 255), (460, 2), (461, 2), (468, 1), (496, 1), (514, 192), (515, 64)]
/-- A strand that waits for the walker, with 4.0 and a walk block in local memory, and a tree. -/
def planted (cap : Nat) (cells : List (Nat × Nat)) : State :=
  let at' (l : Loc) (e : Nat × Nat) : Nat × Byte := (l.key + e.1, BitVec.ofNat 8 e.2)
  { parked (.walker 0) with
    handles := hm.handles, pages := hm.pages, hubs := hm.hubs
    mem := ([(0x402, 0x80), (0x403, 0x40), (0x421, 4), (0x429, 5), (0x430, cap)].map (at' (ownAt 0)))
      ++ ((cells.filter (fun e => e.2 != 0)).map (at' (pl 0))) }
/-- A leaf that holds 1.0, and a root over it and another that holds 5.0. -/
def leafTree (flags fill : Nat) : State := planted 1 (descCells 0 1 flags 1 1 ++ leafCells 64 0 fill 0x3F80)
def innerTree (flags : Nat) : State := planted 2 (descCells 2 2 flags 3 2 ++ leafCells 64 2 1 0x3F80 ++ leafCells 256 2 1 0x40A0 ++ rootCells)
def tappReq : WalkReq := { walkReq .tapp id with b := 0x400#64 }
def tapping : State := walking (innerTree 3) tappReq
def twalkReq (f : WalkReq → WalkReq) : WalkReq := f { walkReq .twalk id with b := 0x420#64, version := 7#64 }
def opens0 : Opens := ⟨false, 0#32, 0#32, 0, [0x40800000#32]⟩
theorem keys_apart (h base n : Nat) (s : State) (hk : ∀ x, x < n → (s.hwLoc h x).key = base + x) :
    ∀ x y, x < n → y < n → (s.hwLoc h x).key = (s.hwLoc h y).key → x = y := by
  intro x y hx hy h
  rw [hk x hx, hk y hy] at h
  omega
def nodeLegalB (d : Desc) (x : Node) : Bool :=
  decide ((x.zeros = 0 ∧ (x.kind = 1 → ∀ c ∈ x.child, c = 0) ∧ (x.kind = 2 → ∀ c ∈ x.child.drop x.fill, c = 0))
    ∧ (x.kind = 1 ∧ x.fill ≤ 16 ∨ x.kind = 2 ∧ 1 ≤ x.fill ∧ x.fill ≤ 8 ∧ ∀ c ∈ x.child.take x.fill, c < d.used))
theorem nodeLegal_of {d : Desc} {x : Node} (h : nodeLegalB d x = true) : NodeLegal d x := by
  simp only [NodeLegal, NodeZeros]
  exact of_decide_eq_true h
def walkSoundB (s : State) (base : Word) (d : Desc) (o : Opens) : Nat → Nat → Bool
  | 0, _ => false
  | k + 1, n =>
    let x := nodeAt s base d n
    nodeLegalB d x && (x.kind != 2 || (x.child.take x.fill).all (fun c => o.holds d (nodeAt s base d c) || walkSoundB s base d o k c))
theorem walkSound_of {s : State} {base : Word} {d : Desc} {o : Opens} {k n : Nat} (h : walkSoundB s base d o k n = true) :
    WalkSound s base d o k n := by
  induction k generalizing n with
  | zero => cases h
  | succ k ih =>
    simp only [walkSoundB, Bool.and_eq_true, Bool.or_eq_true, bne_iff_ne, List.all_eq_true] at h
    exact ⟨nodeLegal_of h.1, fun hk c hc => (h.2.resolve_left (fun h' => h' hk) c hc).imp_right ih⟩
def isOff (e : Except Cause Nat) (n : Nat) : Bool :=
  match e with
  | .ok off => off == n
  | _ => false
/-- The walker's requests that come to an end: an append over a path of two nodes, walks that end, that fill their buffer, that are
stale and that find a bad descriptor, and summaries. -/
theorem hyp_tapp : (let s := tapping; let r := tappReq; let d := s.descAt r.a
    (s.group 0).running = some r ∧ s.walkClosed r = false ∧ s.mismatched r.id = false ∧ s.walkWaits r = true ∧ s.flips = [] ∧ s.memOk
    ∧ r.a.toNat % 64 = 0 ∧ d.readers = 0 ∧ d.valid = true ∧ s.descZero r.a = true
    ∧ passes (s.walkRead (r.who s) r.b (4 * (d.d + d.vd))) (fun a u => a.2.isNone && (f32s 1 a.1).all f32Finite
      && (f32s 1 a.1 == [0x40800000#32]) && passes (u.walkTree (r.who u) r.a .write (descentReads s r.a d [2, 1]) []) (fun a v => a.isNone
        && passes (v.walkTree (r.who v) r.a .write ([2, 1].map (fun n => (64 + d.nsz * n, 64 + 4 * (d.d + d.vd))))
          (appendWrites s r.a d [1, 2])) (fun a _ => a.isNone))) = true
    ∧ TreeApart s r.a d ∧ d.root < d.used ∧ Descends s r.a d [0x40800000#32] d.root [(2, 1), (1, 0)]
    ∧ [2, 1].Nodup ∧ (∀ n ∈ [2, 1], (nodeAt s r.a d n).kind = 1 → (nodeAt s r.a d n).fill < 16)
    ∧ List.Perm [1, 2] [2, 1] ∧ [1, 2].Pairwise (fun x y => x < y)) := by
  simp only [TreeApart, Descends, NodeLegal, NodeZeros]
  refine ⟨?_, ?_, ?_, ?_, ?_, memOk_of ?_, ?_, ?_, ?_, ?_, ?_, ⟨?_, ?_, keys_apart 2 (tapping.hwLoc 2 0).key _ _ ?_⟩, ?_, ?_, ?_, ?_, ?_, ?_⟩ <;>
    decide +kernel
theorem hyp_twalk : (let r := twalkReq id; let s := walking (innerTree 2) r; let d := s.descAt r.a
    r.rlock = false ∧ d.wlock = false ∧ BitVec.ofNat 64 d.version = r.version ∧ d.valid = true ∧ s.descZero r.a = true
    ∧ r.progValid = false ∧ d.root < d.used ∧ isOff (s.blkCheck 0 (BitVec.ofNat 64 0x500) (8 * 2) 8 false) 0x500 = true
    ∧ WalkSound s r.a d opens0 8 d.root ∧ (emitted s r.a d opens0 8 d.root 0).length ≤ 2
    ∧ passes (s.walkRead (r.who s) r.b 32) (fun a u => a.2.isNone && decide (a.1 = s.peek (ownAt 0x420) 32)
      && passes (u.walkRead (r.who u) 0x400#64 4) (fun a v => a.2.isNone && (f32s 1 a.1 == [0x40800000#32])
        && passes (v.walkTree (r.who v) r.a .readHome (visitReads s r.a d opens0 8 d.root) []) (fun a w => a.isNone
          && (w.takeTurns 0 ((spansOf (BitVec.ofNat 64 0x500) ((emitted s r.a d opens0 8 d.root 0).flatMap (lowBytes 8))).map
            (fun (u : DWrite) => (⟨.local, 0, u.ea.toNat⟩ : Loc)))).isSome))) = true
    ∧ BlockOfWalk (s.peek (ownAt 0x420) 32) 0x400 0x500 2 0) := by
  simp only [BlockOfWalk]
  refine ⟨?_, ?_, ?_, ?_, ?_, ?_, ?_, ?_, walkSound_of ?_, ?_, ?_, ?_⟩ <;> decide +kernel
theorem hyp_twalk_ends : (let r := twalkReq (fun r => { r with progValid := true, progIndex := 1 }); let s := walking (innerTree 2) r
      r.progValid = true ∧ r.progIndex.toNat / 2 ^ 28 % 2 ^ 12 ≠ (s.descAt r.a).version % 2 ^ 12)
    ∧ ((walking (innerTree 0) (twalkReq id)).descAt ea0).valid = false
    ∧ (let s := walking (leafTree 2 2) (twalkReq id); let d := s.descAt ea0
       d.valid = true ∧ (nodeAt s ea0 d d.root).kind = 1 ∧ 1 < (emitted s ea0 d opens0 8 d.root 0).length
       ∧ WalkSound s ea0 d opens0 8 d.root ∧ BlockOfWalk (s.peek (ownAt 0x420) 32) 0x400 0x500 1 0
       ∧ passes (s.walkTree ((twalkReq id).who s) ea0 .readHome [(64 + d.nsz * d.root, 64)] []) (fun a _ => a.isNone) = true) := by
  simp only [BlockOfWalk]
  refine ⟨?_, ?_, ?_, ?_, ?_, walkSound_of ?_, ?_, ?_⟩ <;> decide +kernel
theorem hyp_tsum : (let r : WalkReq := { walkReq .tsum id with b := 2#64, version := 7#64 }
    let s := (walking (innerTree 2) r).upd ⟨0, 0⟩ (fun t => { t with rl := t.rl.set 0 0x500#64 }); let d := s.descAt r.a
    (s.cell r.cell).eccinj = 0#31 ∧ r.b.toNat < d.used ∧ ¬ 3 < d.used ∧ NodeZeros (nodeAt s r.a d 2)
    ∧ ¬ NodeZeros (nodeAt (s.poke (pl 462) [1#8]) r.a d 2) ∧ s.descZero r.a = true ∧ (s.poke (pl 0x30) [1#8]).descZero r.a = false
    ∧ isOff (s.blkCheck 0 (s.readReg r.id r.d) (summary (nodeAt s r.a d 2)).length 16 false) 0x500 = true
    ∧ passes (s.walkTree (r.who s) r.a .readHome [(64 + d.nsz * 2, 48 + (summary (nodeAt s r.a d 2)).length)] []) (fun a u => a.isNone
      && (u.takeTurns 0 ((spansOf (BitVec.ofNat 64 0x500) (summary (nodeAt s r.a d 2))).map
        (fun (u : DWrite) => (⟨.local, 0, u.ea.toNat⟩ : Loc)))).isSome) = true) := by
  simp only [NodeZeros]
  refine ⟨?_, ?_, ?_, ?_, ?_, ?_, ?_, ?_, ?_⟩ <;> decide +kernel
/-- TAPP and TWALK as they end: 13 R255, R257. -/
theorem test_tapp : (match execWalkerCompletion 0 tapping with
    | .next t => (t.descAt ea0).keys == 3 && (t.descAt ea0).version == 8 && (nodeAt t ea0 (t.descAt ea0) 1).count == 2
        && (nodeAt t ea0 (t.descAt ea0) 0).count == 1
    | _ => false) = true := by decide +kernel
theorem test_twalk : (match execWalkerCompletion 0 (walking (innerTree 2) (twalkReq id)) with
    | .next t => t.readReg ⟨0, 0⟩ (.l 0) == 0x10002#64 && leNat (t.peek (ownAt 0x500) 8) == 2 ^ 40
    | _ => false) = true := by decide +kernel
/-- Strands: entries in the team's code handle and not; join words; a full deque; GO within the cell, to a cell of the team,
and elsewhere. -/
def code0 : Word := 0x2000000000000000#64
def spawning (e j : Word) (f : Cell → Cell) : State :=
  (w0.updCell 0 f).upd ⟨0, 0⟩ (fun t => { t with rl := (t.rl.set 0 e).set 1 j })
def child0 : Child := ⟨0#32, 0#14, 0#16, 3#2, 0#64, List.replicate 6 0#64⟩
theorem hyp_strand_issue : w0.cur.slot ≠ 4 ∧ w0.me.anyPending [.l 0, .l 1, .n 0, .n 1, .n 2, .n 3, .n 4, .n 5] = false
    ∧ (w0.recOf 0).isSome = true ∧ w0.codeHandle fetchRecord = 0#24 ∧ code0 = handleAddr 0#24 0 ∧ 2 % 4 ≠ 0 ∧ 0 % 4 = 0
    ∧ (∀ o, o < 2 ^ 32 → 0#64 ≠ handleAddr (w0.codeHandle fetchRecord) o)
    ∧ (0x3000000000000000#64).toNat / 2 ^ 60 = 3 ∧ (0xBFFC#64).toNat < 0xC000 ∧ (0xBFFC#64).toNat % 8 ≠ 0
    ∧ (spawning code0 0#64 id).spawnFault code0 0#64 = none
    ∧ (let s := spawning code0 0#64 (fun c => { c with deque := List.replicate 16 child0, acnt := 1024 })
       s.spawnFault code0 0#64 = none ∧ (s.cell 0).dequeFull = true)
    ∧ (let s := spawning code0 0#64 (fun c => { c with deque := List.replicate 15 child0 })
       (s.cell 0).dequeFull = false ∧ s.dequeAbsent 0 = none ∧ s.dequeHeld 0 = false ∧ s.dequeClosed ⟨0, 0⟩ = false
       ∧ s.released ⟨0, 0⟩ .tile s.me.tsm = true)
    ∧ w0.check (w0.whoAt ⟨0, 0⟩) 0#64 8 8 .read noPromote = .ok (ownAt 0) w0
    ∧ w0.me.sup = false ∧ w0.owes w0.me.uid = false ∧ w0.me.pend = 0#24
    ∧ (hiring 1 5).cur.slot ≠ 4 ∧ ((hiring 1 5).hub 0).owners.any (fun x => x.2.isOf (hiring 1 5).cur) = true
    ∧ (let s := hired (hire0 id) 0#16; ∃ r ∈ (s.hub 0).hires, r.isOf s.cur s.me.uid = true)
    ∧ (w0.hub 0).owners.any (fun x => x.2.isOf w0.cur) = false ∧ (w0.hub 0).hires = []
    ∧ parseAddr 0 0#64 = some (.local 0 0) ∧ w0.released ⟨0, 0⟩ .cell w0.me.tsm = true
    ∧ parseAddr 0 0x1000010000000000#64 = some (.home 1 0) ∧ w0.teamCell 0 1 = some 1 ∧ w0.me.lower = []
    ∧ AtOnce w0 (commonScope 0 1) 1 w0.me.dcls
    ∧ parseAddr 0 0x1000100000000000#64 = some (.home 16 0) ∧ w0.teamCell 0 16 = none
    ∧ ea0.toNat / 2 ^ 60 = 2 ∧ h0.cur.slot = 4 ∧ su.me.sup = true := by
  refine ⟨?_, ?_, ?_, ?_, ?_, ?_, ?_, fun o ho h => ?_, ?_, ?_, ?_, ?_, ?_, ?_, rfl, ?_, ?_, ?_, ?_, ?_, ?_, ?_, ?_,
    ?_, ?_, ?_, ?_, ?_, ⟨?_, .inl (?_), .inl (?_)⟩, ?_, ?_, ?_, rfl, ?_⟩
  any_goals decide +kernel
  have h : (2#4 ++ w0.codeHandle fetchRecord ++ BitVec.ofNat 36 o : BitVec (4 + 24 + 36)).getLsbD 61 = false :=
    (congrArg (fun w : Word => w.getLsbD 61) h).symm
  rw [BitVec.getLsbD_append, BitVec.getLsbD_append] at h
  simp at h
/-- A GO packet of another cell of the team; a strand that waits for one of its own. -/
def packet : GoPacket :=
  ⟨⟨1, 0⟩, 5, w0.me.ra, w0.me.rl, 0#64, 0#64, false, false, false, false, 0#3, false, 0#32, 0#8, 0#3, 0#32, 0#51, 0#64, 0#14, false, 0#16,
    0#64, 0, []⟩
theorem hyp_strand_events : (let s := hm.upd ⟨0, 0⟩ (fun t => { t with status := .parked (.join ea0 (pl 0)) })
      (s.strand ⟨0, 0⟩).status = .parked (.join ea0 (pl 0)) ∧ (s.strand ⟨0, 0⟩).late = []
      ∧ (∃ u, s.check (s.whoAt ⟨0, 0⟩) ea0 8 8 .read noPromote = .ok (pl 0) u ∧ (u.access ⟨0, 0⟩ (pl 0) 8 ea0).isSome = true ∧ Intact u (pl 0)
        ∧ leNat (u.peek (pl 0) 8) = 0))
    ∧ (leNat ((hm.poke (pl 0) [1#8]).peek (pl 0) 8) ≠ 0)
    ∧ (let s := parked .exit
       s.mayEnd ⟨0, 0⟩ = true ∧ s.released ⟨0, 0⟩ (s.endScope ⟨0, 0⟩) (s.strand ⟨0, 0⟩).tsm = true ∧ (s.strand ⟨0, 0⟩).child = false
       ∧ (s.strand ⟨0, 0⟩).lock = false ∧ (s.strand ⟨0, 0⟩).late = [])
    ∧ ((parked .exit).upd ⟨0, 0⟩ (fun t => { t with late := [⟨.hiref, 0#64, 0#18⟩] })).me.late ≠ []
    ∧ (let s := hm.upd ⟨0, 0⟩ (fun t => { t with status := .parked .exit, child := true, join := ea0 })
       s.mayEnd ⟨0, 0⟩ = true ∧ s.released ⟨0, 0⟩ (s.endScope ⟨0, 0⟩) (s.strand ⟨0, 0⟩).tsm = true
       ∧ (s.strand ⟨0, 0⟩).late = [] ∧ ∃ u, s.check (s.whoAt ⟨0, 0⟩) ea0 8 8 .write atomicPromote = .ok (pl 0) u
         ∧ u.blocked 0#3 0 (pl 0) = false)
    ∧ (let s := parked (.release .tile (.goAway 1))
       s.released ⟨0, 0⟩ .tile (s.strand ⟨0, 0⟩).tsm = true ∧ sgOf 0 = sgOf 1)
    ∧ Arrives (flying (.go packet) (some 0)) 0 (flight (.go packet) (some 0)) ∧ w0.freeSlot 0 = some 1 ∧ (w0.cell 0).goQueue = []
    ∧ ((ce (fun c => { c with goQueue := List.replicate 3 packet })).cell 0).goQueue.length < 4
    ∧ ((ce (fun c => { c with goQueue := List.replicate 4 packet })).cell 0).goQueue.length = 4
    ∧ (let s := { parked .goFlight with net := [flight (.goAccept ⟨0, 0⟩ 0) (some 0)] }
       Arrives s 0 (flight (.goAccept ⟨0, 0⟩ 0) (some 0)) ∧ (s.strand ⟨0, 0⟩).status = .parked .goFlight ∧ (s.strand ⟨0, 0⟩).uid = 0)
    ∧ (let g := { packet with src := ⟨0, 0⟩, uid := 0 }
       Arrives (flying (.goReturn g true) (some 0)) 0 (flight (.goReturn g true) (some 0)))
    ∧ (let s := { parked (.goBounced 1 false 0) with cycle := 256#64 }
       (s.strand ⟨0, 0⟩).status = .parked (.goBounced 1 false 0) ∧ 0 + 256 ≤ s.cycle.toNat)
    ∧ (let f := { flight (.goResend ⟨0, 0⟩) (some 0) with srcCell := 1 }
       Arrives { parked (.goBounced 1 true 0) with net := [f] } 0 f ∧ f.srcCell = 1)
    ∧ (let s := ce (fun c => { c with goQueue := [packet], bounced := [⟨1, 0⟩] })
       (s.cell 0).goQueue = [packet] ∧ s.slotFree 0 3 = true ∧ (s.cell 0).bounced = [⟨1, 0⟩] ∧ (w0.cell 0).bounced = [])
    ∧ w0.handlesFor 3 4 = true ∧ (w0.recOf 0).isSome = true
    ∧ ((ce (fun c => { c with deque := [child0] })).cell 0).deque.getLast? = some child0
    ∧ (let s := { ce (fun c => { c with acnt := 1, ahead := 1023 }) with pages := [(120, pg)] }
       (s.cell 0).deque = [] ∧ 0 < (s.cell 0).acnt ∧ s.areaAbsent 0 ((s.cell 0).ahead + (s.cell 0).acnt - 1) = none)
    ∧ Arrives (flying (.steal 1 0 child0 none) (some 0)) 0 (flight (.steal 1 0 child0 none) (some 0))
    ∧ (let s := w0.updCell 1 (fun c => { c with bind := some (0, 0), deque := [child0, child0] })
       s.slotFree 0 1 = true ∧ (s.cell 0).deque = [] ∧ (s.cell 0).acnt = 0 ∧ s.victim 0 = some 1 ∧ (s.cell 1).acnt = 0
       ∧ (s.cell 1).deque = [child0, child0] ∧ s.holdsRecords 1 = false) := by
  refine ⟨⟨?_, ?_, ⟨_, rfl, ?_, ⟨?_, fun h => absurd h ?_⟩, ?_⟩⟩, ?_, ?_, ?_, ⟨?_, ?_, ?_, ⟨_, rfl, ?_⟩⟩, ?_, ⟨rfl, ?_⟩, ?_,
    ?_, ?_, ?_, ⟨⟨rfl, ?_⟩, ?_, ?_⟩, ⟨rfl, ?_⟩, ?_, ⟨⟨rfl, ?_⟩, rfl⟩, ?_, ?_, ?_, ?_, ?_, ⟨rfl, ?_⟩, ?_⟩ <;> decide +kernel
/-- Launches: a descriptor at 0 in order, at the end of its fields, and one past them; an image of the partition. -/
def launching (w1 w2 : Nat) : State :=
  { w0.poke (ownAt 0) (leBytes 8 9 ++ leBytes 8 w1 ++ leBytes 8 w2 ++ leBytes 8 0) with
    images := [(9, { Image.zero with part := 1, header := List.replicate 256 0#8 })] }
theorem hyp_launches : w0.cur.slot ≠ 4 ∧ w0.me.sup = false ∧ (1#32) ≠ 0#32 ∧ w0.me.anyPending [.l 0, .a 0] = false
    ∧ (w0.reg (.a 0)).toNat / 2 ^ 60 ≠ 3
    ∧ (let s := launching (2 ^ 32 - 4) 0
       ∃ u, s.check (s.whoAt ⟨0, 0⟩) 0#64 32 32 .read noPromote = .ok (ownAt 0) u ∧ s.partAt 0 = 1
         ∧ ∃ y, u.access ⟨0, 0⟩ (ownAt 0) 32 0#64 = some y
           ∧ (y.readRaw (ownAt 0) 32).1 = leBytes 8 9 ++ leBytes 8 (2 ^ 32 - 4) ++ leBytes 8 0 ++ leBytes 8 0
           ∧ (y.readRaw (ownAt 0) 32).2.1 = []
           ∧ (let v := (y.readRaw (ownAt 0) 32).2.2
              (9, { Image.zero with part := 1, header := List.replicate 256 0#8 }) ∈ v.images
              ∧ (v.images.get Image.zero 9).part = 1 ∧ (v.images.get Image.zero 9).shape = 0 % 2 ^ 11
              ∧ v.launchCount 0 < 4 ∧ v.released ⟨0, 0⟩ .mod 0#51 = true))
    ∧ ¬ (2 ^ 32 < 2 ^ 32) ∧ ((launching 0 0).images.get Image.zero 8).part ≠ 1 ∧ ea0.toNat / 2 ^ 60 = 2
    ∧ h0.cur.slot = 4 ∧ su.me.sup = true
    ∧ listGet ({ w0 with launches := [⟨{ Grid.zero with part := 1 }⟩] } : State).launches 0 = some ⟨{ Grid.zero with part := 1 }⟩
    ∧ (0x8000#16).msb = true ∧ w0.gridLive (gridKey 1 0x8000) = false ∧ w0.mayEnter 1 0 = true := by
  refine ⟨?_, ?_, ?_, ?_, ?_, ⟨_, rfl, ?_, some_of ?_⟩, ?_, ?_, ?_, ?_, ?_, rfl, ?_, ?_, ?_⟩ <;> decide +kernel
/-- SpecialRegisters: a read, a write, and each refusal. -/
theorem hyp_special : w0.me.sup = false ∧ 28 ∈ [28, 29] ∧ su.me.sup = true
    ∧ Clear w0 ⟨.csrr (.l 0) 7 false, [], .l 0, CsrReads w0 7, 1, false⟩ ∧ (23 ∈ readOnlyCsrs) ∧ (29 ∈ supervisorCsrs)
    ∧ 7 ∉ readOnlyCsrs ∧ 7 ∉ supervisorCsrs ∧ w0.me.anyPending (Src.reg (.l 0)).regs = false := by
  refine ⟨?_, ?_, ?_, ⟨?_, ?_⟩, ?_, ?_, ?_, ?_, ?_⟩ <;> decide +kernel
/-- Traps: ERET to a multiple of 4 and to none; a late trap of a strand that may leave its wait. -/
theorem hyp_traps : w0.me.anyPending (Src.reg (.l 3)).regs = false ∧ su.me.epc.toNat % 4 = 0
    ∧ ((st (fun t => { t with sup := true, epc := 2#64 })).me.sup = true ∧ (st (fun t => { t with sup := true, epc := 2#64 })).me.epc.toNat % 4 ≠ 0)
    ∧ w0.me.sup = false
    ∧ (let x := (st (fun t => { t with late := [⟨.hiref, 0#64, 0#18⟩] })).me
       x.late = [⟨.hiref, 0#64, 0#18⟩] ∧ x.sup = false ∧ x.stepDue = false ∧ x.status = .ready)
    ∧ (Wait.waitt 0#64 .zr).leaves = true := by decide +kernel
/-- CheckpointsAndContext: a pair whose twins agree, and one whose twins differ, with the last rollback that is allowed. -/
theorem hyp_checkpoints : w0.me.lock = false ∧ lk.me.lock = true ∧ (lk.pair (pairOf 0)).diverged = false ∧ lk.cur.cell = pairOf 0
    ∧ (let s := lk.updPair 0 (fun p => { p with diverged := true, rollbacks := 6, saved := [⟨0, w0.me⟩] })
       s.me.lock = true ∧ (s.pair 0).diverged = true ∧ (s.pair 0).rollbacks < 7
       ∧ (s.pair 0).mismatch ≠ some ((s.pair 0).checkpoints, s.pairCount 0 - (s.pair 0).baseline) ∧ (s.pair 0).saved = [⟨0, w0.me⟩])
    ∧ (let s := (lk.setCell 1 (lk.cell 0)).updPair 0 (fun p => { p with diverged := true, rollbacks := 7 })
       s.me.lock = true ∧ (s.pair 0).diverged = true ∧ (s.cell 0).bind.isSome = true ∧ 7 ≤ (s.pair 0).rollbacks
       ∧ (s.cell 1).bind = (s.cell 0).bind ∧ (s.strand ⟨1, 0⟩).status ≠ .free)
    ∧ (let s := lk.updPair 0 (fun p => { p with diverged := true, mismatch := some (p.checkpoints, lk.pairCount 0 - p.baseline) })
       (s.pair 0).mismatch = some ((s.pair 0).checkpoints, s.pairCount 0 - (s.pair 0).baseline)) := by
  decide +kernel
/-- A supervisor with a window below it, one spilled, and its spill area in the page at ea0. -/
def lowest : Window := ⟨w0.me.ra, w0.me.rl⟩
def spilling (lower : List Window) (n : BitVec 32) : State :=
  hm.upd ⟨0, 0⟩ (fun t => { t with sup := true, lower := lower, wspill := n, splh := ea0 })
def places (n : Nat) : List (Word × Nat) := (List.range 16).map (fun j => (ea0 + BitVec.ofNat 64 (128 * n + 8 * j), 8))
/-- The strand parked on its window move. -/
def moving (s : State) (op : WinOp) : State :=
  s.upd s.cur (fun x => { x with status := .parked (.window op), words := 1, marker := false })
theorem hyp_window_stores : (let s := spilling [lowest] 0#32
      s.me.sup = true ∧ s.owes 0 = false ∧ s.me.pend = 0#24 ∧ s.me.lower.getLast? = some lowest
      ∧ ∃ ls u, (moving s .spill).checkAll (s.whoAt ⟨0, 0⟩) 8 .write (places 0) = (ls, none, u)
        ∧ ∀ l ∈ ls, u.blocked 0#3 0 l = false)
    ∧ (spilling [] 0#32).me.lower = [] ∧ (spilling [lowest, lowest, lowest] 1#32).me.lower.length = 3
    ∧ (let s := spilling [] 1#32
       s.me.wspill ≠ 0#32 ∧ s.me.lower.length ≠ 3
       ∧ ∃ ls u, (moving s .fill).checkAll (s.whoAt ⟨0, 0⟩) 8 .read (places 0) = (ls, none, u)
         ∧ ls = (List.range 16).map (fun j => (pl 0).add (8 * j))
         ∧ (u.accessAll ⟨0, 0⟩ 8 (ls.zip ((places 0).map Prod.fst))).isSome = true ∧ ∀ l ∈ ls, u.flips = [])
    ∧ (let s := moving (spilling [lowest] 0#32) .spilled
       (s.strand ⟨0, 0⟩).status = .parked (.window .spilled) ∧ s.windowFree ⟨0, 0⟩ = true ∧ s.spillOpen ⟨0, 0⟩ = false
       ∧ (s.strand ⟨0, 0⟩).lock = false)
    ∧ (let s := { moving (spilling [lowest] 0#32) .spilled with net := [flight (.mem (.store (leBytes 8 7)) (pl 0) 8 ea0) none] }
       s.spillOpen ⟨0, 0⟩ = true ∧ s.windowFree ⟨0, 0⟩ = true) := by
  refine ⟨⟨?_, ?_, ?_, ?_, ⟨_, _, rfl, ?_⟩⟩, ?_, ?_, ⟨?_, ?_, ⟨_, _, rfl, ?_, ?_, ?_⟩⟩, ?_, ?_⟩ <;> decide +kernel
theorem hyp_system_moves : (su.reg (.a 0)).toNat / 2 ^ 60 ≠ 2 ∧ ((hmA ea0).reg (.a 0)).toNat / 2 ^ 60 = 2
    ∧ (parseAddr 0 0xBE00#64).isSome = true ∧ (0xBE00#64).toNat % 64 = 0 ∧ (0xBE08#64).toNat % 64 ≠ 0 ∧ su.me.pend = 0#24
    ∧ (∃ ls, su.checkAll (su.whoAt ⟨0, 0⟩) 32 .write ((List.range 16).map (fun x => (0xBE00#64 + BitVec.ofNat 64 (32 * x), 32)))
        = (ls, none, su) ∧ (∀ l ∈ ls, su.blocked 0#3 0 l = false ∧ (su.cell l.unit).eccinj = 0#31)
      ∧ (su.accessAll ⟨0, 0⟩ 32 (ls.zip ((List.range 16).map (fun x => 0xBE00#64 + BitVec.ofNat 64 (32 * x))))).isSome = true) := by
  refine ⟨?_, ?_, ?_, ?_, ?_, ?_, ⟨_, rfl, ?_, ?_⟩⟩ <;> decide +kernel
/-- Traps: a TRAP of a strand in user mode has been taken, in the test build and outside it. -/
def trapped (test : Bool) (b : Word) : State :=
  { (st (fun t => { t with sup := true, ecause := 0x00F#9, eval := b, pc := BitVec.ofNat 64 (4 * t.tvec.toNat) })).updPart 1
      (fun p => { p with test := test }) with turn := .world (.runtime ⟨0, 0⟩) }
theorem hyp_runtime_traps : (let s := trapped true 0xECC1000070180007#64; let x := s.strand ⟨0, 0⟩
      s.turn = .world (.runtime ⟨0, 0⟩) ∧ s.mayIssue ⟨0, 0⟩ = true ∧ x.sup = true ∧ x.psup = false ∧ x.lock = false
      ∧ x.hold ≤ s.cycle.toNat ∧ x.ecause.toNat % 256 = 0x0F ∧ x.pc = BitVec.ofNat 64 (4 * x.tvec.toNat)
      ∧ (s.partOf (s.partAt 0)).test = true ∧ x.eval.toNat / 2 ^ 48 = 0xECC1 ∧ x.eval.toNat / 2 ^ 31 % 2 ^ 17 = 0)
    ∧ ((trapped false 0#64).partOf 1).test = false := by decide +kernel
/-- 23 R367: the test build arms ECCINJ; the production build does not. -/
theorem test_runtime_trapi : ((trapped true 0xECC1000070180007#64).runtime ⟨0, 0⟩).csr ⟨0, 0⟩ 28 = 0x70180007#64
    ∧ ((trapped false 0xECC1000070180007#64).runtime ⟨0, 0⟩).csr ⟨0, 0⟩ 28 = 0#64
    ∧ (((trapped false 5#64).runtime ⟨0, 0⟩).partOf 1).reportIx = 1 := by decide +kernel
/-- NetworkAndCaches: a packet a hop from its stop and one around the ring; a rewrite; CLROUTE; a walk and a line fill. -/
theorem hyp_network : (let f := { flight .ack none with packet := true, pos := ⟨15, 7⟩, dst := ⟨0, 0⟩ }
      listGet ({ w0 with net := [f] } : State).net 0 = some f ∧ f.packet = true ∧ f.heldBy = none ∧ f.reached = none
      ∧ f.waits = false ∧ f.pos ≠ f.dst ∧ f.pos.col < 16
      ∧ f.dst.col < 16 ∧ f.pos.stop < 8 ∧ f.dst.stop < 8)
    ∧ listGet ({ w0 with rewrites := [64] } : State).rewrites 0 = some 64
    ∧ (let s := { w0 with closed := 0x80#8 }
       ∀ c < 8, (0x80#8).getLsbD c ≠ s.adapt.getLsbD c → s.closed.getLsbD c = true ∧ (0x80#8).getLsbD c = true
        ∧ s.net = [])
    ∧ ¬ (∀ c < 8, (0x80#8).getLsbD c ≠ w0.adapt.getLsbD c → w0.closed.getLsbD c = true)
    ∧ (let f : Forward := ⟨7, [0], false, 2, 1, 0, [1#8]⟩; let s := { w0 with forwards := [⟨6, [0], false, 2, 1, 1, [1#8]⟩, f] }
       listGet s.forwards 1 = some f ∧ s.memOk ∧ Intact s (replicaLoc 1 2 0)
       ∧ ∀ g ∈ s.forwards.take 1, g.off + g.data.length ≤ f.off ∨ f.off + f.data.length ≤ g.off) := by
  refine ⟨?_, rfl, ?_, ?_, ⟨rfl, rfl, ⟨rfl, nofun⟩, ?_⟩⟩ <;> decide +kernel
/-- A walk for two misses, and the fill of the last line of a page, whose column is poisoned or not. -/
def caching (ps : List Nat) : State :=
  { hm with walks := [⟨0, 1, 2, 0, [(0, .slot ⟨0, 0⟩), (1, .host)]⟩], fills := [⟨0, 1, 2, 63, [(⟨0, 0⟩, 0)]⟩],
            flips := if ps.isEmpty then [] else [((pl (63 * 64)).column, ps)] }
theorem hyp_caches : (let s := caching []
      listGet s.walks 0 = some ⟨0, 1, 2, 0, [(0, .slot ⟨0, 0⟩), (1, .host)]⟩ ∧ (s.handle 2).v = true ∧ (s.handle 2).tenant.toNat = 1
      ∧ (s.page 2 0).p = true ∧ listGet s.fills 0 = some ⟨0, 1, 2, 63, [(⟨0, 0⟩, 0)]⟩
      ∧ (s.page 2 (63 * 64 / pageSize (s.handle 2).psz)).p = true ∧ (s.handle 2).repl = false
      ∧ (s.readRaw (pl (63 * 64)) 64).2.1 = [] ∧ s.flips = [] ∧ (pl (63 * 64)).space ≠ .local)
    ∧ ((caching [3]).readRaw (pl (63 * 64)) 64).2.1 ≠ []
    ∧ (absent.page 2 0).p = false ∧ (w0.handle 2).v = false := by decide +kernel
/-- Pages: a page present in HBM; one absent, a free frame of its size; the move, the eviction and the clearing of a page. -/
def waitsPage (s : State) : State :=
  ({ s with pageWaits := [⟨2, 0, .slot ⟨0, 0⟩, false⟩] } : State).upd ⟨0, 0⟩ (fun t => { t with status := .parked (.page 2 0) })
/-- Partition 1 with a share of two pages of HBM and one of a cap. -/
def shared (s : State) : State := { s with parts := [(1, { Part.zero with live := true, hbm := 8192, cap := 4096 })] }
theorem hyp_pager : (waitsPage hm).memOk ∧ listGet (waitsPage hm).pageWaits 0 = some ⟨2, 0, .slot ⟨0, 0⟩, false⟩
    ∧ (hm.page 2 0).layer = 1#2 ∧ ((waitsPage absent).page 2 0).p = false ∧ (waitsPage absent).shareHolds 1 1 4096 = false
    ∧ (let s := waitsPage (shared absent)
       s.shareHolds 1 1 4096 = true ∧ s.frameFree 1 15 (60 * 2 ^ 18 - 1) 4096 = true ∧ (s.fillBytes 1 0 4096).1 = some []
       ∧ s.frameFree 1 0 0 4096 = false ∧ (s.page 2 0).fill = 0 ∧ (s.page 2 0).p = false
       ∧ (s.strand ⟨0, 0⟩).status = .parked (.page 2 0))
    ∧ (let s := waitsPage (shared (hm.setPage 2 0 { pg with layer := 2#2 }))
       listGet s.pageWaits 0 = some ⟨2, 0, .slot ⟨0, 0⟩, false⟩ ∧ (s.page 2 0).p = true ∧ (s.page 2 0).layer ≠ 1#2
       ∧ (s.page 2 0).transit = false ∧ s.pageBusy 2 0 = false ∧ s.shareHolds 1 1 4096 = true
       ∧ s.frameFree 1 15 (60 * 2 ^ 18 - 1) 4096 = true ∧ s.uncleared 1 15 ((60 * 2 ^ 18 - 1) * 4096) 4096 = false) := by
  refine ⟨memOk_of ?_, rfl, ?_, ?_, ?_, ?_, rfl, ?_, ?_, ?_, ?_, ?_, ?_, ?_⟩ <;> decide +kernel
theorem hyp_pages_move : hm.memOk ∧ 2 ^ 24 - 1 < 2 ^ 24 ∧ (hm.page 2 0).p = true ∧ (hm.page 2 0).transit = false
    ∧ (hm.page 2 0).clear = false
    ∧ (let s := hm.setPage 2 0 { pg with transit := true }
       (s.page 2 0).p = true ∧ (s.page 2 0).transit = true ∧ (s.page 2 0).clear = false ∧ s.pageBusy 2 0 = false
       ∧ s.forwarding 2 0 = false ∧ s.keptFrame 2 0 0 = true
       ∧ ({ s with forwards := [⟨1, [0], false, s.pageKey 2 0, 1, 0, [1#8]⟩] } : State).forwarding 2 0 = true)
    ∧ ({ hm with net := [flight (.mem (.store [1#8]) (pl 0) 1 ea0) none] } : State).pageBusy 2 0 = true
    ∧ (let s := shared (hm.setPage 2 0 { pg with transit := true, clear := true })
       (s.page 2 0).p = true ∧ (s.page 2 0).transit = true ∧ (s.page 2 0).layer ≠ 3#2 ∧ (s.page 2 0).clear = true
       ∧ s.pageBusy 2 0 = false ∧ s.pageOfKey (s.pageKey 2 0) = some (2, s.handle 2) ∧ (s.handle 2).repl = false
       ∧ 0#2 ≠ (s.page 2 0).layer ∧ s.shareHolds (s.handle 2).tenant.toNat 0 4096 = true
       ∧ s.frameFree 0 0 2 4096 = true ∧ s.uncleared 0 0 (2 * 4096) 4096 = false) := by
  refine ⟨memOk_of ?_, ?_, ?_, ?_, ?_, ?_, ?_, ?_⟩ <;> decide +kernel
/-- Entries of raw bytes and of e4m3 with a scale plane of handle 2; a LIMIT one byte short; handles at both ends. -/
theorem hyp_handle_entries : 0 < 2 ^ 24 - 1 ∧ 2 ^ 24 - 1 < 2 ^ 24 ∧ EntryLegal w0 0x10F00F#64 0xFFF#64 0#64 0#64
    ∧ EntryLegal hm 0x100013203#64 0xFFF#64 0#64 0x2000002000000000#64
    ∧ ¬ EntryLegal w0 0x10F00F#64 0xFFE#64 0#64 0#64 ∧ (0x10F00F#64).toNat % 2 = 1 ∧ (0x10F00E#64).toNat % 2 = 0
    ∧ (∃ q ∈ ({ w0 with parts := [(1, { Part.zero with freeing := some 2 })] } : State).parts, q.2.freeing = some 2)
    ∧ ¬ ∃ q ∈ w0.parts, q.2.freeing = some 2 := by
  simp only [EntryLegal]
  refine ⟨?_, ?_, ?_, ?_, ?_, ?_, ?_, ⟨_, List.mem_singleton.mpr rfl, rfl⟩, ?_⟩ <;> decide +kernel
/-- Binding: a grid of one tile waits in partition 1, whose first rectangle is at tile 1 of hub 0. -/
def grid0 : Grid := { Grid.zero with part := 1, image := 9, teams := 1 }
def part0 : Part := { Part.zero with live := true, pairs := 1#128, pending := [.grid 5] }
def pending : State :=
  { w0 with parts := [(1, part0)], grids := [(gridKey 1 5, grid0)], handles := w0.handles.set 9 hd,
            images := [(9, { Image.zero with part := 1, header := List.replicate 256 0#8 })] }
def saved0 : SavedTeam := ⟨{ fetchRecord with save := ea0 }, [], [], [], [], [], []⟩
theorem hyp_team_binding : pending.memOk ∧ pending.headEntry 1 = some (0, .grid 5) ∧ pending.rectFor 1 (.grid 5) = some (0, 1, 0)
    ∧ false = decide (dieOf (0 * 4096) = 1) ∧ (pending.bindRec 0 255).v = false ∧ (5 < 2 ^ 16) ∧ (pending.handle 9).v = true
    ∧ pending.imageAbsent (pending.newRecord 1 5 0 1 0 100) = none ∧ pending.runFree 100 (2 * 16 + 2) = true
    ∧ (let s := { pending with parts := [(1, { part0 with pending := [.saved 5 saved0] })] }
       s.headEntry 1 = some (0, .saved 5 saved0) ∧ s.rectFor 1 (.saved 5 saved0) = some (0, 1, 0)
       ∧ s.imageAbsent saved0.record = none) := by
  refine ⟨memOk_of (?_), ?_, ?_, ?_, ?_, ?_, ?_, ?_, ?_, ?_⟩ <;> decide +kernel
/-- SlotBinding: the last slot entry of the record's tile, and ones outside it; the page of its save image is there. -/
def record0 : BindRec := { fetchRecord with last := 15#14, entry := code0, save := ea0 }
def recorded (r : BindRec) : State :=
  ((List.range 16).foldl (fun s c => s.updCell c (fun x => { x with bind := some (0, 0) })) hm).updSg 0 (fun h => { h with recs := h.recs.set 0 r })
theorem hyp_slot_binding : RecordLegal record0 ∧ ¬ RecordLegal fetchRecord ∧ fetchRecord.v = true ∧ 15 ∈ cellsOf 0 record0
    ∧ 16 ∉ cellsOf 0 record0 ∧ 60 % 4 ≤ record0.sm1.toNat ∧ record0.sm1.toNat < 61 % 4
    ∧ (let s := recorded record0
       (s.cell 15).bind = some (0, 0) ∧ ((s.sg 0).slots.get SlotEntry.zero 60).v = false ∧ record0.rst = false
       ∧ s.slotFree 15 0 = true ∧ s.argsAbsent record0.args = none ∧ (record0.save.extractLsb' 36 24).toNat = 2
       ∧ s.hwAbsent 2 0 64 = none ∧ s.hwHeld 2 0 64 = false ∧ Memory.wf s.mem = true) := by
  simp only [RecordLegal]
  refine ⟨?_, ?_, ?_, ?_, ?_, ?_, ?_, ?_⟩ <;> decide +kernel
/-- Swapping: a grid that needs a whole die waits, the team of cell 0 and its like on the other die in its way; all its slots
are bound. -/
def blockedBy (r : BindRec) (q cycle : Nat) : State :=
  { ((recorded r).updCell 32768 (fun x => { x with bind := some (0, 0) })).updSg 0 (fun h =>
      { h with slots := (List.range 16).map (fun c => (4 * c, ⟨0#8, true⟩)) }) with
      parts := [(1, { part0 with quantaAt := q, rotating := true })], grids := [(gridKey 1 5, { grid0 with wm1 := 15#4, hm1 := 15#4 })],
      cycle := BitVec.ofNat 64 cycle }
/-- The same, with its one strand asleep. -/
def idling (cycle : Nat) : State := (blockedBy record0 (2 ^ 22) cycle).upd ⟨0, 0⟩ (fun t => { t with status := .parked (.sleep none) })
/-- No team is idle, where none of the bound ones is. -/
theorem none_idle {s : State} {pt : Nat} {e : PendEntry} (h : ∀ q ∈ s.teamsOf pt, ¬ IdleVictim s pt e q) :
    ∀ q, ¬ IdleVictim s pt e q := fun q v => h q v.1.1 v
theorem hyp_victim : (let s := blockedBy record0 (2 ^ 22) (2 ^ 22)
      s.headEntry 1 = some (0, .grid 5) ∧ (s.partOf 1).live = true ∧ (s.partOf 1).rotating = true ∧ s.swapping 1 = false
      ∧ s.rectFor 1 (.grid 5) = none ∧ Victim s 1 (.grid 5) (0, 0) ∧ s.teamsOf 1 = [(0, 0)]
      ∧ (s.strand ⟨0, 0⟩).status = .ready ∧ (s.strand ⟨0, 0⟩).lastIssue = 0 ∧ s.launchRegs 0 = [])
    ∧ (blockedBy { record0 with saving := 1 } (2 ^ 22) (2 ^ 22)).swapping 1 = true
    ∧ ¬ Victim (blockedBy { record0 with noswap := true } (2 ^ 22) (2 ^ 22)) 1 (.grid 5) (0, 0)
    ∧ ¬ Victim (blockedBy { record0 with since := 1 } (2 ^ 22) (2 ^ 22)) 1 (.grid 5) (0, 0)
    ∧ Before record0 { record0 with since := 1 } := by
  simp only [Victim, Candidate, Before]
  decide +kernel
theorem hyp_no_idle : ∀ q, ¬ IdleVictim (blockedBy record0 (2 ^ 22) (2 ^ 22)) 1 (.grid 5) q := by
  apply none_idle
  have h : (blockedBy record0 (2 ^ 22) (2 ^ 22)).teamsOf 1 = [(0, 0)] := by decide +kernel
  rw [h]
  rintro q hq ⟨-, v⟩
  obtain rfl := List.mem_singleton.mp hq
  rcases (v 0 (by decide +kernel)).2 0 with v | v
  · exact absurd v (by decide +kernel)
  · exact absurd v.1 (by decide +kernel)
theorem hyp_idle_victim : (let s := idling (2 ^ 22 + 1)
      s.headEntry 1 = some (0, .grid 5) ∧ s.swapping 1 = false ∧ s.rectFor 1 (.grid 5) = none ∧ record0.part.toNat = 1
      ∧ Candidate s 1 (.grid 5) (0, 0) ∧ 0 + 2 ^ 22 < s.cycle.toNat ∧ (s.strand ⟨0, 0⟩).status = .parked (.sleep none)
      ∧ (∀ c ∈ cellsOf 0 record0, (s.cell c).goQueue = []) ∧ ∀ c ∈ cellsOf 0 record0, ∀ k : Fin 5, (c ≠ 0 ∨ k ≠ 0) → (s.strand ⟨c, k⟩).status = .free)
    ∧ w0.headEntry 1 = none
    ∧ (let p : Part := { part0 with stall := 64, stallHead := some (.grid 5) }; p.stallHead = some (.grid 5) ∧ 64 ≤ p.stall) := by
  simp only [Candidate]
  decide +kernel
/-- TeamImages: a team whose image lies in a page of 2 MiB, drained; its image with LIMIT at its size and one byte short. -/
def saveHd (limit : Nat) : Handle := { hd with psz := 3#3, limit := BitVec.ofNat 36 (limit - 1) }
def savingAt (phase limit : Nat) : State :=
  { recorded { record0 with save := ea0, saving := phase } with
      handles := w0.handles.set 2 (saveHd limit), pages := [(0x10000000, { pg with frame := 512#36 })] }
theorem hyp_team_saves : (savingAt 1 1).memOk ∧ ((savingAt 1 1).bindRec 0 0).saving = 1 ∧ record0.v = true ∧ record0.lock = false
    ∧ (∀ c ∈ cellsOf 0 record0, ((savingAt 1 1).pair (pairOf c)).diverged = false)
    ∧ (let s := savingAt 2 (2 ^ 21)
       let n := (s.settleTeam 0 (s.bindRec 0 0)).saveCounts 0 (s.bindRec 0 0)
       s.teamDrained 0 (s.bindRec 0 0) = true ∧ n.size ≤ 2 ^ 21 ∧ s.hwAbsent 2 0 (Nat.max 256 (n.progress (2 ^ 21))) = none
       ∧ s.hwHeld 2 0 (Nat.max 256 (n.progress (2 ^ 21))) = false)
    ∧ (let s := savingAt 2 886784
       let n := (s.settleTeam 0 (s.bindRec 0 0)).saveCounts 0 (s.bindRec 0 0)
       n.size = 887040 ∧ 886784 < n.size)
    ∧ ({ savingAt 2 1 with net := owing.net } : State).teamDrained 0 ((savingAt 2 1).bindRec 0 0) = false
    ∧ (savingAt 2 (2 ^ 21)).savePending 0 ((savingAt 2 (2 ^ 21)).bindRec 0 0) = none
    ∧ (let s := (recorded { record0 with lock := true, saving := 2 })
       ({ s with net := [{ flight (.mem (.store [1#8]) (ownAt 8) 1 8#64) none with heldBy := some 0 }] } : State).savePending 0 (s.bindRec 0 0) = some 0)
    ∧ ((savingAt 3 1).bindRec 0 0).saving = 3 ∧ ea0.toNat % 2 ^ 36 % 256 = 0
    ∧ (savingAt 3 (2 ^ 21)).hwHeld 2 0 64 = false := by
  refine ⟨memOk_of (?_), ?_, ?_, ?_, ?_, ?_, ?_, ?_, ?_, ?_, ?_, ?_, ?_⟩ <;> decide +kernel
/-- A saved team bound again, whose image has VALID clear, or set with the shape of the record. -/
def restoring (valid : Nat) : State :=
  let s := (savingAt 0 (2 ^ 21)).updSg 0 (fun _ => ⟨[(0, { record0 with save := ea0, rst := true })],
    (List.range 16).map (fun c => (4 * c, ⟨0#8, true⟩)), [(0, saved0)]⟩)
  ({ s with grids := [(gridKey 1 0, grid0)] } : State).poke ⟨.hbm, 0, 512 * 4096⟩ (leBytes 8 valid)
theorem hyp_team_restores : (restoring 1).memOk ∧ ((restoring 1).bindRec 0 0).v = true ∧ ((restoring 1).bindRec 0 0).rst = true
    ∧ (restoring 1).allBound 0 0 ((restoring 1).bindRec 0 0) = true
    ∧ ((restoring 1).sg 0).restores.find? (fun (e : Nat × SavedTeam) => e.1 == 0) = some (0, saved0)
    ∧ (restoring 1).hwAbsent 2 0 256 = none ∧ leNat ((restoring 0).hwRead 2 0 4).1 % 2 = 0 ∧ ((restoring 0).hwRead 2 0 4).2.1 = false
    ∧ ((restoring 0).grid (gridKey 1 0)).teams ≠ 0 ∧ ((restoring 0).grid (gridKey 1 0)).finished = false
    ∧ (let head := ((restoring 1).hwRead 2 0 4).1
       leNat (head.take 1) % 2 = 1 ∧ leNat ((head.drop 0x33).take 1) = record0.wm1.toNat + 16 * record0.hm1.toNat
       ∧ leNat ((head.drop 0x34).take 1) % 4 = record0.sm1.toNat ∧ leNat ((head.drop 0x30).take 1) / 2 % 2 = 0 ∧ record0.lock = false)
    ∧ (let s := { restoring 1 with flips := [((pl (511 * 4096)).column, [0, 1])] }
       (s.hwRead 2 0 4).2.1 = true) := by
  refine ⟨memOk_of (?_), ?_, ?_, ?_, ?_, ?_, ?_, ?_, ?_, ?_, ?_⟩ <;> decide +kernel
/-- The image of one strand, which waited for nothing. -/
def restored : State :=
  let v : SavedTeam := { saved0 with strands := [⟨5, 0#14, false, 0, w0.me.marks, [], false, none, 0, false⟩] }
  ((restoring 1).poke ⟨.hbm, 0, 512 * 4096 + 0x18⟩ [1#8]).updSg 0 (fun h => { h with restores := [(0, v)] })
theorem hyp_strand_restored : (let s := (restored.hwRead 2 0 4).2.2
      let head := (restored.hwRead 2 0 4).1
      let n : Counts := ⟨1, 0, 0, 0, 0⟩
      let img := (s.hwRead 2 0 (n.size / 64 + 1)).1
      let w := (s.hwRead 2 0 (n.size / 64 + 1)).2.2
      let r := restored.bindRec 0 0
      let v := (restored.sg 0).restores.get saved0 0
      (restored.hwRead 2 0 4).2.1 = false
      ∧ leNat ((head.drop 0x18).take 4) = 1 ∧ leNat ((head.drop 0x1C).take 4) = 0 ∧ leNat (head.take 1) % 2 = 1
      ∧ s.hwAbsent 2 0 n.size = none ∧ (s.hwRead 2 0 (n.size / 64 + 1)).2.1 = false ∧ w.hwHeld 2 0 64 = false
      ∧ imageZeros n img = true
      ∧ (w.checkArrivals (.saver 0 0) r (v.held 0 r (n.strands v img))).2.1 = none
      ∧ leNat ((img.drop n.tOff).take 8) % 16 ≠ 3) := by decide +kernel
/-- CommandStreams: partition 1 with a window onto host memory, a stream whose control block is at 0 and ring at 0x1000, and a
command that waits. -/
def window1 : WindowEntry := ⟨7#64, 0#64, 0x10000#64, 0#64⟩
def stream0 (tail : Nat) : Stream := ⟨true, 1, 0, 0, 0x3000000000000000#64, 0x3000000000001000#64, 0, 0, tail, 0#8, []⟩
def cmd0 (op : Nat) (f : Cmd → Cmd) : Cmd :=
  f ⟨0, op, true, 0x3000000000000040#64, 9#64, 0x3000000000000020#64, 0x3000000000000000#64, 32, none, 0#8, true⟩
def streaming (x : Stream) (cmd : List Byte) : State :=
  ({ hm with parts := [(1, { part0 with windows := [(0, window1)], pending := [] })], streams := [x],
             images := [(9, { Image.zero with part := 1, header := List.replicate 256 0#8 })] } : State).poke ⟨.host, 1, 0x1000⟩ cmd
/-- The 64 bytes of a command: OP and SIG, the bytes from 2, SIGADDR and SIGVAL. -/
def cmdBytes (op sig : Nat) (args : List Byte) : List Byte :=
  let b := [BitVec.ofNat 8 op, BitVec.ofNat 8 sig] ++ args
  b ++ List.replicate (0x28 - b.length) 0#8 ++ (if sig = 1 then leBytes 8 0x3000000000000040 ++ leBytes 8 9 else List.replicate 16 0#8)
    ++ List.replicate 8 0#8
/-- The command of the one stream waits to be taken. -/
def nextIs (x : Stream) (cmd : List Byte) : Bool :=
  x.live && x.err == 0#8 && decide (x.head < x.tail)
    && ((streaming x cmd).streamLoc x.part x.ring 64 .read == some ⟨.host, 1, 0x1000⟩)
    && (cmd == (streaming x cmd).peek ⟨.host, 1, 0x1000⟩ 64)
theorem nextCmd_of {x : Stream} {cmd : List Byte} (h : nextIs x cmd = true) : NextCmd (streaming x cmd) 0 x cmd := by
  simp only [nextIs, Bool.and_eq_true, beq_iff_eq, decide_eq_true_eq] at h
  obtain ⟨⟨⟨⟨h1, h2⟩, h3⟩, h4⟩, h5⟩ := h
  refine ⟨rfl, h1, h2, h3, fun m y hm _ _ _ _ => ?_, _, h4, h5⟩
  match m, hm with
  | 0, _ => exact Nat.le_refl _
  | m + 1, hm => exact absurd hm (by show (none : Option Stream) ≠ some y; exact nofun)
theorem hyp_stream_polls : (streaming (stream0 0) []).memOk ∧ (streaming (stream0 0) []).streamAt 0 = some (stream0 0)
    ∧ (streaming (stream0 0) []).streamLoc 1 0x3000000000000000#64 64 .read = some ⟨.host, 1, 0⟩
    ∧ ZeroBut ((streaming (stream0 0) []).peek ⟨.host, 1, 0⟩ 64) [(0, 17)]
    ∧ ¬ ZeroBut (((streaming (stream0 0) []).poke ⟨.host, 1, 17⟩ [1#8]).peek ⟨.host, 1, 0⟩ 64) [(0, 17)]
    ∧ leNat ((streaming (stream0 0) []).peek ⟨.host, 1, 0⟩ 8) % 64 = 0 ∧ (stream0 0).head = (stream0 0).tail
    ∧ leNat (((streaming (stream0 0) []).poke ⟨.host, 1, 0⟩ [65#8]).peek ⟨.host, 1, 0⟩ 8) % 64 ≠ 0
    ∧ (stream0 64).head ≠ (stream0 64).tail
    ∧ (let x := { stream0 0 with cmds := [cmd0 0 id] }
       listGet x.cmds 0 = some (cmd0 0 id) ∧ (cmd0 0 id).done = true ∧ (cmd0 0 id).sig = true
       ∧ (streaming x []).streamLoc 1 (cmd0 0 id).sigAddr 8 .write = some ⟨.host, 1, 64⟩
       ∧ (streaming x []).coreReleased 1 = true)
    ∧ (let s := ({ streaming (stream0 0) [] with pageWaits := [⟨2, 0, .stream 0, false⟩] } : State)
       (∃ w ∈ s.pageWaits, w.who = .stream 0 ∧ w.failed = false) ∧ ∀ w ∈ s.pageWaits, w.who = .stream 1 → w.failed = true) := by
  simp only [ZeroBut]
  refine ⟨memOk_of (?_), rfl, ?_, ?_, ?_, ?_, ?_, ?_, ?_, ?_, ?_⟩ <;> decide +kernel
/-- A COPY under way: within the window; to a page that moves; from a handle that does not allow it; from an absent page. -/
def copyCmd (dst src : Word) : Cmd := cmd0 2 (fun c => { c with dst := dst, src := src, done := false })
def coreCopying (dst src : Word) : State := streaming { stream0 0 with cmds := [copyCmd dst src] } []
theorem hyp_stream_copies : (let c := copyCmd 0x3000000000000020#64 0x3000000000000000#64
       let s := coreCopying 0x3000000000000020#64 0x3000000000000000#64
       listGet [c] 0 = some c ∧ c.op = 2 ∧ c.done = false ∧ s.coreFault 1 c.src c.len .read = none
       ∧ s.coreFault 1 c.dst c.len .write = none ∧ s.coreAbsent c.src c.len = none ∧ s.coreAbsent c.dst c.len = none
       ∧ 0 < c.len ∧ c.dst.toNat % 32 + c.len ≤ 32 ∧ c.dst.toNat / 2 ^ 60 = 3 ∧ c.src.toNat / 2 ^ 60 = 3 ∧ s.flips = [])
    ∧ (let s := (coreCopying ea0 0x3000000000000000#64).setPage 2 0 { pg with transit := true }
       s.coreFault 1 ea0 32 .write = none ∧ s.coreAbsent ea0 32 = none ∧ s.hwHeld 2 0 32 = true)
    ∧ (let s := { coreCopying 0x3000000000000000#64 ea0 with handles := [(2, { hd with pr := false })] }
       s.coreFault 1 ea0 32 .read = some .prot)
    ∧ (let s := { coreCopying 0x3000000000000000#64 ea0 with pages := [] }
       s.coreFault 1 ea0 32 .read = none ∧ s.coreAbsent ea0 32 = some (2, 0) ∧ s.pageFailed (.stream 0) 2 0 = none
       ∧ (({ s with pageWaits := [⟨2, 0, .stream 0, true⟩] } : State).pageFailed (.stream 0) 2 0).isSome = true) := by
  decide +kernel
/-- NOP with a signal, and with a byte it does not name; FENCE; JUMP to the ring's second page and to a class 2 address; HINT of a
handle up to its LIMIT and past it; an unknown OP. -/
theorem hyp_stream_commands : (streaming (stream0 64) (cmdBytes 0 1 [])).memOk
    ∧ NextCmd (streaming (stream0 64) (cmdBytes 0 1 [])) 0 (stream0 64) (cmdBytes 0 1 []) ∧ PlainCmd (cmdBytes 0 1 []) []
    ∧ SignalOk (streaming (stream0 64) []) 1 (cmdBytes 0 1 []) ∧ ¬ PlainCmd (cmdBytes 0 1 [1#8]) [] ∧ PlainCmd (cmdBytes 4 0 []) []
    ∧ PlainCmd (cmdBytes 5 0 (List.replicate 6 0#8 ++ leBytes 8 0x3000000000002000)) [(8, 8)]
    ∧ ((streaming (stream0 64) []).streamLoc 1 0x3000000000002000#64 64 .read).isSome = true ∧ ea0.toNat / 2 ^ 60 ≠ 3
    ∧ PlainCmd (cmdBytes 3 0 (List.replicate 6 0#8 ++ leBytes 8 ea0.toNat ++ List.replicate 8 0#8 ++ leBytes 6 4096)) [(8, 8), (0x18, 6)]
    ∧ ((streaming (stream0 64) []).handle 2).v = true ∧ ((streaming (stream0 64) []).handle 2).tenant.toNat = 1
    ∧ 0 + 4096 ≤ ((streaming (stream0 64) []).handle 2).limit.toNat + 1
    ∧ ¬ (0 + 4097 ≤ ((streaming (stream0 64) []).handle 2).limit.toNat + 1)
    ∧ 6 ≤ field (cmdBytes 6 0 []) 0 1 ∧ field (cmdBytes 5 0 []) 0 1 < 6 := by
  simp only [PlainCmd, ZeroBut, SignalOk]
  refine ⟨memOk_of ?_, nextCmd_of ?_, ?_⟩
  · decide +kernel
  · decide +kernel
  · and_intros <;> decide +kernel
/-- A LAUNCH in order of the last stream's number, and one that breaks each check: a dependence on itself, no team, an image of nobody,
a number that is taken, arguments out of line; a COPY within the window and one past it. -/
def launchBytes (id teams image dep args : Nat) : List Byte :=
  cmdBytes 1 0 (leBytes 2 id ++ leBytes 4 teams ++ leBytes 4 image ++ leBytes 4 0 ++ leBytes 2 0 ++ List.replicate 6 0#8 ++ leBytes 8 args
    ++ leBytes 2 dep)
theorem hyp_stream_work : NextCmd (streaming (stream0 64) (launchBytes 0x7FFF 1 9 0 ea0.toNat)) 0 (stream0 64)
      (launchBytes 0x7FFF 1 9 0 ea0.toNat)
    ∧ ZeroBut (launchBytes 0x7FFF 1 9 0 ea0.toNat) [(0, 11), (12, 6), (0x18, 32)]
    ∧ (∀ k < 4, field (launchBytes 0x7FFF 1 9 0 ea0.toNat) (0x20 + 2 * k) 2 = 0)
    ∧ (let f := field (launchBytes 0x7FFF 1 9 0 ea0.toNat)
       f 0 1 = 1 ∧ f 1 1 < 32 ∧ f 0x30 8 < 2 ^ 63 ∧ f 4 4 ≠ 0 ∧ f 0xC 4 % 4 = 0 ∧ f 2 2 = 0x7FFF ∧ f 0x18 8 / 2 ^ 60 = 2 ∧ f 0x18 8 % 8 = 0
       ∧ f 8 3 = 9)
    ∧ (let s := streaming (stream0 64) []
       (s.images.get Image.zero 9).part = 1 ∧ (s.images.get Image.zero 9).shape = 0 ∧ s.gridLive (gridKey 1 0x7FFF) = false
       ∧ (s.handle 2).v = true ∧ 0 + 56 ≤ (s.handle 2).limit.toNat + 1 ∧ s.mayEnter 1 0 = true)
    ∧ field (launchBytes 7 1 9 7 0) 0x20 2 = field (launchBytes 7 1 9 7 0) 2 2 ∧ field (launchBytes 7 0 9 0 0) 4 4 = 0
    ∧ ((streaming (stream0 64) []).images.get Image.zero 8).part ≠ 1 ∧ ¬ (0x8000 < 2 ^ 15)
    ∧ (let s := streaming (stream0 64) []
       s.inReach 1 0x3000000000000000#64 0x10000 = true ∧ s.inReach 1 0x3000000000000001#64 0x10000 = false)
    ∧ PlainCmd (cmdBytes 2 0 (List.replicate 6 0#8 ++ leBytes 8 0x3000000000000020 ++ leBytes 8 0x3000000000000000 ++ leBytes 6 32))
      [(8, 16), (0x18, 6)] := by
  simp only [PlainCmd, ZeroBut]
  refine ⟨nextCmd_of ?_, ?_, ?_, ?_, ?_, ?_, ?_, ?_, ?_, ?_, ?_⟩ <;> decide +kernel
/-- HostStreams, HostObjects, PartAndPower: a request of a code with its bytes from 0x48 waits at a function. -/
def asking (s : State) (fn : Nat) (code : Byte) (args : List Byte) : State :=
  ((({ s with started := true } : State).poke (barLoc fn 0) [1#8]).poke (barLoc fn 0x40) [code]).poke (barLoc fn 0x48) args
def parts1 : State := streaming { stream0 0 with live := false } []
theorem hyp_requests : (asking parts1 1 4#8 [20#8]).memOk ∧ Asked (asking parts1 1 4#8 [20#8]) 1 4 [(0, 1)]
    ∧ (asking parts1 1 4#8 [28#8]).bar 1 0x48 1 = 28
    ∧ (asking parts1 2 4#8 [20#8]).bar 2 0 8 ≠ (asking parts1 2 4#8 [20#8]).bar 2 8 8
    ∧ ¬ (2 = 0 ∨ ((asking parts1 2 4#8 [20#8]).partOf 2).live = true) ∧ (asking parts1 1 19#8 []).bar 1 0x40 1 = 19
    ∧ Asked (asking parts1 1 1#8 (leBytes 8 0x3000000000000000 ++ leBytes 8 0x3000000000001000)) 1 1 [(0, 16)]
    ∧ (parts1.streamNums 1).length < 16 ∧ (∀ c < 16, parts1.followed 0 ≤ parts1.followed c) ∧ parts1.followed 0 < 8
    ∧ (parts1.streamLoc 1 0x3000000000001000#64 64 .read).isSome = true
    ∧ 16 ≤ (({ parts1 with streams := (List.range 16).map (fun n => { stream0 0 with num := n, core := n / 8 }) } : State).streamNums 1).length
    ∧ (∀ c < 16, 8 ≤
      ({ parts1 with streams := (List.range 128).map (fun n => { stream0 0 with part := 2, num := n, core := n / 8 }) } : State).followed c)
    ∧ Asked (asking (streaming (stream0 0) []) 1 2#8 [0#8]) 1 2 [(0, 1)]
    ∧ Asked (asking parts1 1 3#8 ([31#8] ++ List.replicate 7 0#8 ++ leBytes 8 7 ++ leBytes 8 0x10000 ++ leBytes 8 0x1000 ++ leBytes 8 0)) 1 3
      [(0, 1), (8, 32)]
    ∧ WindowLegal parts1 1 31 ⟨7#64, 0x10000#64, 0x1000#64, 0#64⟩ ∧ ¬ WindowLegal parts1 1 31 ⟨7#64, 0xF000#64, 0x1000#64, 0#64⟩
    ∧ WindowZeros ⟨7#64, 0x10000#64, 0x1000#64, 0#64⟩ ∧ ¬ WindowZeros ⟨0x50#64, 0#64, 0#64, 0#64⟩
    ∧ Asked ((asking parts1 1 8#8 []).updPart 1 (fun p => { p with resetting := true })) 1 8 [] := by
  simp only [Asked, ZeroBut, WindowLegal, WindowZeros]
  refine ⟨memOk_of ?_, ?_⟩
  · decide +kernel
  · and_intros <;> decide +kernel
/-- A handle of raw bytes that is made in order and not; one that is freed; a fill list of one record; an image and its code. -/
def headerBytes (code : Nat) : List Byte :=
  leBytes 2 1 ++ List.replicate 6 0#8 ++ leBytes 3 code ++ List.replicate 245 0#8
def imaged : State :=
  ({ parts1 with handles := [(2, { hd with fmt := 15#4 }), (3, { hd with px := true })] } : State).poke (pl 0) (headerBytes 3)
def raw0 : List Byte := leBytes 8 0xF002 ++ leBytes 8 0xFFF ++ leBytes 8 0
theorem hyp_handles : (asking parts1 1 9#8 raw0).memOk ∧ Asked (asking parts1 1 9#8 raw0) 1 9 [(0, 24)]
    ∧ EntryLegal (asking parts1 1 9#8 raw0) 0x1F003#64 0xFFF#64 (ownMap 3) 0#64 ∧ ¬ EntryLegal parts1 0x1F003#64 0xFFE#64 0#64 0#64
    ∧ (parts1.handle 3).v = false ∧ (¬ ∃ q ∈ parts1.parts, q.2.freeing = some 3) ∧ (∀ k, 0 < k → k < 3 → (parts1.handle k).v = true)
    ∧ (parts1.handles.filter (fun x => parts1.handleUsed x.1 && decide (0 < x.1))).length < 2 ^ 24 - 1
    ∧ Asked (asking parts1 1 10#8 [2#8]) 1 10 [(0, 3)] ∧ parts1.inImage 2 = false ∧ (parts1.partOf 1).freeing = none
    ∧ (let s := (asking parts1 1 10#8 [2#8]).updPart 1 (fun p => { p with freeing := some 2 })
       Asked s 1 10 [(0, 3)] ∧ (s.partOf 1).freeing = some 2 ∧ s.handleBusy 2 = false
       ∧ ({ s with net := [flight (.mem (.store [1#8]) (pl 0) 1 ea0) none] } : State).handleBusy 2 = true)
    ∧ Asked (asking parts1 1 11#8 ([2#8] ++ List.replicate 7 0#8 ++ leBytes 8 0 ++ leBytes 8 0x3000000000000200)) 1 11 [(0, 3), (8, 16)]
    ∧ 0 * pageSize (parts1.handle 2).psz ≤ (parts1.handle 2).limit.toNat ∧ (parts1.page 2 0).p = true
    ∧ (({ parts1 with pages := [] } : State).page 2 0).p = false
    ∧ parts1.streamLoc 1 0x3000000000000200#64 16 .read = some ⟨.host, 1, 0x200⟩ ∧ (0x3000000000000200#64).toNat % 16 = 0
    ∧ leNat ((parts1.poke ⟨.host, 1, 0x200⟩ [1#8]).peek ⟨.host, 1, 0x200⟩ 4) = 1
    ∧ (parts1.streamLoc 1 0x3000000000000200#64 (16 + 16 * 1) .read).isSome = true ∧ parts1.fillFree 1 (16 + 16 * 1) = true
    ∧ Asked (asking imaged 1 12#8 [2#8]) 1 12 [(0, 3)] ∧ (imaged.handle 2).pr = true ∧ (imaged.handle 2).fmt = 15#4
    ∧ imaged.hwAbsent 2 0 256 = none ∧ (imaged.hwRead 2 0 4).1 = headerBytes 3 ∧ (imaged.hwRead 2 0 4).2.1 = false
    ∧ (({ imaged with flips := [((pl 0).column, [0, 1])] } : State).hwRead 2 0 4).2.1 = true ∧ ImageLegal imaged 1 2 (headerBytes 3)
    ∧ ¬ ImageLegal imaged 1 2 (headerBytes 2)
    ∧ Asked (asking parts1 1 13#8 [9#8]) 1 13 [(0, 3)] ∧ (parts1.imageAt 1 9).isSome = true ∧ parts1.imageBusy 1 9 = false := by
  simp only [Asked, ZeroBut, EntryLegal, ImageLegal]
  refine ⟨memOk_of ?_, ?_, ?_, ?_, ?_, ?_, fun k h h' => ?_, ?_⟩
  pick_goal 7
  · match k, h, h' with
    | 1, _, _ => decide +kernel
    | 2, _, _ => decide +kernel
  all_goals try and_intros
  all_goals decide +kernel
/-- A routine 13 and 63, a live grid, a partition, a counter of each kind, at both ends of their numbers. -/
def routine0 (len : Nat) : State := parts1.poke ⟨.host, 1, 0⟩ [BitVec.ofNat 8 len]
theorem hyp_services : Asked (asking parts1 1 5#8 (List.replicate 40 0#8)) 1 5 [(0, 40)]
    ∧ (asking parts1 1 5#8 (List.replicate 40 0#8)).bar 1 0x68 8 % 64 = 0 ∧ parts1.signatures < 2 ^ 32
    ∧ Asked (asking (routine0 16) 1 6#8 [13#8]) 1 6 [(0, 1), (8, 8)] ∧ (13 ≤ 63)
    ∧ (let b := (routine0 16).peek ⟨.host, 1, 0⟩ 128
       field b 0 1 % 32 = 16 ∧ ZeroBut b [(0, 2), (8, 64)] ∧ field b 1 1 < 32 ∧ ∀ k < 16, field b (8 + 4 * k) 4 < 2 ^ 13)
    ∧ field ((routine0 0).peek ⟨.host, 1, 0⟩ 128) 0 1 % 32 = 0
    ∧ Asked (asking parts1 1 7#8 [5#8]) 1 7 [(0, 2)] ∧ pending.gridLive (gridKey 1 5) = true ∧ parts1.gridLive (gridKey 1 5) = false
    ∧ Asked (asking parts1 0 8#8 [1#8]) 0 8 [(0, 1)] ∧ (parts1.partOf 1).live = true ∧ Asked (asking parts1 1 8#8 []) 1 8 []
    ∧ (parts1.partOf 1).resetting = false ∧ (parts1.partOf 16).live = false
    ∧ (let s := (asking parts1 0 8#8 [1#8]).updPart 1 (fun p => { p with resetting := true })
       Asked s 0 8 [(0, 1)] ∧ (s.partOf 1).resetting = true ∧ (s.partOf 1).live = true)
    ∧ Asked (asking parts1 1 14#8 ([0#8] ++ List.replicate 7 0#8 ++ leBytes 3 0 ++ List.replicate 5 0#8 ++ [1#8])) 1 14 [(0, 1), (8, 3), (16, 1)]
    ∧ UnitLegal 0 (15 * 65536 + 0x8000 + 4 * 4096 + 4095) ∧ UnitLegal 13 16 ∧ UnitLegal 8 16 ∧ UnitLegal 10 256 ∧ UnitLegal 11 0
    ∧ ¬ UnitLegal 13 0 ∧ ¬ UnitLegal 0 0x5000 ∧ ¬ UnitLegal 3 1 ∧ (counterRows parts1 0)[0]? = some 0
    ∧ (parts1.partOf 1).pairs.getLsbD (5 * (0 / 65536) + 0 / 4096 % 8) = true
    ∧ (parts1.partOf 1).pairs.getLsbD (5 * (4096 / 65536) + 4096 / 4096 % 8) = false := by
  simp only [Asked, ZeroBut, UnitLegal]
  and_intros <;> decide +kernel
/-- A power state at both ends, a partition of the last pair, a restart; starts that succeed, fail and enter minimal mode. -/
def setBytes (n pairs test : Nat) : List Byte :=
  [BitVec.ofNat 8 n] ++ List.replicate 7 0#8 ++ leBytes 16 pairs ++ leBytes 32 0 ++ leBytes 1 test
theorem hyp_part_requests : (asking parts1 0 16#8 [4#8]).memOk ∧ Asked (asking parts1 0 16#8 [4#8]) 0 16 [(0, 1)]
    ∧ (asking parts1 0 16#8 [4#8]).bar 0 0x48 1 ≤ 4 ∧ 4 < (asking parts1 0 16#8 [5#8]).bar 0 0x48 1
    ∧ Asked (asking parts1 0 17#8 (setBytes 16 (2 ^ 79) 1)) 0 17 [(0, 1), (8, 49)] ∧ parts1.minimal = false
    ∧ (asking parts1 0 17#8 (setBytes 16 (2 ^ 79) 1)).bar 0 0x48 1 = 16 ∧ (parts1.partOf 16).live = false
    ∧ (asking parts1 0 17#8 (setBytes 16 (2 ^ 79) 1)).bar 0 0x50 16 = 2 ^ 79
    ∧ (asking parts1 0 17#8 (setBytes 16 (2 ^ 79) 1)).bar 0 0x78 8 % 16384 = 0
    ∧ (asking parts1 0 17#8 (setBytes 16 (2 ^ 79) 1)).bar 0 0x80 1 = 1
    ∧ (∀ e ∈ parts1.parts, e.2.live = true → e.2.pairs &&& BitVec.ofNat 128 (2 ^ 79) = 0#128)
    ∧ ShareFits parts1 (·.hbm) 1 0 ∧ ShareFits parts1 (·.cap) 0 (16 * layerSize 0) ∧ ¬ ShareFits parts1 (·.lpddr) 2 (16 * layerSize 2 + 1)
    ∧ Asked (asking parts1 0 18#8 []) 0 18 [] ∧ ({ parts1 with minimal := true } : State).minimal = true := by
  simp only [Asked, ZeroBut, ShareFits]
  refine ⟨memOk_of ?_, ?_⟩
  · decide +kernel
  · and_intros <;> decide +kernel
theorem hyp_part_life : State.reset.memOk ∧ State.reset.started = false ∧ State.reset.failedStarts < 3 ∧ parts1.started = false
    ∧ ({ w0 with started := true } : State).started = true ∧ (1#8 ≠ 0#8) ∧ 6#8 ∈ [1#8, 6#8] ∧ 5#8 ∉ [1#8, 6#8] ∧ (6#8).toNat ≤ 6
    ∧ (15#8).toNat < 16 ∧ State.reset.startReasons.length < 3
    ∧ 3 ≤ ({ State.reset with failedStarts := 3 } : State).failedStarts ∧ State.reset.full = false := by
  refine ⟨rfl, rfl, ?_, ?_, rfl, ?_, ?_, ?_, ?_, ?_, ?_, ?_, rfl⟩ <;> decide +kernel
/-- PortsAndReductions: a port down, up and retired; a peer packet of an old version, its window and a port; a contribution. -/
def peerWindow : WindowEntry := ⟨0xF#64 + 0x100#64, 0#64, 0x10000#64, 0x5000000000000#64⟩
def peerFlight : Flight := { flight (.mem (.store [1#8]) ⟨.peer, 5, 0⟩ 1 0x3100000000000000#64) none with packet := true }
def peering : State :=
  { w0 with parts := [(1, { part0 with windows := [(0, peerWindow)] })], ports := [(5, ⟨true, false, 7⟩)], net := [peerFlight], started := true }
theorem hyp_ports : peering.started = true ∧ peering.minimal = false ∧ (peering.port 15).trained = false ∧ (peering.port 15).retired = false
    ∧ (peering.port 5).trained = true ∧ (peering.port 5).retired = false
    ∧ listGet peering.net 0 = some peerFlight ∧ peerFlight.heldBy = none ∧ peerFlight.pos = peerFlight.dst ∧ peering.peerTakes peerFlight = false
    ∧ peering.windowLoc 1 1 ((0x3100000000000000#64).toNat % 2 ^ 56) 1 .write = some ⟨.peer, 5, 0⟩ ∧ peering.portFor 5 = some 5 := by
  decide +kernel
/-- Window 2 sums i32 of two contributors, and the copy writes to it at its first word. -/
def sumWindow : WindowEntry := ⟨0x000100010002003F#64, 0#64, 0x10000#64, 0x5000000000000#64⟩
def part0' : Reduction := ⟨0, 3, 2, sumWindow, 7, [(0, 1#8), (1, 2#8), (2, 3#8), (3, 4#8)]⟩
def reducing (k : Copy) : State :=
  { copying k with reductions := [part0'], parts := [(1, { part0 with windows := [(2, sumWindow)] })] }
def summed (f : Copy → Copy) : Copy := f { copy0 [] none none with shape := .bytes 4, dst := 0x3100000000000000#64 }
def sumPlace (p : Nat) : Nat := Loc.key ⟨.peer, sumWindow.d3.toNat / 2 ^ 48,
  (sumWindow.d3.toNat + (summed id).dst.toNat % 2 ^ 56 - sumWindow.base + (summed id).shape.offsetOf p) % 2 ^ 48⟩
theorem sumPlace_inj : ∀ p ∈ (part0'.data.map Prod.fst).dedup, ∀ q ∈ (part0'.data.map Prod.fst).dedup,
    sumPlace p = sumPlace q → p = q := by decide +kernel
theorem hyp_reductions : (let k := summed id
      let s := reducing k
      s.memOk ∧ listGet s.reductions 0 = some part0' ∧ (s.cell 0).copies[(3 : Fin 8)] = some k ∧ (s.strand ⟨0, k.slot⟩).uid = k.uid
      ∧ (s.strand ⟨0, k.slot⟩).sup = false ∧ k.todo = [] ∧ k.fault = none ∧ k.poison = none ∧ (s.strand ⟨0, k.slot⟩).late = []
      ∧ (s.strand ⟨0, k.slot⟩).status ≠ .free )
    ∧ (∀ e ∈ part0'.result sumWindow, ∀ f ∈ part0'.result sumWindow, sumPlace e.1 = sumPlace f.1 → e = f)
    ∧ (summed (fun k => { k with poison := some ⟨.poison, 0#64, 0#18⟩ })).poison = some ⟨.poison, 0#64, 0#18⟩
    ∧ (summed (fun k => { k with todo := [1] })).todo ≠ [] ∧ (summed (fun k => { k with fault := some 5#64 })).fault ≠ none := by
  refine ⟨⟨memOk_of ?_, ?_, ?_, ?_, ?_, ?_, ?_, ?_, ?_, ?_⟩, fun e he f hf h => ?_, ?_, ?_, ?_⟩
  any_goals decide +kernel
  simp only [Reduction.result, List.mem_map] at he hf
  obtain ⟨p, hp, rfl⟩ := he
  obtain ⟨q, hq, rfl⟩ := hf
  rw [sumPlace_inj p hp q hq h]
/-- DecodeOfEncode, EncodeOfDecode, StepKeepsMemoryForm, UserModeConfined. -/
theorem hyp_general : (Instr.ret false).wf = true ∧ (Instr.ret false).isEvent = false ∧ decode [0x040000B0#32, 5#32] = .ok (.ret false, [5#32])
    ∧ w0.memOk ∧ (∃ t, step w0 = .next t) ∧ w0.cur.slot ≠ 4 ∧ w0.me.sup = false ∧ w0.me.lock = false
    ∧ (∃ t, exec (.ret false) w0 = .next t) := by
  refine ⟨rfl, rfl, rfl, rfl, ⟨_, rfl⟩, ?_, ?_, ?_, ⟨_, rfl⟩⟩ <;> decide +kernel
/-- StepRunsDecoded, FetchAndClock: slot 0 moves next and its line is in the code cache; it is not; the pc is of another class; an
event's turn; the clock's. -/
def fetching (w : Nat) : State := State.reset.withFetchWord 32 w
def at0 (w : Nat) (pc : Word) : State := (fetching w).upd ⟨0, 0⟩ (fun t => { t with pc := pc })
theorem issues_of (s : State) (h : s.turn = .issue ⟨0, 0⟩ ∧ s.mayIssue ⟨0, 0⟩ = true ∧ s.yielding ⟨0, 0⟩ = false
    ∧ s.outOfTurn ⟨0, 0⟩ = false ∧ s.preempts ⟨0, 0⟩ = false ∧ (s.strand ⟨0, 0⟩).hold ≤ s.cycle.toNat) : Issues s ⟨0, 0⟩ := h
/-- StepRunsDecoded: a DIVU issues, or waits while the divider is busy; a transfer holds a slot. -/
theorem hyp_interlocked : (∃ u, (fetching 0x8CA4A008).fetchInstr ⟨0, 0⟩ = .some [0x8CA4A008#32] u
      ∧ ({ u with cur := ⟨0, 0⟩ } : State).interlocked ⟨0, 0⟩ (.divu true (.l 0) (.l 1) (.reg (.l 2)) false) = false)
    ∧ (∃ u, ((fetching 0x8CA4A008).updCell 0 (fun x => { x with sdiv := 5 })).fetchInstr ⟨0, 0⟩ = .some [0x8CA4A008#32] u
      ∧ ({ u with cur := ⟨0, 0⟩ } : State).interlocked ⟨0, 0⟩ (.divu true (.l 0) (.l 1) (.reg (.l 2)) false) = true)
    ∧ (let s := (fetching 0).upd ⟨0, 0⟩ (fun t => { t with hold := 1 })
       s.turn = .issue ⟨0, 0⟩ ∧ s.mayIssue ⟨0, 0⟩ = true ∧ s.yielding ⟨0, 0⟩ = false ∧ s.outOfTurn ⟨0, 0⟩ = false
       ∧ s.cycle.toNat < (s.strand ⟨0, 0⟩).hold) := by
  refine ⟨⟨_, rfl, ?_⟩, ⟨_, rfl, ?_⟩, ?_⟩ <;> decide +kernel
theorem hyp_step : Issues (fetching 0x040000B0) ⟨0, 0⟩
    ∧ (∃ u, (fetching 0x040000B0).fetchInstr ⟨0, 0⟩ = .some [0x040000B0#32] u ∧ ∃ t, exec (.ret false) { u with cur := ⟨0, 0⟩ } = .next t)
    ∧ decode [0x040000B0#32] = .ok (.ret false, [])
    ∧ (∃ u, (fetching 0xFFFFFFFC).fetchInstr ⟨0, 0⟩ = .some [0xFFFFFFFC#32] u) ∧ (∃ e, decode [0xFFFFFFFC#32] = .error e)
    ∧ Issues (at0 0 0#64) ⟨0, 0⟩ ∧ ((at0 0 0xFFFFFFFFFFFFFFFC#64).strand ⟨0, 0⟩).pc.toNat / 2 ^ 60 = 15
    ∧ Issues (at0 0 0xFFFFFFFFFFFFFFFC#64) ⟨0, 0⟩
    ∧ ((fetching 0).hub 0).code.find? (fun (y : CodeLine) => y.part == 1 && y.handle == 1 && y.line == 0) = some ⟨1, 1, 0, leBytes 64 0⟩
    ∧ (∀ k < 1, (fetching 0).checkHandle ((fetching 0).whoAt ⟨0, 0⟩) 1 (0 + 4 * k) 4 .exec = none)
    ∧ (let s := ((fetching 0).updHub 0 (fun h => { h with code := [], tlb := [⟨1, 1, 0, 0, 0, 1, 0⟩] }))
       Issues s ⟨0, 0⟩ ∧ (s.hub 0).fetchFails = []
       ∧ ∃ u, s.resolvePage (s.whoAt ⟨0, 0⟩) 0x2000001000000000#64 1 0 .exec noPromote = .ok ⟨.hbm, 0, 0⟩ u)
    ∧ (let s := ((fetching 0).updHub 0 (fun h => { h with code := [], fetchFails := [⟨⟨0, 0⟩, 0, 1, 0⟩] }))
       Issues s ⟨0, 0⟩ ∧ (s.strand ⟨0, 0⟩).uid = 0 ∧ (s.hub 0).code = []
       ∧ s.checkHandle (s.whoAt ⟨0, 0⟩) 1 0 4 .exec = none)
    ∧ (((fetching 0).upd ⟨0, 0⟩ (fun t => { t with stepDue := true })).strand ⟨0, 0⟩).stepDue = true
    ∧ ((.heatRefill : Instr).isEvent = true ∧ ({ w0 with turn := .event .heatRefill } : State).frozen .heatRefill = false
      ∧ ∃ t, exec .heatRefill { w0 with turn := .event .heatRefill } = .next t)
    ∧ State.reset.turn = .clock ∧ State.reset.powerReq = none ∧ State.reset.started = false ∧ State.reset.parts = []
    ∧ (let s := { parts1 with turn := .clock, cycle := 65536#64, started := true, refillAt := some 65536, powerReq := some (0#3, 65536) }
       s.refillAt = some s.cycle.toNat ∧ s.cycle.toNat % 65536 = 0
       ∧ (∀ q, s.powerReq = some q → s.cycle.toNat ≤ q.2)
       ∧ ∀ e ∈ s.parts, e.2.live = true → s.cycle.toNat % 2 ^ e.2.qshift.toNat ≠ 0)
    ∧ ({ w0 with cycle := 65536#64, powerReq := some (0#3, 0) } : State).powerDue = true := by
  refine ⟨issues_of _ (?_), ⟨_, rfl, ⟨_, rfl⟩⟩, rfl, ⟨_, rfl⟩, ⟨_, rfl⟩, issues_of _ (?_), ?_, issues_of _ (?_), ?_,
    ?_, ⟨issues_of _ (?_), ?_, ⟨_, rfl⟩⟩, ⟨issues_of _ (?_), ?_, ?_, ?_⟩, ?_, ⟨rfl, ?_, ⟨_, rfl⟩⟩, rfl, rfl, rfl, rfl, ?_, ?_⟩ <;> decide +kernel
/-- Jumps, StealDomain, VectorScale, PowerTakesEffect. -/
theorem hyp_stated : (stA 0xFFFFFFFFFFFFFFFC#64).me.anyPending [.a 0] = false ∧ ((stA 0xFFFFFFFFFFFFFFFC#64).reg (.a 0)).toNat % 4 = 0
    ∧ decode [0x000008A0#32] = .ok (.jmp 2#22 false, []) ∧ Scope.sgrp.code ∈ [1, 3, 4, 5] ∧ Scope.twin.code ∈ [0, 2, 6, 7, 8]
    ∧ (spawning code0 0#64 id).me.stealdom = BitVec.ofNat 4 Scope.cell.code ∧ (spawning code0 0#64 id).spawnFault code0 0#64 = none
    ∧ (spawning code0 0#64 id).dequeHeld 0 = false ∧ (spawning code0 0#64 id).dequeAbsent 0 = none
    ∧ ((spawning code0 0#64 id).cell 0).dequeFull = false
    ∧ (spawning code0 0#64 id).released ⟨0, 0⟩ .cell (spawning code0 0#64 id).me.tsm = true
    ∧ (w0.src (.lit 63#64)).toNat % 64 = 63 ∧ ({ w0 with powerReq := some (4#3, 0) } : State).powerReq = some (4#3, 0)
    ∧ powerRows[(4#3).toNat]? = some (0, 0, 8) ∧ ({ w0 with cycle := 65536#64 } : State).cycle.toNat % 65536 = 0
    ∧ ({ w0 with cycle := 65535#64 } : State).cycle.toNat % 65536 ≠ 0 ∧ 65535 < 65536 := by
  refine ⟨?_, ?_, rfl, ?_, ?_, ?_, ?_, ?_, ?_, ?_, ?_, ?_, rfl, ?_, ?_, ?_, ?_⟩ <;> decide +kernel

/-! ### Single steps, with results from the worked examples of the spec or worked out from its rules -/

/-- The state an instruction leaves, or the state before it. -/
def after (i : Instr) (s : State) : State := match exec i s with | .next t => t | _ => s
def stL (f : Vector Word 8 → Vector Word 8) : State := st (fun t => { t with rl := f t.rl })
def stV (f : Vector VWord 16 → Vector VWord 16) : State := st (fun t => { t with v := f t.v })

/-- 09 R171: bits 19 to 12. -/
theorem test_bfx : (after (.bfx (.l 3) (.l 4) 12#6 7#6 false) (stL (·.set 4 0x345678#64))).reg (.l 3) = 0x45#64 := by
  decide +kernel
/-- 09 R168: −7 by zero. -/
theorem test_div_zero : (after (.div false (.l 2) (.l 0) (.reg .zr) false) (stL (·.set 0 (-7)))).reg (.l 2) = -1 := by
  decide +kernel
theorem test_rem_zero : (after (.rem false (.l 2) (.l 0) (.reg .zr) false) (stL (·.set 0 (-7)))).reg (.l 2) = -7 := by
  decide +kernel
/-- 09 R170: a sign-extended immediate compared unsigned. -/
theorem test_sltiu : (after (.sltiu (.l 1) (.l 0) (.imm 0xFFF#12) false) (stL (·.set 0 5#64))).reg (.l 1) = 1#64 := by
  decide +kernel
/-- 04 R68: the zero register takes no write. -/
theorem test_addi_zr : (after (.addi .zr .zr (.imm 1#12) false) w0).reg .zr = 0#64 := by decide +kernel
/-- 09 R172, the worked example. -/
theorem test_twinof : (after (.twinof (.l 2) (.l 0) false) (stL (·.set 0 0x159A370000000100#64))).reg (.l 2)
    = 0x151A370000000100#64 := by decide +kernel
theorem test_acell : (after (.acell (.l 3) (.l 2) false) (stL (·.set 2 0x151A370000000100#64))).reg (.l 3) = 0x51A37#64 := by
  decide +kernel
theorem test_acol : (after (.acol (.l 4) (.l 2) false) (stL (·.set 2 0x151A370000000100#64))).reg (.l 4) = 5#64 := by
  decide +kernel
/-- 11 R204: the lanes 0xFF and 0x01, signed and unsigned. -/
theorem test_vmin_signed : ((after (.vintVmin .i8 2 0 1 false) (stV (fun v => (v.set 0 0xFF#128).set 1 0x01#128))).me.v[2])
    = 0xFF#128 := by decide +kernel
theorem test_vmin_unsigned : ((after (.vintVmin .n8 2 0 1 false) (stV (fun v => (v.set 0 0xFF#128).set 1 0x01#128))).me.v[2])
    = 0x01#128 := by decide +kernel
/-- 11 R208: 1.0, 500, −2.5 and the canonical NaN to e4m3 with saturation. -/
theorem test_vcvt_sat : ((after (.vcvt .e4m3 .f32 true 2 0 false)
      (stV (·.set 0 0x7FC00000C020000043FA00003F800000#128))).me.v[2]) = 0x7FC27E38#128 := by decide +kernel
/-- 05 R92: mode 5 rounds 1 + 2^−11 down and steps SEED. -/
theorem test_vcvt_stochastic :
    (let t := after (.vcvt .f16 .f32 false 2 0 false)
       (st (fun t => { t with rmode := 5#3, seed := (BitVec.ofNat 32 1), v := t.v.set 0 0x3F801000#128 }))
     t.me.v[2].extractLsb' 0 16 = 0x3C00#16) := by decide +kernel
theorem test_xorshift : xorshift 1#32 = 0x00042021#32 := by decide
/-- 05 R95: −3.5 to n8, 300.7 to i8, −2.5 to i16 in RNE and in RNA (mode 4). -/
theorem test_to_integer : convertElem .n8 .f32 false 0 0#8 0 0xC0600000 = 0 ∧ convertElem .i8 .f32 false 0 0#8 0 0x4396599A = 127
    ∧ convertElem .i16 .f32 false 0 0#8 0 0xC0200000 = 2 ^ 16 - 2 ∧ convertElem .i16 .f32 false 4 0#8 0 0xC0200000 = 2 ^ 16 - 3 := by
  decide +kernel
/-- 11 R212, the worked example. -/
theorem test_vqblk :
    (let r : BlkRun := { slot := 0, quant := true, ty := .f16, kind := 1, d := .l 5, src := 0x100#64, dst := 0x200#64,
                         scale := 0#8, n := 8, bad := [], written := 0, out := [], result := 0#8, computed := false,
                         fmode := 0#8, rmode := 0#3, poison := none,
                         read := leBytes 16 0x4500CA00410000002E664900C2003A00 }
     quantize r 0#32 = (0x61#8, [0xB1#8, 0x06#8, 0x20#8, 0x4F#8], 0#32)) := by decide +kernel
/-- 13 R242, the worked example: 1, NaN, 3, −0, 3, +Inf, 0.5, +0. -/
theorem test_rank_order : rankOrder ([0x3C00, 0x7E00, 0x4200, 0x8000, 0x4200, 0x7C00, 0x3800, 0].map (fmtF16.rd 0#8))
    = [5, 2, 4, 0, 6, 3, 7] := by decide +kernel
def trapping : State := st (fun t => { t with pc := 0x1000#64, tvec := 0x800#62, rl := t.rl.set 3 9#64 })
/-- 14 R278: what TRAP saves and where it goes. -/
theorem test_trap_saves : (let t := (after (.trap (.reg (.l 3)) false) trapping).me
    t.epc = 0x1000#64 ∧ t.eval = 9#64 ∧ t.sup = true ∧ t.psup = false ∧ t.pc = 0x2000#64) := by decide +kernel
/-- 09 R176: CALL returns past itself. -/
theorem test_call : (after (.call 2#22 false) (st (fun t => { t with pc := 0x1000#64 }))).me.pc = 0x1008#64 := by decide +kernel
theorem test_call_window : (after (.call 2#22 false) (st (fun t => { t with pc := 0x1000#64 }))).me.lower.length = 1 := by
  decide +kernel
/-- 18 R351: the published value of SHAKE256 of the empty message (FIPS 202). -/
theorem test_shake : shake256 [] = leBytes 32 0x2F76D56E64270CB5821BB862EA52CD3F24EB3E74EB3F3B23138DA80B2BDDB946 := by decide +kernel
theorem test_reset_ok : State.reset.memOk := rfl

end Sys2Proof.Tests
end

section
/-! A float becomes an integer (05 R91, R95): the model's rounding at the unit 2^0 is the rounding of the exact ratio, and its
clamp is the type's. -/

namespace Sys2Proof.Proofs.FloatToInteger

open Sys2Proof Sys2Proof.Machine Sys2Proof.Claims

/-! ### Rounding to an integer -/

/-- An integer is exact in every mode. -/
theorem roundRatio_den_one (mode : Nat) (neg : Bool) (r n : Nat) : roundRatio mode neg r n 1 = n := by
  simp [roundRatio, Nat.mod_one]

/-- The nearest multiple by the model's half unit is the nearest by the ratio's double remainder; a tie goes to the even one. -/
theorem nearest_even_eq (lo rem half : Nat) :
    (if half < rem ∨ (rem = half ∧ lo % 2 = 1) then lo + 1 else lo)
      = if 2 * rem < 2 * half ∨ (2 * rem = 2 * half ∧ lo % 2 = 0) then lo else lo + 1 := by
  split <;> split <;> omega

/-- A tie goes away from zero. -/
theorem nearest_away_eq (lo rem half : Nat) :
    (if half ≤ rem then lo + 1 else lo) = if 2 * rem < 2 * half then lo else lo + 1 := by
  split <;> split <;> omega

/-- The draw reaches 1 with the truncated fraction exactly when it does with the exact one: the draw is an integer. -/
theorem draw_reaches_iff (rem r den : Nat) (hden : 0 < den) :
    65536 ≤ rem * 65536 / den + r ↔ den * 65536 ≤ rem * 65536 + r * den := by
  rw [← Nat.add_mul_div_right _ _ hden, Nat.le_div_iff_mul_le hden, Nat.mul_comm den]

/-- A value m 2^-(k+1) rounds to the integer that its ratio m / 2^(k+1) rounds to (05 R91). -/
theorem roundMag_negSucc (mode : Nat) (neg : Bool) (r m k : Nat) (hmode : mode ≤ 5) :
    roundMag mode neg r m (Int.negSucc k) false 0 = roundRatio mode neg r m (2 ^ (k + 1)) := by
  have hbelow : ¬ (0 : Int) ≤ Int.negSucc k := by omega
  have hshift : (0 - Int.negSucc k).toNat = k + 1 := by omega
  have hhalf : 2 ^ (k + 1) = 2 * 2 ^ k := Nat.pow_succ'
  by_cases hexact : m % 2 ^ (k + 1) = 0
  · simp [roundMag, roundRatio, hbelow, hexact]
  · simp only [roundMag, roundRatio, hbelow, hshift, hexact, if_false, false_and, Nat.add_sub_cancel]
    match mode, hmode with
    | 0, _ => simpa [← hhalf] using nearest_even_eq (m / 2 ^ (k + 1)) (m % 2 ^ (k + 1)) (2 ^ k)
    | 1, _ | 2, _ | 3, _ => rfl
    | 4, _ => simpa [← hhalf] using nearest_away_eq (m / 2 ^ (k + 1)) (m % 2 ^ (k + 1)) (2 ^ k)
    | 5, _ => simp only [draw_reaches_iff _ _ _ (Nat.two_pow_pos (k + 1))]

/-- The multiple of 2^0 that stands for an exact value is its ratio rounded to an integer (05 R91). -/
theorem roundMag_unit (mode : Nat) (neg : Bool) (r m : Nat) (e : Int) (hmode : mode ≤ 5) :
    roundMag mode neg r m e false 0 = roundRatio mode neg r (m * 2 ^ e.toNat) (2 ^ (-e).toNat) := by
  cases e with
  | ofNat n => simp [roundMag, roundRatio_den_one]
  | negSucc k => simpa using roundMag_negSucc mode neg r m k hmode

/-! ### The value and the clamp -/

/-- A decoded value is exact: only quotients and roots carry a sticky bit. -/
theorem decode_sticky (f : FFmt) (flush : Bool) (bits : Nat) {neg st : Bool} {m : Nat} {e : Int}
    (h : f.decode flush bits = .fin neg m e st) : st = false := by
  simp only [FFmt.decode, FVal.zero] at h
  split_ifs at h <;> cases h <;> rfl

theorem limits_le (ty : ElemTy) : (limits ty).1 ≤ (limits ty).2 := by cases ty <;> decide

/-- Between limits in order, the model's clamp is the comparison with each limit. -/
theorem clamp_eq {lo hi : Int} (v : Int) (h : lo ≤ hi) :
    max lo (min hi v) = if v < lo then lo else if hi < v then hi else v := by
  split
  · omega
  · split <;> omega

/-- An exact value becomes the integer of the type that 05 R95 gives. -/
theorem toInteger_eq_toType (ty : ElemTy) (mode r : Nat) (x : FVal) (hmode : mode ≤ 5)
    (hx : ∀ neg m e st, x = .fin neg m e st → st = false) :
    toInteger mode r (limits ty).1 (limits ty).2 x = toType ty mode r x := by
  cases x with
  | nan p => rfl
  | inf neg => rfl
  | fin neg m e st =>
    obtain rfl := hx neg m e st rfl
    simp only [toInteger, toType, roundMag_unit mode neg r m e hmode, clamp_eq _ (limits_le ty)]

/-- Settles O26: rounding is that of the exact ratio, the clamp is that of the type, and the examples compute. -/
theorem floatToInteger : Obligations.FloatToInteger := by
  refine ⟨fun ty mode r f flush bits _ hmode _ => ?_, fun _ _ _ _ _ => rfl, ?_, ?_, ?_, ?_⟩
  · exact toInteger_eq_toType ty mode r _ hmode fun _ _ _ _ => decode_sticky f flush bits
  all_goals decide

end Sys2Proof.Proofs.FloatToInteger
end

section
/-! An accepted word has the major opcode of its instruction (04 R65, R73): each group of the decoder answers only members whose
fields the encoder puts under the group's own opcode. -/

namespace Sys2Proof.Proofs.MajorOpcode

open Sys2Proof

/-! ### What a decoder can answer -/

/-- Every instruction that the decoder's answer can be has the property. -/
def Yields (p : Instr → Prop) (r : Dec Instr) : Prop := ∀ i, r = .ok i → p i

/-- The encoder writes major opcode n in word 0 of the instruction. -/
def HasOp (n : Nat) (i : Instr) : Prop := (encodeFields i).map (fun x => x.op.toNat) = some n

theorem bind_eq_ok {α β : Type} {r : Dec α} {f : α → Dec β} {b : β} :
    (r >>= f) = .ok b ↔ ∃ a, r = .ok a ∧ f a = .ok b := by
  cases r <;> simp [bind, Except.bind]

theorem yields_ok {p : Instr → Prop} (i : Instr) : Yields p (.ok i) ↔ p i := by simp [Yields]

theorem yields_error {p : Instr → Prop} (e : Reject) : Yields p (.error e) := by simp [Yields]

theorem yields_bind {α : Type} {p : Instr → Prop} (r : Dec α) (f : α → Dec Instr) :
    Yields p (r >>= f) ↔ ∀ a, r = .ok a → Yields p (f a) := by
  cases r <;> simp [Yields, bind, Except.bind]

/-- A range check that rejects. -/
theorem yields_dite_error {p : Instr → Prop} {c : Prop} [Decidable c] (f : c → Dec Instr) (e : Reject) :
    Yields p (if h : c then f h else .error e) ↔ ∀ h, Yields p (f h) := by
  by_cases h : c <;> simp [h, yields_error]

theorem yields_fZero {p : Instr → Prop} {x : Fields} (r : Dec Instr) :
    Yields p (fZero x r) ↔ (x.f == 0#7) = true → Yields p r := by
  by_cases h : (x.f == 0#7) = true <;> simp [fZero, h, yields_error]

/-! ### The groups (04 R73)

Each group splits along its function field. With the operand shapes of its members opened, what is left for each member is the
opcode that the encoder writes for it, under the checks of its operands. -/

variable (x : Fields)

theorem decIntGroup_hasOp : Yields (HasOp 0x01) (decIntGroup x) := by
  unfold decIntGroup
  split <;> simp only [decDAB, decDA, yields_bind, yields_ok, yields_error]
  all_goals (intros; exact rfl)

theorem decLeaGroup_hasOp : Yields (HasOp 0x0F) (decLeaGroup x) := by
  unfold decLeaGroup
  split <;> simp only [decDAB, decDA, yields_bind, yields_ok, yields_error]
  all_goals (intros; exact rfl)

theorem decCtlGroup_hasOp : Yields (HasOp 0x16) (decCtlGroup x) := by
  unfold decCtlGroup
  split <;> simp only [decA, dec0, yields_bind, yields_ok, yields_error]
  all_goals (intros; exact rfl)

theorem decMemGroup_hasOp : Yields (HasOp 0x27) (decMemGroup x) := by
  unfold decMemGroup
  split <;> simp only [decDAB, decSAB, decAB, decHINT, decCPY, decCPYS, decGATH, yields_bind, yields_ok, yields_error,
    yields_dite_error]
  all_goals (intros; exact rfl)

theorem decAtomGroup_hasOp : Yields (HasOp 0x28) (decAtomGroup x) := by
  unfold decAtomGroup
  split <;> simp only [decDAB, yields_bind, yields_ok, yields_error]
  all_goals (intros; exact rfl)

theorem decNearGroup_hasOp : Yields (HasOp 0x2A) (decNearGroup x) := by
  unfold decNearGroup
  split <;> simp only [decNDOT, decNSUM, yields_bind, yields_ok, yields_error]
  all_goals (intros; exact rfl)

theorem decSyncGroup_hasOp : Yields (HasOp 0x2B) (decSyncGroup x) := by
  unfold decSyncGroup
  split <;> simp only [decSYNC, decTSMR, yields_bind, yields_ok, yields_error]
  all_goals (intros; exact rfl)

theorem decBarGroup_hasOp : Yields (HasOp 0x2C) (decBarGroup x) := by
  unfold decBarGroup
  split <;> simp only [decBARINIT, decA, decDA, yields_bind, yields_ok, yields_error]
  all_goals (intros; exact rfl)

theorem decWaitGroup_hasOp : Yields (HasOp 0x2D) (decWaitGroup x) := by
  unfold decWaitGroup
  split <;> simp only [decDAB, decDA, dec0, decA, yields_bind, yields_ok, yields_error]
  all_goals (intros; exact rfl)

theorem decPostGroup_hasOp : Yields (HasOp 0x2E) (decPostGroup x) := by
  unfold decPostGroup
  split <;> simp only [decPUT, decDm, yields_bind, yields_ok, yields_error]
  all_goals (intros; exact rfl)

theorem decMsgGroup_hasOp : Yields (HasOp 0x2F) (decMsgGroup x) := by
  unfold decMsgGroup
  split <;> simp only [decSEND, decC, dec0, decDc, yields_bind, yields_ok, yields_error]
  all_goals (intros; exact rfl)

theorem decStrdGroup_hasOp : Yields (HasOp 0x30) (decStrdGroup x) := by
  unfold decStrdGroup
  split <;> simp only [decSA, decA, dec0, decScope, yields_bind, yields_ok, yields_error]
  all_goals (intros; exact rfl)

theorem decTwinGroup_hasOp : Yields (HasOp 0x31) (decTwinGroup x) := by
  unfold decTwinGroup
  split <;> simp only [dec0, decD, decb2, decDb2, yields_bind, yields_ok, yields_error]
  all_goals (intros; exact rfl)

theorem decVfpGroup_hasOp : Yields (HasOp 0x38) (decVfpGroup x) := by
  unfold decVfpGroup
  split <;> simp only [decFV2, decFV3, decFK3, yields_bind, yields_ok, yields_error]
  all_goals (intros; exact rfl)

theorem decVintGroup_hasOp : Yields (HasOp 0x39) (decVintGroup x) := by
  unfold decVintGroup
  split <;> simp only [decIV3, decIK3, yields_bind, yields_ok, yields_error]
  all_goals (intros; exact rfl)

/-- KMOV's three forms are named in B. -/
theorem decKMOV_hasOp : Yields (HasOp 0x3A) (decKMOV x .kmov) := by
  simp only [decKMOV, yields_bind]
  intros
  split <;> simp only [yields_bind, yields_ok, yields_error]
  all_goals (intros; exact rfl)

/-- VZERO clears a vector or a predicate register, whichever D names. -/
theorem decVZERO_hasOp : Yields (HasOp 0x3A) (decVZERO x .vzero) := by
  simp only [decVZERO, yields_bind]
  intros
  split
  · exact (yields_ok _).mpr rfl
  · exact (yields_ok _).mpr rfl
  · exact yields_error _

theorem decVmiscGroup_hasOp : Yields (HasOp 0x3A) (decVmiscGroup x) := by
  unfold decVmiscGroup
  split <;> simp only [decVBCAST, decVMOVS, decVINS, decVSHUF, decVSEL, decVRED, decKKK, decKK, decVV, decKMOV_hasOp,
    decVZERO_hasOp, yields_bind, yields_ok, yields_error]
  all_goals (intros; exact rfl)

theorem decVblkGroup_hasOp : Yields (HasOp 0x3C) (decVblkGroup x) := by
  unfold decVblkGroup
  split <;> simp only [decVQBLK, decVDQBLK, decVSCL, yields_bind, yields_ok, yields_error]
  all_goals (intros; exact rfl)

theorem decAccGroup_hasOp : Yields (HasOp 0x42) (decAccGroup x) := by
  unfold decAccGroup
  split <;> simp only [decDb2, decD5, decA5, decAB, decDA, decb2, yields_bind, yields_ok, yields_error]
  all_goals (intros; exact rfl)

theorem decRankGroup_hasOp : Yields (HasOp 0x48) (decRankGroup x) := by
  unfold decRankGroup
  split <;> simp only [decDAB, decCAB, decSAB, decAb2, decDb2, decb2, yields_bind, yields_ok, yields_error]
  all_goals (intros; exact rfl)

theorem decWalkGroup_hasOp : Yields (HasOp 0x4C) (decWalkGroup x) := by
  unfold decWalkGroup
  split <;> simp only [decDAB, decAB, decSAB, decDA4, decDA, yields_bind, yields_ok, yields_error]
  all_goals (intros; exact rfl)

theorem decSysGroup_hasOp : Yields (HasOp 0x60) (decSysGroup x) := by
  unfold decSysGroup
  split <;> simp only [decB, dec0, decCSRR, decCSRW, decA, decD, decCTXSV, yields_bind, yields_ok, yields_error]
  all_goals (intros; exact rfl)

/-! ### All opcodes -/

/-- A member alone under its opcode passes its checks; a group answers by its own lemma. -/
theorem decodeFields_hasOp : Yields (HasOp x.op.toNat) (decodeFields x) := by
  unfold decodeFields
  split <;> rename_i hop <;> simp only [hop, decIntGroup_hasOp, decLeaGroup_hasOp, decCtlGroup_hasOp, decMemGroup_hasOp,
    decAtomGroup_hasOp, decNearGroup_hasOp, decSyncGroup_hasOp, decBarGroup_hasOp, decWaitGroup_hasOp, decPostGroup_hasOp,
    decMsgGroup_hasOp, decStrdGroup_hasOp, decTwinGroup_hasOp, decVfpGroup_hasOp, decVintGroup_hasOp, decVmiscGroup_hasOp,
    decVblkGroup_hasOp, decAccGroup_hasOp, decRankGroup_hasOp, decWalkGroup_hasOp, decSysGroup_hasOp, decI, decSH, decLI,
    decBF, decBR, decLOOP, decJ, decMS, decMV, decMF, decFSHIP, decVCVT, decHIRE, decMMA, decACCSTM, decLAUNCH, yields_bind,
    yields_ok, yields_error, yields_fZero]
  all_goals (intros; exact rfl)

/-- Fields that decode to an instruction have the opcode that the instruction encodes to. -/
theorem op_eq_of_decodeFields {x y : Fields} {i : Instr} (h : decodeFields x = .ok i) (hy : encodeFields i = some y) :
    x.op = y.op := by
  have hop : (encodeFields i).map (fun x => x.op.toNat) = some x.op.toNat := decodeFields_hasOp x i h
  rw [hy] at hop
  exact BitVec.eq_of_toNat_eq (Option.some.inj hop).symm

/-! ### Word 0 -/

theorem takePair_isSome {want : Bool} {ws rest : List IWord} {o : Option Word} (h : takePair want ws = .ok (o, rest)) :
    o.isSome = want := by
  unfold takePair at h
  split at h <;> cases h <;> rfl

/-- An accepted list of words is read by the fields of word 0, with the extension and the literal that its LEN asks for. -/
theorem decode_cons {w : IWord} {ws rest : List IWord} {i : Instr} (h : decode (w :: ws) = .ok (i, rest)) :
    ∃ e l : Option Word, decodeFields (.ofWord0 w e l) = .ok i ∧ e.isSome = w.getLsbD 0 ∧ l.isSome = w.getLsbD 1 := by
  simp only [decode, Fields.ofWords, bind_eq_ok] at h
  obtain ⟨⟨x, _⟩, ⟨⟨e, _⟩, he, ⟨l, _⟩, hl, hx⟩, j, hj, hi⟩ := h
  cases hx
  cases hi
  exact ⟨e, l, hj, takePair_isSome he, takePair_isSome hl⟩

/-- LEN 00 asks for neither an extension nor a literal. -/
theorem extractLsb_len_eq_zero {w : IWord} (he : w.getLsbD 0 = false) (hl : w.getLsbD 1 = false) :
    w.extractLsb' 0 2 = 0#2 := by
  apply BitVec.eq_of_getLsbD_eq
  intro i hi
  match i, hi with
  | 0, _ => simpa using he
  | 1, _ => simpa using hl

end Sys2Proof.Proofs.MajorOpcode
end

section
/-! JMP and JMPR (09 R176): where they go, JMPR's ALIGN, and the words that are theirs. -/

namespace Sys2Proof.Proofs.Jumps

open Sys2Proof Sys2Proof.Machine Sys2Proof.Claims Sys2Proof.Proofs.MajorOpcode

/-! ### Transfers -/

/-- The sign-extended displacement in words, added modulo 2^64, is the integer sum (04 R68). -/
theorem target_eq_dispTarget {n : Nat} (s : State) (disp : BitVec n) : s.target disp = dispTarget s disp := by
  have hpc : BitVec.ofInt 64 (s.me.pc.toNat : Int) = s.me.pc := by simp
  simp only [State.target, dispTarget, BitVec.ofInt_add, BitVec.ofInt_mul, hpc, BitVec.signExtend]
  rw [BitVec.mul_comm]
  rfl

theorem owes_transferAt (s : State) (i : SlotId) (target : Word) (sw : Bool) (u : Nat) :
    (s.transferAt i target sw).owes u = s.owes u := by
  simp only [State.owes, State.net_transferAt]

/-- A transfer with its switch marker: the marker parks the strand at the target while a result is outstanding (02 R34). -/
theorem strand_transferAt_marked (s : State) (i : SlotId) (target : Word) (sw : Bool) :
    (s.transferAt i target sw).strand i =
      if (sw && s.owes (s.strand i).uid) = true then
        { (s.strand i).retire 0 with pc := target, hold := s.cycle.toNat + 2, status := .parked .results, words := 0 }
      else { (s.strand i).retire 0 with pc := target, hold := s.cycle.toNat + 2 } := by
  have howes : (((s.upd i fun t => { t.retire 0 with pc := target }).holdFor i 2).owes
      (((s.upd i fun t => { t.retire 0 with pc := target }).holdFor i 2).strand i).uid) = s.owes (s.strand i).uid := by
    simp [Strand.retire]
  unfold State.transferAt State.marked
  rw [howes]
  split <;> simp

theorem jumped_transferAt (s : State) (target : Word) (sw : Bool) :
    Jumped s (s.transferAt s.cur target sw) target sw := by
  unfold Jumped
  rw [owes_transferAt, strand_transferAt_marked, State.me]
  split <;> exact ⟨rfl, rfl, rfl, rfl, rfl⟩

/-- A transfer writes no register. -/
theorem readReg_transferAt (s : State) (i : SlotId) (target : Word) (sw : Bool) (r : SReg) :
    (s.transferAt i target sw).readReg i r = s.readReg i r := by
  have hkeep (t : State) (f : Strand → Strand) (h) : (t.upd i f).readReg i r = t.readReg i r := State.readReg_upd t i f r h
  rw [State.transferAt, State.readReg_marked, State.holdFor, hkeep, hkeep]
  all_goals exact fun t => ⟨rfl, rfl, rfl, rfl, rfl, rfl, rfl, rfl, rfl, rfl, rfl⟩

/-- An instruction that does nothing but transfer goes to its target and leaves every register. -/
theorem goes_of_exec_transferAt {i : Instr} {s : State} {target : Word} {sw : Bool}
    (h : exec i s = .next (s.transferAt s.cur target sw)) : Goes i s (fun t => Jumped s t target sw ∧ RegsSame s t []) :=
  ⟨_, h, jumped_transferAt s target sw, fun r _ => readReg_transferAt s s.cur target sw r⟩

/-! ### Precise traps -/

theorem ecause_precise (c : Cause) : BitVec.ofBool false ++ BitVec.ofNat 8 c.code = BitVec.ofNat 9 c.code := by
  cases c <;> rfl

/-- TVEC holds the handler's address in words of 4 bytes. -/
theorem append_zero_eq_ofNat_mul (v : BitVec 62) : v ++ 0#2 = BitVec.ofNat 64 (4 * v.toNat) := by
  apply BitVec.eq_of_toNat_eq
  rw [BitVec.toNat_append, BitVec.toNat_ofNat, Nat.shiftLeft_eq]
  simp
  omega

theorem trapped_trapAt (s : State) (i : SlotId) (c : Cause) (ev : Word) : Trapped s (s.trapAt i c ev) i c.code ev := by
  simp only [Trapped, State.strand_trapAt, if_true, Strand.enterTrap, ecause_precise, append_zero_eq_ofNat_mul, true_and,
    and_true]
  intro hsup
  simp [hsup]

/-- An instruction that ends in a precise trap changes its own strand alone. -/
theorem traps_of_exec_trap {i : Instr} {s : State} {c : Cause} {ev : Word} (h : exec i s = s.trap c ev) :
    Traps i s c.code ev :=
  ⟨_, h, trapped_trapAt s s.cur c ev, fun j hj => by simp [State.strand_trapAt, hj.symm], fun _ => rfl⟩

/-! ### What JMP and JMPR do -/

theorem exec_jmp (disp : BitVec 22) (sw : Bool) (s : State) :
    exec (.jmp disp sw) s = .next (s.transferAt s.cur (dispTarget s disp) sw) := by
  rw [← target_eq_dispTarget]
  rfl

theorem exec_jmpr_of_aligned {a : SReg} {s : State} (sw : Bool) (hp : s.me.anyPending [a] = false)
    (ha : (s.reg a).toNat % 4 = 0) : exec (.jmpr a sw) s = .next (s.transferAt s.cur (s.reg a) sw) := by
  change execJmpr a sw s = _
  simp [execJmpr, hp, isAligned, ha]

theorem exec_jmpr_of_misaligned {a : SReg} {s : State} (sw : Bool) (hp : s.me.anyPending [a] = false)
    (ha : (s.reg a).toNat % 4 ≠ 0) : exec (.jmpr a sw) s = s.trap .align (s.reg a) := by
  change execJmpr a sw s = _
  simp [execJmpr, hp, isAligned, ha]

/-! ### Their words -/

theorem need_eq_ok {c : Bool} {r : Reject} {u : Unit} : need c r = .ok u ↔ c = true := by
  cases c <;> simp [need]

theorem zero5_eq_ok {c : BitVec 5} {u : Unit} : zero5 c = .ok u ↔ c = 0#5 := by
  simp [zero5, need_eq_ok]

theorem plain_eq_ok {x : Fields} {u : Unit} : plain x = .ok u ↔ x.e = none ∧ x.l = none := by
  simp [plain, bind_eq_ok, need_eq_ok]

/-- The shape of A alone has LEN 00 and zero B and D. -/
theorem fields_of_decA_eq_ok {x : Fields} {mk : SReg → Bool → Instr} {i : Instr} (h : decA x mk = .ok i) :
    x.e = none ∧ x.l = none ∧ x.b = 0#5 ∧ x.d = 0#5 ∧ i = mk (SReg.ofCode x.a) x.sw := by
  simp only [decA, bind_eq_ok, plain_eq_ok, zero5_eq_ok, exists_const, Except.ok.injEq] at h
  obtain ⟨⟨he, hl⟩, hb, hd, hi⟩ := h
  exact ⟨he, hl, hb, hd, hi.symm⟩

/-- Of the CTL members only code 0 answers JMPR. -/
theorem fields_of_decCtlGroup_eq_jmpr {x : Fields} {a : SReg} {sw : Bool} (h : decCtlGroup x = .ok (.jmpr a sw)) :
    x.f = 0#7 ∧ x.e = none ∧ x.l = none ∧ x.b = 0#5 ∧ x.d = 0#5 := by
  unfold decCtlGroup at h
  split at h
  · rename_i hf
    obtain ⟨he, hl, hb, hd, -⟩ := fields_of_decA_eq_ok h
    exact ⟨BitVec.eq_of_toNat_eq hf, he, hl, hb, hd⟩
  · obtain ⟨-, -, -, -, hi⟩ := fields_of_decA_eq_ok h
    cases hi
  · simp [dec0, bind_eq_ok] at h
  · cases h

theorem decodeFields_of_op_ctl {x : Fields} (h : x.op = 0x16#7) : decodeFields x = decCtlGroup x := by
  unfold decodeFields
  rw [h]
  rfl

theorem word_of_decode_jmp {w : IWord} {ws rest : List IWord} {disp : BitVec 22} {sw : Bool}
    (h : decode (w :: ws) = .ok (.jmp disp sw, rest)) : w.extractLsb' 3 7 = 0x14#7 := by
  obtain ⟨e, l, hi, -, -⟩ := decode_cons h
  exact op_eq_of_decodeFields hi rfl

theorem word_of_decode_jmpr {w : IWord} {ws rest : List IWord} {a : SReg} {sw : Bool}
    (h : decode (w :: ws) = .ok (.jmpr a sw, rest)) :
    w.extractLsb' 3 7 = 0x16#7 ∧ w.extractLsb' 25 7 = 0#7 ∧ w.extractLsb' 10 5 = 0#5 ∧ w.extractLsb' 20 5 = 0#5
      ∧ w.extractLsb' 0 2 = 0#2 := by
  obtain ⟨e, l, hi, he, hl⟩ := decode_cons h
  have hop : (Fields.ofWord0 w e l).op = 0x16#7 := op_eq_of_decodeFields hi rfl
  rw [decodeFields_of_op_ctl hop] at hi
  obtain ⟨hf, rfl, rfl, hb, hd⟩ := fields_of_decCtlGroup_eq_jmpr hi
  exact ⟨hop, hf, hd, hb, extractLsb_len_eq_zero he.symm hl.symm⟩

/-- Settles O6: each jump is one transfer or a precise ALIGN, and the opcode of its words is the one it encodes to. -/
theorem jumps : Obligations.Jumps := by
  refine fun a disp sw => ⟨fun s => ⟨?_, fun hp ha => ?_, fun hp ha => ?_⟩, fun w ws rest => ⟨?_, ?_⟩⟩
  · exact goes_of_exec_transferAt (exec_jmp disp sw s)
  · exact goes_of_exec_transferAt (exec_jmpr_of_aligned sw hp ha)
  · exact traps_of_exec_trap (exec_jmpr_of_misaligned sw hp ha)
  · exact word_of_decode_jmp
  · exact word_of_decode_jmpr

end Sys2Proof.Proofs.Jumps
end

section
/-! The lanes of a vector result (11 R200): what packing, reading and rounding lanes do to the lane at one index, and how an
instruction ends that writes rounded lanes. -/

namespace Sys2Proof.Proofs.VectorLanes

open Sys2Proof Sys2Proof.Machine Sys2Proof.Claims

/-! ### Lanes of a register -/

/-- A lane below 128 / w lies inside the register. -/
theorem mul_add_lt_of_lane {w j i : Nat} (hj : j < 128 / w) (hi : i < w) : w * j + i < 128 := by
  have hend : (j + 1) * w ≤ 128 := Nat.mul_le_of_le_div w (j + 1) 128 hj
  have hsucc : (j + 1) * w = w * j + w := by ring
  omega

theorem testBit_packLanes {w i : Nat} (hi : i < w) (xs : List Nat) (j : Nat) :
    (packLanes w xs).testBit (w * j + i) = (xs.getD j 0).testBit i := by
  induction xs generalizing j with
  | nil => simp [packLanes]
  | cons x xs ih =>
    rw [packLanes, Nat.add_comm (x % 2 ^ w), Nat.testBit_two_pow_mul_add _ (Nat.mod_lt _ (Nat.two_pow_pos w))]
    cases j with
    | zero => simp [hi]
    | succ j =>
      have hsub : w * (j + 1) + i - w = w * j + i := by rw [Nat.mul_succ]; omega
      have hge : ¬ w * (j + 1) + i < w := by rw [Nat.mul_succ]; omega
      rw [if_neg hge, hsub, ih, List.getD_cons_succ]

/-- A packed register reads back lane by lane. -/
theorem lane_packLanes (w : Nat) (xs : List Nat) {j : Nat} (hj : j < 128 / w) :
    lane w (BitVec.ofNat 128 (packLanes w xs)) j = BitVec.ofNat w (xs.getD j 0) := by
  apply BitVec.eq_of_getLsbD_eq
  intro i hi
  rw [lane, BitVec.getLsbD_extractLsb', BitVec.getLsbD_ofNat, BitVec.getLsbD_ofNat, testBit_packLanes hi]
  simp [hi, mul_add_lt_of_lane hj hi]

/-- The lanes of a number in order, as quotients. -/
theorem lanesOf_eq_map (w n v : Nat) : lanesOf w n v = (List.range n).map (fun j => v / 2 ^ (w * j) % 2 ^ w) := by
  induction n generalizing v with
  | zero => rfl
  | succ n ih =>
    rw [lanesOf, ih, List.range_succ_eq_map]
    simp [Nat.div_div_eq_div_mul, ← Nat.pow_add, Nat.mul_succ, Nat.add_comm w]

/-- The float lanes of a register, read under FMODE. -/
theorem floats_eq_map_floatLane (s : State) (ty : FTy) (a : VReg) :
    s.me.floats (ftyFmt ty) a = (List.range (128 / (ftyFmt ty).width)).map (floatLane s ty a) := by
  simp [Strand.floats, Strand.lanes, lanesOf_eq_map, floatLane, lane, Nat.shiftRight_eq_div_pow]

/-! ### Rounding -/

/-- Each lane is rounded with its own draw. -/
theorem getElem?_roundLanes (f : FFmt) (mode : Nat) (fm : BitVec 8) (xs : List FVal) (rs : List Nat) (j : Nat) :
    (roundLanes f mode fm xs rs)[j]? = xs[j]?.map (f.wr mode fm (rs.getD j 0)) := by
  induction xs generalizing rs j with
  | nil => simp [roundLanes]
  | cons x xs ih =>
    cases j with
    | zero => cases rs <;> simp [roundLanes]
    | succ j => cases rs <;> simp [roundLanes, ih]

/-- A NaN is written in its canonical bits, in every mode and with any draw. -/
theorem wr_nan (f : FFmt) (mode : Nat) (fm : BitVec 8) (r : Nat) (p : Bool) : f.wr mode fm r (.nan p) = f.nanBits p := rfl

/-! ### The end of an instruction -/

/-- An instruction ends with its switch marker: the marker parks the strand while a result is outstanding (02 R34). -/
theorem strand_finishAt_marked (s : State) (i : SlotId) (words : Nat) (sw : Bool) :
    (s.finishAt i words sw).strand i =
      if (sw && s.owes (s.strand i).uid) = true then
        { (s.strand i).retire words with status := .parked .results, words := 0 }
      else (s.strand i).retire words := by
  simp only [State.finishAt, State.marked, State.owes_upd, State.strand_upd_same]
  rw [show ((s.strand i).retire words).uid = (s.strand i).uid from rfl]
  split <;> simp

theorem owes_finishAt (s : State) (i : SlotId) (words : Nat) (sw : Bool) (u : Nat) :
    (s.finishAt i words sw).owes u = s.owes u := by
  simp only [State.owes, State.net_finishAt]

/-- A vector instruction ends when all that it has written of its strand is vector registers and SEED. -/
theorem ended_finishAt {s u : State} {v : Vector VWord 16} {z : BitVec 32} (words : Nat) (sw : Bool) (hnet : u.net = s.net)
    (hu : u.strand s.cur = { s.me with v := v, seed := z }) : Ended s (u.finishAt s.cur words sw) words sw := by
  have howes : u.owes s.me.uid = s.owes s.me.uid := by simp only [State.owes, hnet]
  unfold Ended
  rw [owes_finishAt, howes, strand_finishAt_marked, hu, howes]
  split <;> simp [Strand.retire, *]

theorem v_finishAt (s : State) (i : SlotId) (words : Nat) (sw : Bool) :
    ((s.finishAt i words sw).strand i).v = (s.strand i).v := by
  rw [strand_finishAt_marked]
  split <;> rfl

theorem seed_finishAt (s : State) (i : SlotId) (words : Nat) (sw : Bool) :
    ((s.finishAt i words sw).strand i).seed = (s.strand i).seed := by
  rw [strand_finishAt_marked]
  split <;> rfl

/-! ### Writing lanes -/

/-- A register written from packed lanes holds them, and no other register has changed. -/
theorem lanesAre_of_v_eq {s t : State} {d : VReg} {w : Nat} {xs : List Nat}
    (h : (t.strand s.cur).v = (s.me.setV d (packLanes w xs)).v) :
    LanesAre s t d w (fun j => BitVec.ofNat w (xs.getD j 0)) := by
  refine ⟨fun j hj => ?_, fun e he => ?_⟩
  · simp [h, Strand.setV, lane_packLanes w xs hj]
  · have hne : (d : Nat) ≠ e := fun heq => he (Fin.ext heq.symm)
    simp [h, Strand.setV, hne]

/-- The draws of an instruction that rounds n lanes, one a lane, and the SEED after them; a member that does not draw leaves
SEED (05 R92). -/
def laneDraws (t : Strand) (drawn : Bool) (n : Nat) : List Nat × BitVec 32 :=
  if drawn then draws t.rmode.toNat n t.seed else ([], t.seed)

/-- Writing lanes updates the one register and SEED, and ends the instruction. -/
theorem writeLanes_next (s : State) (f : FFmt) (d : VReg) (xs : List FVal) (drawn : Bool) (words : Nat) (sw : Bool) :
    ∃ u : State, writeLanes s f d xs drawn words sw = .next (u.finishAt s.cur words sw) ∧ u.net = s.net
      ∧ u.strand s.cur = { s.me.setV d (packLanes f.width
            (roundLanes f s.me.rmode.toNat s.me.fmode xs (laneDraws s.me drawn xs.length).1)) with
          seed := (laneDraws s.me drawn xs.length).2 } := by
  cases drawn with
  | false => exact ⟨_, rfl, rfl, by simp [laneDraws, State.me, Strand.setV]⟩
  | true => exact ⟨_, rfl, rfl, by simp [laneDraws, State.me, Strand.setV]⟩

/-- The lane written at j is the value at j rounded with the draw at j. -/
theorem getD_roundLanes_map_range (f : FFmt) (mode : Nat) (fm : BitVec 8) (x : Nat → FVal) (rs : List Nat) {n j : Nat}
    (hj : j < n) : (roundLanes f mode fm ((List.range n).map x) rs).getD j 0 = f.wr mode fm (rs.getD j 0) (x j) := by
  simp [List.getD_eq_getElem?_getD, getElem?_roundLanes, hj]

/-- Writing one value a lane ends the instruction with each lane rounded once and SEED past the draws. -/
theorem writeLanes_spec (s : State) (f : FFmt) (d : VReg) (x : Nat → FVal) (drawn : Bool) (words : Nat) (sw : Bool) :
    ∃ t, writeLanes s f d ((List.range (128 / f.width)).map x) drawn words sw = .next t ∧ Ended s t words sw
      ∧ LanesAre s t d f.width (fun j => BitVec.ofNat f.width (f.wr s.me.rmode.toNat s.me.fmode
          ((laneDraws s.me drawn (128 / f.width)).1.getD j 0) (x j)))
      ∧ (t.strand s.cur).seed = (laneDraws s.me drawn (128 / f.width)).2 := by
  obtain ⟨u, hexec, hnet, hu⟩ := writeLanes_next s f d ((List.range (128 / f.width)).map x) drawn words sw
  rw [List.length_map, List.length_range] at hu
  obtain ⟨hlanes, hothers⟩ := lanesAre_of_v_eq (t := u.finishAt s.cur words sw) (by rw [v_finishAt, hu])
  refine ⟨_, hexec, ended_finishAt words sw hnet hu, ⟨fun j hj => ?_, hothers⟩, by rw [seed_finishAt, hu]⟩
  simpa only [getD_roundLanes_map_range _ _ _ _ _ hj] using hlanes j hj

end Sys2Proof.Proofs.VectorLanes
end

section
/-! VSCL (11 R213): each lane times a power of two, rounded with its draw, or the canonical NaN in every lane. -/

namespace Sys2Proof.Proofs.VectorScale

open Sys2Proof Sys2Proof.Machine Sys2Proof.Claims Sys2Proof.Proofs.VectorLanes

/-- A scale exponent below 63: the scaled lanes are written with their draws. -/
theorem exec_vscl_of_ne {s : State} {x : Src} (ty : FTy) (d a : VReg) (sw : Bool) (hp : s.me.anyPending x.regs = false)
    (he : (s.src x).toNat % 64 ≠ 63) :
    exec (.vscl d a x ty sw) s = writeLanes s (ftyFmt ty) d ((List.range (128 / (ftyFmt ty).width)).map
      fun j => (floatLane s ty a j).scale (((s.src x).toNat % 64 : Nat) - 32)) true (x.words + 2) sw := by
  change execVscl d a x ty sw s = _
  simp [execVscl, hp, he, floats_eq_map_floatLane, Function.comp_def]

/-- The scale exponent 63: NaN is written in every lane, without draws. -/
theorem exec_vscl_of_eq {s : State} {x : Src} (ty : FTy) (d a : VReg) (sw : Bool) (hp : s.me.anyPending x.regs = false)
    (he : (s.src x).toNat % 64 = 63) :
    exec (.vscl d a x ty sw) s = writeLanes s (ftyFmt ty) d ((List.range (128 / (ftyFmt ty).width)).map
      fun _ => .nan false) false (x.words + 2) sw := by
  change execVscl d a x ty sw s = _
  simp [execVscl, hp, he, floats_eq_map_floatLane, Function.comp_def]

/-- Settles O27: VSCL writes one value a lane, which is the scaled lane or, for E = 63, a NaN that is written canonical. -/
theorem vectorScale : Obligations.VectorScale := by
  intro s ty d a x sw hp
  refine ⟨fun he => ?_, fun he => ?_⟩
  · obtain ⟨t, hexec, hpost⟩ := writeLanes_spec s (ftyFmt ty) d _ true (x.words + 2) sw
    exact ⟨t, (exec_vscl_of_ne ty d a sw hp he).trans hexec, hpost⟩
  · obtain ⟨t, hexec, hpost⟩ := writeLanes_spec s (ftyFmt ty) d (fun _ => .nan false) false (x.words + 2) sw
    simp only [wr_nan] at hpost
    exact ⟨t, (exec_vscl_of_eq ty d a sw hp he).trans hexec, hpost⟩

end Sys2Proof.Proofs.VectorScale
end
